-- ==== Sys2Proof/Word.lean ====
section
/-! DEFINITION. The word types of the block and the sparse array every indexed store of the state is held in. -/

namespace Sys2Proof

/-- One byte. -/
abbrev Byte := BitVec 8

/-- One setup register, descriptor word or core register (R6, R184). -/
abbrev Word := BitVec 32

/-- A 64-bit value: a shared word (R213), a register pair (R187), a call slip (R436). -/
abbrev DWord := BitVec 64

/-- An array indexed by a natural number, of which only the entries that differ from the default are listed.
Canonical form (`Sparse.wf`, Machine/Sparse.lean): indices strictly rising, no default entry. -/
abbrev Sparse (α : Type) := List (Nat × α)

end Sys2Proof
end

