-- ==== Sys2Proof/Config.lean ====
section
/-! DEFINITION. What one implementation fixes and the spec leaves open: the free values. Each is an opaque
constant without a body, so nothing can be proved about its value. -/

namespace Sys2Proof

/-- A free number, drawn with the counter `Dev.fresh`: a value that the spec leaves open at that event (DESIGN CHOICE, log entry 1). -/
opaque Config.freeNat : Nat → Nat

/-- One bit of a free value. -/
def Config.freeBit (n : Nat) : Bool := Config.freeNat n % 2 == 1

/-- A free word. -/
def Config.freeWord (n : Nat) : Word := BitVec.ofNat 32 (Config.freeNat n)

/-- The C flag that `CMP a b` leaves: R187 names the carry flag and R197 says that CMP sets the flags, but no rule
says whether C is a carry or a borrow (DESIGN CHOICE, log entry 2). -/
opaque Config.cmpCarry : Word → Word → Bool

/-- `SHL` by 32 or more (DESIGN CHOICE, log entry 3). -/
opaque Config.shiftWide : Word → Word → Word

/-- The high word of `MUL` and the quotient of `DIV` where the signed and the unsigned reading differ (DESIGN CHOICE, log entry 4). -/
opaque Config.mulHigh : Word → Word → Word
opaque Config.divOpen : Word → Word → Word

/-- `CRCB` with CRC-8: R197 names the CRC but gives no polynomial (DESIGN CHOICE, log entry 5). -/
opaque Config.crc8Step : Word → Byte → Word

/-- Bytes of a periodic task's item context that R192 gives for a packet only (DESIGN CHOICE, log entry 93). -/
opaque Config.taskContext : Nat → Nat → Byte

/-- `TRANSIT_PHASE.PHASE_ERR` of an error that 31 bits of two's complement do not hold (DESIGN CHOICE, log entry 107). -/
opaque Config.widePhase : Int → Nat

/-- The completion timeout that the device uses within the range that a code of the function's Device Control 2 register names, in ns: the
host chooses a range, and the device the time in it (PRESUMED, log entry 168). -/
opaque Config.completionTimeout : Nat → Nat

/-- The content of the supervisor ROM's version field and the identity of a device are per device (R746, R551). -/
opaque Config.romVersion : Nat
opaque Config.stepping : Nat

/-- The fuses of a device (R554): the bytes of its device root and of its `IDENTITY`. -/
opaque Config.rootByte : Nat → Byte
opaque Config.identityByte : Nat → Byte

/-- The counter block under which the value of a slot copy is encrypted, by slot and generation, and the key derived from a storage key that
tags copies (R577) (DESIGN CHOICE, log entry 177). -/
opaque Config.storeBlock : Nat → Nat → List Byte
opaque Config.storeTagKey : List Byte → List Byte

end Sys2Proof
end

