-- ==== Sys2Proof/Machine/Sparse.lean ====
section
/-! DEFINITION. Sparse arrays: reading, writing, and the canonical form that makes equal arrays equal data. -/

namespace Sys2Proof

/-- The entry at `i`: the listed one, or the default where none is listed. -/
def sget {α : Type} [Inhabited α] : Sparse α → Nat → α
  | [], _ => default
  | (k, v) :: r, i => if i = k then v else sget r i

/-- Drop what is listed at `i`. -/
def sdel {α : Type} : Sparse α → Nat → Sparse α
  | [], _ => []
  | (k, w) :: r, i => if k = i then sdel r i else (k, w) :: sdel r i

/-- List `v` at `i`, before the first greater index. -/
def sins {α : Type} : Sparse α → Nat → α → Sparse α
  | [], i, v => [(i, v)]
  | (k, w) :: r, i, v => if i < k then (i, v) :: (k, w) :: r else (k, w) :: sins r i v

/-- Put `v` at `i`, keeping the indices strictly rising and no default entry listed. -/
def sput {α : Type} [Inhabited α] [DecidableEq α] (m : Sparse α) (i : Nat) (v : α) : Sparse α :=
  if v = default then sdel m i else sins (sdel m i) i v

/-- Change the entry at `i`. -/
def smod {α : Type} [Inhabited α] [DecidableEq α] (m : Sparse α) (i : Nat) (f : α → α) : Sparse α :=
  sput m i (f (sget m i))

/-- Every index of the array is at least `lo`, indices rise strictly, and no entry is the default. -/
def swfFrom {α : Type} [Inhabited α] [DecidableEq α] : Nat → Sparse α → Bool
  | _, [] => true
  | lo, (k, v) :: r => decide (lo ≤ k) && decide (v ≠ default) && swfFrom (k + 1) r

/-- The canonical form. -/
def swf {α : Type} [Inhabited α] [DecidableEq α] (m : Sparse α) : Bool := swfFrom 0 m

/-- Change every listed entry, dropping those that become the default. -/
def smap {α : Type} [Inhabited α] [DecidableEq α] (f : Nat → α → α) : Sparse α → Sparse α
  | [] => []
  | (k, v) :: r => if f k v = default then smap f r else (k, f k v) :: smap f r

/-- The indices listed that satisfy `p`. -/
def sfind {α : Type} (m : Sparse α) (p : Nat → α → Bool) : List Nat :=
  (m.filter fun e => p e.1 e.2).map Prod.fst

/-- The least index from 0 below `n` that is not listed with `p` holding. -/
def firstFree {α : Type} [Inhabited α] (m : Sparse α) (n : Nat) (used : α → Bool) : Option Nat :=
  (List.range n).find? fun i => !used (sget m i)

end Sys2Proof
end

