-- ==== Sys2Proof/Terms.lean ====
section
/-! DEFINITION. The operand types of the commands: what comes with a command from outside (a frame on a medium, a
descriptor in host memory, what the power dies sense, an image). -/

namespace Sys2Proof

/-- Service class of an entry, a ring, a queue or a channel (R41, R84, R383, R491). -/
inductive Cls | safety | control | bulk
  deriving DecidableEq, Repr, Inhabited

/-- One general register of a core, `G0` to `G31` (R187). -/
abbrev GReg := Fin 32

/-- A core: 0–15 FE00–FE15, 16–19 IS0–IS3, as the resource codes 0x00–0x13 (R43). -/
abbrev CoreId := Fin 20

/-- Indices that the commands name: a host port, a tenant, a ring (64 is the tenant's cipher queue), a domain, an Ethernet
port, its traffic class, a CAN channel, its folio, a LIN channel, a power die, a load channel (64–71 HB0–HB7), a switch input, a
Stacks queue, a Catalogue entry, a stream filter, a flow meter, a flow engine and a transport context. -/
abbrev HostPort := Fin 4
abbrev Tenant := Fin 16
abbrev RingIx := Fin 65
abbrev TimeDom := Fin 4
abbrev EthIx := Fin 20
abbrev TcIx := Fin 8
abbrev CanIx := Fin 24
abbrev FolioIx := Fin 64
abbrev LinIx := Fin 16
abbrev DieIx := Fin 2
abbrev ChanIx := Fin 72
abbrev InputIx := Fin 96
abbrev QueueIx := Fin 4096
abbrev CatIx := Fin 16384
abbrev FilterIx := Fin 1024
abbrev MeterIx := Fin 512
abbrev FeId := Fin 16
abbrev TpIx := Fin 64

/-- The second operand of an engine instruction: a register or an immediate. -/
inductive Src
  | reg (r : GReg)
  | imm (w : Word)
  deriving DecidableEq, Repr

/-- What `MOV` reads: a general register, or one of the two read-only registers of the programmer's model (R187). -/
inductive MovSrc
  | reg (r : GReg)
  | cycles
  | transit
  deriving DecidableEq, Repr

/-- The flags of the flag word that a branch can test (R187). -/
inductive FlagName | z | c | n | v | nv
  deriving DecidableEq, Repr

/-- Access size of a load or a store. -/
inductive Size | byte | half | word | dword
  deriving DecidableEq, Repr

/-- The three CRC steps of `CRCB` (R197). -/
inductive CrcKind | crc8 | crc15 | crc32
  deriving DecidableEq, Repr

/-- A CAN frame as it stands on the wire or in a folio: the pseudo-header fields of R109/R131 and the data. -/
structure CanFrame where
  id   : Nat := 0
  ide  : Bool := false
  rtr  : Bool := false
  fdf  : Bool := false
  brs  : Bool := false
  esi  : Bool := false
  xlf  : Bool := false
  dlc  : Nat := 0
  len  : Nat := 0          -- the data length that the pseudo-header states (bytes 6-7)
  sdt  : Nat := 0
  sec  : Bool := false
  vcid : Nat := 0
  af   : Nat := 0
  data : List Byte := []
  deriving DecidableEq, Repr, Inhabited

/-- How the reception of a CAN frame ended (R236, R254). `early` says that it ended inside the arbitration field, before the
acceptance decision; `more` counts the further events in its error signalling by which ISO 11898-1 raises the receive counter
by 8 (a dominant bit after the device's own error flag, a bit error in that flag, dominant bits past it). `bitErr` is an error
in a bit that a receiver drives, and `resBit` a recessive res bit (R234). -/
inductive CanRx
  | good
  | stuffErr (early : Bool) (more : Nat)
  | formErr (more : Nat)
  | crcErr (more : Nat)
  | bitErr (more : Nat)
  | aborted (early : Bool) (more : Nat)
  | resBit (more : Nat)
  deriving DecidableEq, Repr

/-- How a CAN transmission ended (R250, R252–R255). `bitDataErr` is a bit error that the device itself detects
after the arbitration field: a collision. `arb` says that an error lies inside the arbitration field; `seen`, that a dominant
bit stood while the device sent its passive error flag after a missing acknowledgement; `more` counts the further events by
which ISO 11898-1 raises the transmit counter by 8. -/
inductive CanTx
  | acked
  | arbLost
  | bitDataErr (more : Nat)
  | ackErr (seen : Bool) (more : Nat)
  | otherErr (lec : Nat) (arb : Bool) (more : Nat)
  deriving DecidableEq, Repr

/-- A LIN response as the bus carried it (R270, R278): its data and checksum bytes; a stop bit was missing, or a bit that the channel
sent read back wrong; or it did not come whole. -/
inductive LinResp
  | bytes (data : List Byte) (sum : Byte)
  | framing | bitErr | missing
  deriving DecidableEq, Repr

/-- An Ethernet frame from its destination address, without FCS, with what its reception showed (R288, R293, R313, R324). -/
structure EthFrame where
  bytes    : List Byte := []
  fcsErr   : Bool := false
  codeErr  : Bool := false
  nodeId   : Nat := 0xFF
  deriving DecidableEq, Repr, Inhabited

/-- What a packet in Stacks carries (R131, R205). -/
inductive PktKind | eth | can | lin
  deriving DecidableEq, Repr, Inhabited

/-- A timing block (R359). -/
structure TimingBlock where
  launchEn : Bool := false
  stampReq : Bool := false
  insert   : Nat := 0
  domain   : Nat := 0
  lateDrop : Bool := false
  ptpOffset : Nat := 0
  reportShelfmark : Nat := 0
  cookie   : Nat := 0
  launchSec : Nat := 0
  launchNs : Nat := 0
  csumOffset : Nat := 0
  refSec   : Nat := 0
  refSub   : Nat := 0
  refNs    : Nat := 0
  deriving DecidableEq, Repr, Inhabited

/-- An output command block (R483). -/
structure OutCmd where
  channel : Nat := 0
  op      : Nat := 1
  state   : Nat := 0
  flags   : Nat := 0
  duty    : Nat := 0
  phase   : Nat := 0
  ramp    : Nat := 0
  reserved : Bool := false     -- true: a reserved byte or bit of the block is not 0
  deriving DecidableEq, Repr, Inhabited

/-- The body of a cipher descriptor (R613) with the bytes found at `SRC`. -/
structure CipherBody where
  dst      : Nat := 0
  mode     : Nat := 0
  tagLen   : Nat := 0
  handle   : Nat := 0
  length   : Nat := 0
  aadLen   : Nat := 0
  ivLen    : Nat := 0
  src      : List Byte := []
  deriving DecidableEq, Repr, Inhabited

/-- The body of a descriptor, by opcode (R400, R401–R406, R613), with the host memory it names. -/
inductive Body
  | txFrame (kind : PktKind) (frame : List Byte) (timing : Option TimingBlock)
  | txFolio (channel folio : Nat) (replace : Bool) (frame : List Byte)
  | cancel (channel folio : Nat)
  | rxBuf (addr : Nat)
  | recTrigger
  | recReadout (span frm buf limit : Nat)
  | recRelease (span : Nat)
  | table (tbl op index buf : Nat) (data : List Byte)
  | indirect (first count : Nat) (entries : List Byte)
  | stream (op index : Nat) (data : List Word)
  | macsec (port op rxChan an : Nat) (block : List Byte)
  | time (domain op sec ns : Nat)
  | channel (resource op tbl : Nat)
  | outCmd (c : OutCmd)
  | cipher (op : Nat) (b : CipherBody)
  | bad                                   -- a reserved opcode, or a body that breaks its ranges
  deriving DecidableEq, Repr, Inhabited

/-- What the device reads in host memory for the next item of a ring (R389, R399): the ring's slots from its head on, 32 bytes each, and
the content of the host buffers that the item's descriptors name, in their order. `kind` says what a frame is (DEDUCED, log entry 13). -/
structure HostRead where
  slots  : List (List Byte) := []
  bufs   : List (List Byte) := []
  kind   : PktKind := .eth
  readOk : Bool := true       -- false: the DMA read of a payload failed (R420)
  deriving DecidableEq, Repr, Inhabited

/-- One item of a submission ring, taken apart (R389, R399). -/
structure HostItem where
  slots  : Nat := 1
  bytes  : Nat := 32          -- bytes read for it, descriptors included (R393)
  reads  : List (Nat × Nat) := []   -- addresses and lengths of the payload that its descriptors name
  tag    : Nat := 0
  irqNow : Bool := false
  body   : Body := .bad
  readOk : Bool := true
  deriving DecidableEq, Repr, Inhabited

/-- A slot of a receive ring that the device has read (R405): `ok` says that it holds a valid `RX_BUF`. -/
structure Posted where
  tag  : Nat := 0
  addr : Nat := 0
  ok   : Bool := false
  irq  : Bool := false
  deriving DecidableEq, Repr, Inhabited

/-- Who gives a command that has both a register form and a ring form (R256, R274, R351, R352). -/
inductive Via
  | reg (port : HostPort)
  | ring (tenant : Tenant) (ring : RingIx)
  deriving DecidableEq, Repr

/-- What the power dies sense at the start of a transit (R462, R467, R470, R498): temperatures in °C, battery in mV, the
mean and peak current in mA that each channel's load tries to draw, the mean over the on-phases of a channel in PWM, and the energy of each clamp pulse in µJ over the transit that ended, and the
sensors of single channels. -/
structure Sensed where
  tempA : Int := 25
  tempB : Int := 25
  vbatA : Nat := 24000
  vbatB : Nat := 24000
  currents : List (Nat × Int × Int) := []
  onMeans : List (Nat × Int) := []
  clamps : List (Nat × Nat) := []
  limits : List (Nat × Nat) := []
  chTemps : List (Nat × Int) := []
  deriving DecidableEq, Repr, Inhabited

/-- The content of a companion's HELLO (R669). -/
structure Hello where
  identity  : List Byte := []
  gradeF    : Bool := false
  sideB     : Bool := false
  lifecycle : Nat := 0
  lenCode   : Nat := 0
  images    : List (Nat × Nat × Nat × Nat) := []    -- kind, target, VERSION, BODY_CRC of every active image
  configIds : List Nat := []                        -- and their CONFIG_ID, in the same order
  quiesced  : List Nat := []
  pairCounter : Nat := 0
  pairKek   : Nat := 0
  drive     : Bool := false
  seeking   : Bool := false
  deriving DecidableEq, Repr, Inhabited

/-- A colophon as its bytes spell it (R220), with what the checks of R222 compare: whether `MAGIC`, `FORMAT` and `BODY_CRC` are right, and
`digest`, the SHA-256 of colophon bytes 0–63 and the body. -/
structure Colophon where
  magicOk : Bool := true
  formatOk : Bool := true
  kind    : Nat := 0
  target  : Nat := 0
  any     : Bool := false
  version : Nat := 0
  provides : Nat := 0
  requires : Nat := 0
  configId : Nat := 0
  bodyLen : Nat := 0
  bodyCrc : Nat := 0
  crcOk   : Bool := true
  codeLen : Nat := 0
  initLen : Nat := 0
  persistLines : Nat := 0
  dispatchCount : Nat := 0
  svFirst : Nat := 0
  svCount : Nat := 0
  cipherMax : Nat := 0
  signer  : Nat := 0
  digest  : List Byte := []
  signature : List Byte := []
  deriving DecidableEq, Repr, Inhabited

/-- One entry of an almanac image (R41). -/
structure AlmEntry where
  id       : Nat := 0
  kind     : Nat := 0
  resource : Nat := 0
  cls      : Nat := 0
  owner    : Nat := 0
  period   : Nat := 1
  phase    : Nat := 0
  winOpen  : Nat := 0
  winClose : Nat := 1024
  bound    : Nat := 0
  span     : Nat := 1
  carry    : Nat := 0
  costItem : Nat := 0
  costFixed : Nat := 0
  trigger  : Nat := 0
  deriving DecidableEq, Repr, Inhabited

/-- An almanac image (R41). `bytesLen` is the image's length, `reservedOk` says that its reserved bytes are 0. -/
structure Almanac where
  magic   : Nat := 0x4E414D4C
  len     : Nat := 1
  format  : Nat := 1
  count   : Nat := 0
  hyper   : Nat := 1
  bytesLen : Nat := 16
  reservedOk : Bool := true
  entries : List AlmEntry := []
  deriving DecidableEq, Repr, Inhabited

/-- One register record of a configuration image (R699). -/
structure CfgRecord where
  offset : Nat := 0
  value  : Word := 0
  mask   : Word := 0
  deriving DecidableEq, Repr, Inhabited

/-- The body of an image, by kind (R221, R41, R699, R511). -/
inductive ImageBody
  | none
  | core (code init : List Byte) (dispatch : List (Nat × Nat))
  | almanac (a : Almanac)
  | config (records : List CfgRecord)
  | calibration (entries : List (Nat × Nat))
  deriving DecidableEq, Repr, Inhabited

/-- An image: colophon and body. -/
structure Image where
  col  : Colophon := {}
  body : ImageBody := .none
  deriving DecidableEq, Repr, Inhabited

/-- A key-update record (R566). `value` is the decrypted 32-byte value of a write. -/
structure KeyRecord where
  slot  : Nat := 0
  rop   : Nat := 0
  abort : Bool := false
  expectGen : Nat := 0xFFFFFFFF
  type  : Nat := 0
  sflags : Nat := 0
  usage : Nat := 0
  rsvOk : Bool := true
  deriving DecidableEq, Repr, Inhabited

/-- Who reads the registers (R454, R455): a host through its port, or a supervisor. -/
inductive Reader
  | host (port : HostPort)
  | sva
  | svb
  deriving DecidableEq, Repr

/-- What PCIe configuration space is asked for (R445, R454, R737, R738): a read of one of its items, or a write of one that the host sets. -/
inductive CfgItem
  | vendorId | deviceId | revisionId | classCode | subVendorId | subsystemId | interruptPin
  | bar0Size | bar0Type | bar2Size | bar4Size | maxPayload | serialLow | serialHigh
  | payloadSize | readRequestSize | readBoundary | timeoutRanges | completionTimeout
  | bar2Type | bar4Type | msixEntries | msixTable | msixPending | functionReset | timeoutDisable | d3hot
  | bar0 | bar2 | bar4 | d0 | powerManagement | pciExpress | msixCapability | errorReporting | serialCapability
  deriving DecidableEq, Repr

/-- The kinds of frame that `TP_REPLY` builds. -/
inductive TpReplyKind | cts | endOfMsgAck | dpo | abort
  deriving DecidableEq, Repr

/-- The fields of `LS_CMD` as a command gives them. -/
structure LsFields where
  pair : Bool := false
  carry : Bool := false
  withAlm : Bool := false
  kind : Nat := 0
  target : Nat := 0
  deriving DecidableEq, Repr, Inhabited

/-- What a die's always-on domain, or a bus controller after the commit, finds (R531, R533, R535). -/
inductive WakeSource
  | static (k since : Nat)      -- and since when the comparator has held the level (R532)
  | polled (k : Nat)
  | canPattern (ch : Nat)
  | canFrame (ch : Nat) (f : CanFrame)
  | canErrors (ch : Nat)
  | lin (ch : Nat)
  deriving DecidableEq, Repr

end Sys2Proof
end

