-- ==== Sys2Proof/Machine/Stores.lean ====
section
/-! DEFINITION. The stores of the block: the structures that the state is made of, and the kept stores, which a withdrawal
returns to their last complete mirror delta (R629) and which a mirror delta carries (R670). -/

namespace Sys2Proof.Machine

/-- The host item behind a packet, a command or an operation: where its completion goes (R407). `ring` is 64 for the
tenant's cipher queue. -/
structure HostRef where
  tenant : Nat := 0
  ring   : Nat := 0
  tag    : Nat := 0
  irqNow : Bool := false
  sqHead : Nat := 0
  acc    : Nat := 0
  transit : Nat := 0
  deriving DecidableEq, Repr, Inhabited

/-- One parsed header (R130, R192): `off` is `none` for a header built from an ACF message. -/
structure Hdr where
  kind  : Nat := 0
  inst  : Nat := 0
  level : Nat := 0
  off   : Option Nat := none
  len   : Nat := 0
  deriving DecidableEq, Repr, Inhabited

/-- What the classifier found (R128, R149, R156, R192). -/
structure Classified where
  done    : Bool := false
  flags   : Nat := 0
  hdrs    : List Hdr := []
  built   : List Byte := []
  pm      : Nat := 0
  shelf   : Nat := 0
  hash    : Nat := 0
  verdict : Nat := 0
  payOff  : Nat := 0            -- where PAYLOAD begins
  level   : Nat := 0            -- deepest tunnel level
  tags    : Nat := 0
  deriving DecidableEq, Repr, Inhabited

/-- One packet handle of Stacks (R71, R74, R77). -/
structure Packet where
  used    : Bool := false
  data    : List Byte := []
  kind    : PktKind := .eth
  refs    : Nat := 0
  acc     : Nat := 0
  res     : Nat := 0            -- ingress resource, 0x80 + port for a host item
  writer  : Nat := 0            -- the resource code whose reserve the cells came from first
  cells   : Nat := 0
  fromRes : Nat := 0            -- of these, cells taken from the writer's reserve
  transit : Nat := 0            -- entry transit
  born    : Nat := 0            -- instant of the commit (local counter, ns)
  stampSec : Nat := 0
  stampNs : Nat := 0
  stampAt : Nat := 0            -- the local counter at the capture of that stamp (R336)
  stampOff : Int := 0           -- what the reference plane adds to a domain's time at that instant, in 2⁻¹⁶ ns (R343)
  bad     : Nat := 0            -- receive error flags of an Ethernet frame: bits 2:0 of ETH_FLAGS (R294)
  sec     : Nat := 0            -- MACSEC_UNCHECKED and MACSEC_OK at their places in ETH_FLAGS: 16 and 32
  nodeId  : Nat := 0xFF
  host    : Option HostRef := none
  tenant  : Nat := 0
  timing  : Option TimingBlock := none
  cls     : Classified := {}
  dropElig : Bool := false      -- DROP_ELIGIBLE of a meter (R319)
  direct  : Option Nat := none      -- target queue of a DIRECT ring's item (R402)
  folio   : Option (Nat × Nat × Bool) := none   -- channel, folio, REPLACE of a TX_FOLIO item (R403)
  companion : Bool := false     -- received over the Denren link (R17)
  asIs    : Bool := false       -- its bytes are those that a medium committed, so that a mirror delta names it by tally (R670)
  deriving DecidableEq, Repr, Inhabited

/-- One entry of a queue: a reference to a packet, and the first transit in which it can be popped (R396). -/
structure QEntry where
  handle : Nat := 0
  ready  : Nat := 0
  bucket : Option (Nat × Nat) := none     -- tenant and bucket of a spread packet (R169)
  stamp  : Bool := false                  -- a stamp-queue entry is reserved for the frame (R367)
  pushed : Nat := 0                       -- instant of the push
  own : Option Nat := none                -- the transit of a push that a SHADOW unit's own programs made (R674)
  tally : Nat := 0                        -- the packet's tally, by which a departure report names it (R675)
  held : Bool := false                    -- it has reached the head on a SHADOW unit, which keeps it, and is counted (R676)
  deriving DecidableEq, Repr, Inhabited

/-- One queue (R84–R103): the on-chip part, the extension in external memory and the arming of its notice. The two
pointer copies of R95 agree with it in every state (DEDUCED, log entry 7). -/
structure Queue where
  items   : List QEntry := []
  ext     : List (Packet × QEntry) := []
  extBytes : Nat := 0
  disarmed : Bool := false
  noticed : Bool := false              -- an event record is out and no read of the notice has been delivered
  deriving DecidableEq, Repr, Inhabited

/-- A record of the recorder (R108): `pos` is its place in the ring in 32-byte units, `seq` its order of writing. -/
structure Rec where
  pos     : Nat := 0
  units   : Nat := 1
  acc     : Nat := 0
  kind    : Nat := 0
  source  : Nat := 0
  transit : Nat := 0
  stampSec : Nat := 0
  stampNs : Nat := 0
  frameLen : Nat := 0
  flags   : Nat := 0
  shelf   : Nat := 0xFFFFFFFF
  payload : List Byte := []
  spoilt  : Bool := false     -- a multi-bit error spoilt it: its `CHECK` is bad, and it counts as not written (R632)
  deriving DecidableEq, Repr, Inhabited

/-- A pinned span (R112): the parts of the ring that its records fill (first unit and units, oldest first; none before its first
trigger marker is written), units of records it still takes, whether it is still open, and how many of its trigger markers wait to be
written. -/
structure Span where
  used  : Bool := false
  parts : List (Nat × Nat) := []
  left  : Nat := 0
  opn   : Bool := false
  wait  : Nat := 0
  deriving DecidableEq, Repr, Inhabited

/-- The recorder control area (R104, R122): the write position, the accession number of the last record written and the span table. -/
structure RecCtl where
  unit  : Nat := 0
  last  : Option Nat := none
  spans : Sparse Span := []
  deriving DecidableEq, Repr, Inhabited

/-- A TCAM entry (R153): 40-byte value and mask as little-endian numbers. -/
structure TcamEntry where
  valid : Bool := false
  value : Nat := 0
  mask  : Nat := 0
  result : Nat := 0
  deriving DecidableEq, Repr, Inhabited

/-- An entry of the exact table (R154): 18-byte key as a little-endian number. -/
structure ExactEntry where
  valid : Bool := false
  key : Nat := 0
  result : Nat := 0
  deriving DecidableEq, Repr, Inhabited

/-- A Catalogue entry (R171). `reported` is the device's own note that a verdict record is out since the entry was last
read (R177). -/
structure CatEntry where
  kind : Nat := 0
  resource : Nat := 0
  policy : Nat := 0
  state : Nat := 0
  address : List Byte := []
  prevAddress : List Byte := []
  changedAt : Nat := 0
  wakeRole : Nat := 0
  ownerTenant : Nat := 0
  name : Nat := 0
  lastSeen : Nat := 0
  liveTimeout : Nat := 0
  rateLimit : Nat := 0
  rateSpan : Nat := 0
  rateCount : Nat := 0
  freshTx : Nat := 0
  freshRx : Nat := 0
  impostors : Nat := 0
  overrates : Nat := 0
  reported : Bool := false
  deriving DecidableEq, Repr, Inhabited

/-- A line of the freshness record in MRAM (R207). -/
structure FreshLine where
  kind : Nat := 0
  resource : Nat := 0
  key : Nat := 0
  txMark : Nat := 0
  rxMark : Nat := 0
  deriving DecidableEq, Repr, Inhabited

/-- An item waiting for a core or running on one (R60, R193). -/
structure Item where
  entry   : Nat := 0
  cls     : Cls := .bulk
  handle  : Option Nat := none
  acc     : Nat := 0
  transit : Nat := 0            -- entry transit
  elig    : Nat := 0            -- the transit in which it is eligible
  carried : Bool := false
  excess  : Bool := false
  held    : Option Nat := none  -- the transit from which live service holds it (R710)
  tsLost  : Bool := false       -- a frame that it forwarded found no stamp-queue entry (R367)
  host    : Option HostRef := none
  deriving DecidableEq, Repr, Inhabited

/-- A packet builder of a flow engine (R791). -/
structure Builder where
  opn    : Bool := false
  handle : Nat := 0
  data   : List Byte := []
  cells  : Nat := 0
  fromRes : Nat := 0
  kind   : PktKind := .eth
  deriving DecidableEq, Repr, Inhabited

/-- A transport context (R209–R211). -/
structure TpCtx where
  used  : Bool := false
  tx    : Bool := false
  mode  : Nat := 0          -- 0 BAM, 1 RTS/CTS, 2 extended
  pgn   : Nat := 0
  src   : Nat := 0
  dst   : Nat := 0
  prio  : Nat := 0
  size  : Nat := 0
  count : Nat := 0
  next  : Nat := 1          -- sequence number expected or to be sent next
  window : Nat := 1         -- first sequence number of the current CTS window
  span  : Nat := 0          -- deadline length in transits
  deadline : Nat := 0
  data  : List Byte := []
  deriving DecidableEq, Repr, Inhabited

/-- One core (R184–R219): the programmer's model, its memories outside the persistent area, the item it runs, and the
items that wait for it. -/
structure Core where
  g       : Sparse Word := []
  pc      : Nat := 0
  z       : Bool := false
  c       : Bool := false
  n       : Bool := false
  v       : Bool := false
  nv      : Bool := false
  cycles  : Nat := 0
  stack   : List Nat := []
  mem     : Sparse Byte := []
  busy    : Option Item := none
  codes   : List Nat := []          -- codes that helpers returned during the item (R196)
  builders : Sparse Builder := []
  ctx     : Sparse TpCtx := []
  queue   : List Item := []
  used    : Nat := 0                -- cycles charged in this transit
  bulk    : Nat := 0                -- of them, those of BULK items that have ended
  hasImage : Bool := false
  image   : Image := {}
  deriving DecidableEq, Repr, Inhabited

/-- The registers and memories that every core starts from. -/
def Core.idle : Core := {}

/-- One ring of a tenant; ring 64 is its cipher queue (R383–R425, R623). Host memory is outside the block: of what the
host wrote there the state holds the posted receive buffers and the items read but not yet acted on. -/
structure Fetched where
  ref  : HostRef := {}
  item : HostItem := {}
  born : Nat := 0
  db   : Nat := 0               -- accession number of the doorbell write that made it available (R388)
  rights : Nat := 0             -- `TENANT_CFG.RIGHTS` when it was read (R718)
  deriving DecidableEq, Repr, Inhabited

/-- An item whose completion is decided while its effects wait for a boundary (R396, R398): the first transit after their release, and the
slot that the completion stands in once it is written. -/
structure Unreleased where
  ref   : HostRef := {}
  ready : Nat := 0
  slot  : Option Nat := none
  deriving DecidableEq, Repr, Inhabited

structure Ring where
  head : Nat := 0
  tail : Nat := 0
  write : Nat := 0
  published : Nat := 0
  consumer : Nat := 0
  snap : Nat := 0               -- tail as it stood at the boundary (R389), or for a completion or event ring the end of what the last delta covers (R397)
  snapAcc : Nat := 0            -- accession number of the last record before that write index
  fetched : Nat := 0            -- slots read in this transit
  stopped : Bool := false       -- reading has stopped for this transit (R389)
  dbs : List (Nat × Nat) := []  -- doorbell writes not yet read up to: new tail and accession number
  reserved : Nat := 0           -- slots of this completion ring reserved for items read (R390)
  open_ : Nat := 0              -- items read whose completion is not yet published (R423)
  done_ : Nat := 0              -- of these, items whose completion is written
  doneAt : Nat := 0             -- of these, those before `snap`
  era : Nat := 0                -- how often the device set the indices of the ring back
  armed : Bool := false
  unreported : Nat := 0
  waited : Nat := 0             -- transits that the oldest unreported record has waited
  irqNow : Nat := 0             -- records with IRQ_NOW behind `snap`
  irqDue : Bool := false        -- a record with IRQ_NOW stands before `snap` and is not reported
  starved : Bool := false
  drops : Nat := 0              -- frames dropped in this transit (R413)
  dropFirst : Nat := 0
  headAt : Nat := 0             -- when the last packet left the queue of a receive ring (R412)
  cqFull : Bool := false
  lost : Nat := 0
  lostFirst : Nat := 0
  lastAcc : Nat := 0
  posted : List Posted := []
  items : List Fetched := []
  inflight : List HostRef := []    -- items read whose completion is not yet written
  waitC : List (Nat × List Byte × Bool) := []   -- completions that wait for their turn in ring order (R404)
  void : List Nat := []            -- accession numbers of items read before a host port reset: their completions are discarded (R422)
  unreleased : List Unreleased := []
  deriving DecidableEq, Repr, Inhabited

/-- A straight piece of a domain's clock (R335): at local instant `loc0` (ns) the time was `t0` (in 2⁻¹⁶ ns), and it
runs at rate correction `rate` (in 2⁻³² ppb). -/
structure Seg where
  loc0 : Nat := 0
  t0   : Int := 0
  rate : Int := 0
  deriving DecidableEq, Repr, Inhabited

/-- The servo and the roles' own state of one domain (R347–R358, R370). Rates in 2⁻³² ppb, offsets in 2⁻¹⁶ ns. -/
structure Servo where
  integral : Int := 0
  rate     : Int := 0
  gm       : Option Nat := none
  good     : Nat := 0             -- consecutive accepted feeds of at most 100 ns
  lastFeed : Nat := 0             -- instant of the last accepted offset feed of the current grandmaster
  lost     : Bool := false        -- a loss feed, or a feed naming another grandmaster, was accepted
  refused  : Int := 0             -- last refused offset
  deltaS   : Int := 0
  revert   : Nat := 0             -- consecutive good feeds of the candidate while FOLLOWING
  revertGm : Option Nat := none
  reverted : Option Int := none   -- the rate at reversion, until the domain is LOCKED again
  derOff   : Int := 0             -- a derived master's offset from its source
  srcRate  : Int := 0             -- the rate last taken from a valid source (R340)
  setPend  : Option (Nat × Nat) := none
  accept   : Bool := false
  stepPend : Option Int := none   -- an accepted step that waits for the boundary (R337)
  deriving DecidableEq, Repr, Inhabited

/-- What a restart leaves of a servo: nothing waits for the next boundary (R370) (DEDUCED, log entry 136). -/
def Servo.settled (s : Servo) : Servo := { s with setPend := none, accept := false, stepPend := none }

/-- A stamp report that a filled stamp-queue entry yields (R368). -/
structure Stamp where
  port : Nat := 0
  sent : Bool := false
  domain : Nat := 0
  cookie : Nat := 0
  acc : Nat := 0
  sub : Nat := 0
  ns : Nat := 0
  sec : Nat := 0
  shelf : Nat := 0
  tenant : Option Nat := none
  entered : Nat := 0              -- entry transit of the frame, and whether it came over GAP_FILL (R683)
  companion : Bool := false
  deriving DecidableEq, Repr, Inhabited

/-- A traffic class of an Ethernet port: its shaper credit in 10⁻⁶ bit and the instant it was brought up to (R305), and
whether the launch time of its head has come (R364). -/
structure TcState where
  credit : Int := 0
  upTo : Nat := 0
  launched : Bool := false
  leftAt : Nat := 0               -- instant at which the last head left: the next one is then at the head
  deriving DecidableEq, Repr, Inhabited

/-- An Ethernet port apart from its registers: its traffic classes, the service classes whose gate is shut (R302), the end of
its last frame with the inter-frame gap and without it, the frames that its open PLCA opportunity may still send (R310), and the stamp-queue entries
in use (R367). -/
structure EthPort where
  tc : Sparse TcState := []
  shut : List Nat := []
  busyUntil : Nat := 0
  wireUntil : Nat := 0
  burst : Nat := 0
  wireKey : Option Nat := none       -- key slot of the protected frame in transmission (R587)
  stampsHeld : Nat := 0
  deriving DecidableEq, Repr, Inhabited

/-- An entry of the ledger (R645). -/
structure LedgerEntry where
  used : Bool := false
  acc  : Nat := 0
  cls  : Nat := 0
  pinned : Bool := false
  autoPin : Bool := false
  handled : Bool := false
  escalated : Bool := false
  flushed : Bool := false
  covered : Bool := false            -- the model's own: a report covered by the restart of another cause (R637)
  part : Nat := 0
  cause : Nat := 0
  inst : Nat := 0
  transit : Nat := 0
  location : Nat := 0
  related : Nat := 0
  code : Nat := 0
  deriving DecidableEq, Repr, Inhabited

/-- The overflow entry (R646). -/
structure Overflow where
  acc : Nat := 0
  lost : Nat := 0
  transit : Nat := 0
  last : Nat := 0
  deriving DecidableEq, Repr, Inhabited

/-- A flow meter's buckets, in units of 1/8,000,000 byte (R318). -/
structure Meter where
  c : Nat := 0
  e : Nat := 0
  last : Nat := 0
  red : Bool := false
  deriving DecidableEq, Repr, Inhabited

/-- A bucket whose indirection entry changed while its old queue still held its packets, with the packets held and the queue that each
is bound for (R169). -/
structure Moved where
  tenant : Nat := 0
  bucket : Nat := 0
  queue  : Nat := 0
  held   : List (Nat × QEntry) := []
  deriving DecidableEq, Repr, Inhabited

/-- What drives a channel's output (R475–R481): its applied state, duty and phase, `PERIOD` + 1 of the base that runs it, 0 where none
does, and the boundary from which that base counts. -/
structure Drive where
  state : Nat := 0
  duty  : Nat := 0
  phase : Nat := 0
  base  : Nat := 0
  since : Nat := 0
  deriving DecidableEq, Repr, Inhabited

/-- One load channel as its power die holds it (R460–R485, R507). `state`, `duty`, `phase` are the commanded state
(coded as SET in R483); the applied state stands in `CH_STATE`. -/
structure Chan where
  state : Nat := 0
  duty  : Nat := 0
  phase : Nat := 0
  rampFrom : Nat := 0
  rampLen : Nat := 0
  rampPos : Nat := 0
  throttle : Option Nat := none    -- the throttle's own duty (R499)
  limited : Bool := false          -- held at its class current limit (R463)
  tripped : Bool := false
  locked : Bool := false
  openLoad : Bool := false
  offFault : Bool := false
  fwFault : Bool := false
  inrushEnd : Option Nat := none   -- end of the open inrush window
  onSince : Option Nat := none
  tripAt : Nat := 0                -- instant of the last trip
  tripTransit : Nat := 0
  tempTrip : Bool := false
  hot : Bool := false              -- the sensor has not been seen below 135 °C since a temperature trip
  retryLeft : Nat := 0
  account : Nat := 0               -- 10⁻¹⁰ J
  drained : Nat := 0               -- instant up to which the account has drained
  onMeans : List Int := []         -- mean currents while on of the last transits, newest first, up to 4 (R473)
  highRun : Nat := 0               -- consecutive transits above the open-load level
  safe : Bool := false             -- the hold window ended and the safe state was taken
  baseOff : Bool := false          -- in PWM on a base that does not run (R476)
  base : Nat := 0                  -- the PWM base in effect since the last boundary (R25, R475)
  swungAt : Nat := 0               -- instant of the last change of its drive, and the drive before it (R481)
  driveWas : Drive := {}
  deriving DecidableEq, Repr, Inhabited

/-- A pending state of a channel in its die's latch set (R486). -/
structure Latch where
  used : Bool := false
  state : Nat := 0
  duty : Nat := 0
  phase : Nat := 0
  ramp : Nat := 0
  clear : Bool := false
  cause : Nat := 1
  deriving DecidableEq, Repr, Inhabited

/-- An output command that the arbiter carries (R492). -/
structure ArbCmd where
  cmd  : OutCmd := {}
  cls  : Nat := 2
  acc  : Nat := 0
  host : Option HostRef := none
  core : Nat := 0
  transit : Nat := 0      -- the transit in which it was given
  deriving DecidableEq, Repr, Inhabited

/-- A protection event of a hold (R506): its code, 0 where it has no event record, the channel or the die's resource code, its detail, its
instant, and the payload of its recorder record where it changed the channel's output. -/
structure DieEvent where
  code : Nat := 0
  source : Nat := 0
  detail : List Byte := []
  at_ : Nat := 0
  change : Option (List Byte) := none
  input : Bool := false            -- of an input (R521)
  deriving DecidableEq, Repr, Inhabited

/-- One power die (R498–R506). -/
structure Die where
  hold : Bool := false
  cfg : Sparse Word := []          -- the OUTPUT registers and those of its inputs as they stood when the hold began (R502, R503, R518)
  holdSince : Nat := 0
  strobeAt : Option Nat := none    -- instant of the last commit strobe
  strobeLen : Nat := 50000         -- transit length of that strobe, ns
  reservoir : Option Nat := none   -- instant at which VBAT fell below 3.5 V
  reserve : Nat := 50000000        -- how long the reservoir then lasts at least, in ns (R501, R766)
  temp : Int := 25
  log : List DieEvent := []        -- protection events of a hold, in the order they occurred (R506)
  bases : Sparse Nat := []         -- PERIOD + 1 of each PWM base that runs
  baseAt : Sparse Nat := []        -- the boundary from which its period counter runs (R475, R476)
  ready : Bool := false            -- it has had its first strobe and accepts commands (R732, R734)
  crank : Bool := false
  twin : Bool := false             -- `TWIN_OK` of the last commit strobe (R678)
  throttling : Bool := false
  releasing : Bool := false        -- the throttle raises duties again (R499)
  tickAt : Nat := 0                -- instant of the last tick of its own in a hold (R502)
  logged : Nat := 0
  deriving DecidableEq, Repr, Inhabited

/-- The cause of a withdrawal in progress (R638). -/
structure Withdrawal where
  acc : Nat := 0
  part : Nat := 0
  cause : Nat := 0
  t0 : Nat := 0
  deriving DecidableEq, Repr, Inhabited

/-- An effect of a host item that waits for the boundary that releases it (R396): the transit which that boundary opens. -/
structure Effect where
  ref  : HostRef := {}
  handle : Nat := 0
  body : Body := .bad
  ready : Nat := 0
  deriving DecidableEq, Repr, Inhabited

/-- A request that waits at a gate (R450): its call-slip serial, its requester's part, whether it is an inbound host request, the word
addresses of a read, the transit of its arrival, the host item whose effect it is, and the address, value and enabled bits of each word of a
posted write. -/
structure GateReq where
  serial : Nat := 0
  requester : Nat := 0
  port : Option Nat := none
  words : List Nat := []
  arrived : Nat := 0
  effect : Option Effect := none
  write : List (Nat × Nat × Nat) := []
  deriving DecidableEq, Repr, Inhabited

/-- What the host has set in a port's PCIe function (R441, R445): the codes of Max_Payload_Size and of the completion timeout with its
disable bit, that of Max_Read_Request_Size where it is not the one that a reset leaves, and the bases of its BARs. -/
structure Pcie where
  mps  : Nat := 0
  cto  : Nat := 0
  mrrs : Option Nat := none
  bar0 : Option Nat := none       -- the bases that the host has assigned (R737)
  bar2 : Option Nat := none
  bar4 : Option Nat := none
  deriving DecidableEq, Repr, Inhabited

/-- A quiesce gate (R448–R452): state as `GATE_STATE.STATE`, epoch, the instant at which DRAINING began, why it left
OPEN (true: live service quiesced the part, R720), and the requests that wait. -/
structure Gate where
  st : Nat := 0
  epoch : Nat := 0
  since : Nat := 0
  quiesced : Bool := false
  waiting : List GateReq := []
  deriving DecidableEq, Repr, Inhabited

/-- A call slip in use (R436, R439): `ended` is the instant of a TIMED_OUT or PART_ABSENT before the reply. The pieces of a cut transfer
share a serial (R444). -/
structure Slip where
  requester : Nat := 0
  reqEpoch : Nat := 0
  target : Nat := 0
  targetEpoch : Nat := 0
  serial : Nat := 0
  piece : Nat := 0
  ended : Option Nat := none
  deriving DecidableEq, Repr, Inhabited

/-- A transmit folio (R245–R253): state as `FOLIO_STAT.STATE`, the CAN packet, the consecutive collisions, the last
completion's code, and the transit in which the frame became pending. -/
structure Folio where
  st : Nat := 0
  data : List Byte := []
  coll : Nat := 0
  last : Nat := 0
  born : Nat := 0
  acc : Nat := 0
  host : Option HostRef := none
  ready : Nat := 0      -- first transit in which the frame may be sent (R396)
  own : Option Nat := none
  tally : Nat := 0
  queue : Option Nat := none      -- the queue that fed it
  deriving DecidableEq, Repr, Inhabited

/-- A receive queue of a CAN channel (R238–R241): folios of 96 bytes, head first, the next sequence number, a loss not
yet told, and the lock with its holder and the transit in which it was taken. -/
structure RxQueue where
  folios : List (List Byte) := []
  seq : Nat := 0
  lost : Bool := false
  lock : Option (Nat × Nat) := none
  deriving DecidableEq, Repr, Inhabited

/-- The state of a CAN channel apart from its registers. -/
structure CanCh where
  folios : Sparse Folio := []
  qa : RxQueue := {}
  qb : RxQueue := {}
  recovering : Bool := false
  deriving DecidableEq, Repr, Inhabited

/-- A LIN frame buffer (R268). -/
structure LinBuf where
  data : List Byte := List.replicate 8 0xFF#8
  updated : Bool := false
  deriving DecidableEq, Repr, Inhabited

/-- The frame that a LIN channel has in hand: whether its own header is still going out, identifier, whether it publishes the
response, the event-triggered entry's resolving table, the instant of the break, the data sent with its checksum, and whether they carry the
response-error bit. -/
structure LinSlot where
  heading : Bool := false
  id : Nat := 0
  publish : Bool := false
  event : Option Nat := none
  brk : Nat := 0
  data : List Byte := []
  sum : Nat := 0
  carries : Bool := false
  deriving DecidableEq, Repr, Inhabited

/-- The state of a LIN channel apart from its registers and its schedule position. `wake` counts the wake signals sent,
`wakeAt` is the instant of the latest. -/
structure LinCh where
  bufs : Sparse LinBuf := []
  cur : Option LinSlot := none
  respErr : Bool := false
  asleep : Bool := false
  sleepDue : Bool := false         -- a master's go-to-sleep frame waits for the frame on its bus (R274, R540)
  wake : Nat := 0
  wakeAt : Nat := 0
  notBefore : Nat := 0
  deriving DecidableEq, Repr, Inhabited

/-- Schedule position of a LIN master (R263, R271–R274): the transit at which the next slot starts, the index within the
table in force, a table switch asked for, the collision-resolving table to run next, and where to return to, innermost run first. -/
structure LinPos where
  started : Bool := false
  index : Nat := 0
  nextAt : Nat := 0
  req : Option Nat := none
  resolve : Option Nat := none
  back : List (Nat × Nat) := []
  deriving DecidableEq, Repr, Inhabited

/-- A key slot (R559–R562): value of 32 bytes, attributes and generation. -/
structure KeySlot where
  value  : List Byte := []
  type   : Nat := 0
  sflags : Nat := 0
  usage  : Nat := 0
  gen    : Nat := 0
  deriving DecidableEq, Repr, Inhabited

/-- A slot copy in MRAM (R577): the value encrypted under the storage key, the attributes, the counter that it carries with its kind, and the
tag. One that is not `written` is that of the manufacture process: empty, at generation 0, valid under SK(0) (R564). -/
structure KeyCopy where
  written : Bool := false
  value   : List Byte := []
  type    : Nat := 0
  sflags  : Nat := 0
  usage   : Nat := 0
  gen     : Nat := 0
  pair    : Bool := false
  counter : Nat := 0
  tag     : List Byte := []
  deriving DecidableEq, Repr, Inhabited

/-- What the Strongroom keeps in fuses, in MRAM and in its working store (R550, R554, R556, R559, R576, R577). -/
structure Strongroom where
  lifecycle : Nat := 0
  blown     : Bool := false             -- the device root fuses are blown to all ones
  root      : List Byte := []
  identity  : List Byte := []
  counter   : Nat := 0
  pairCounter : Nat := 0
  copyP     : Sparse KeyCopy := []
  copyQ     : Sparse KeyCopy := []
  slots     : Sparse KeySlot := []
  proof     : List Byte := []           -- last proof reply of the device counter
  pairProof : List Byte := []
  deriving DecidableEq, Repr, Inhabited

/-- A key-update or lifecycle message in hand (R573): its page, its bytes, the slots staged (slot, content, ABORT), the
authenticating key as it stood at the check, and whether the copies of both units are written. `page` is 4 for a message the companion
forwarded, 5 for a pair resynchronisation. -/
structure InHand where
  page   : Nat := 0
  msg    : List Byte := []
  staged : List (Nat × KeySlot × Bool) := []
  counter : Nat := 0
  authKey : List Byte := []
  pair   : Bool := false
  peerOk : Bool := false
  deriving DecidableEq, Repr, Inhabited

/-- Superseded key material (R584): the slot's generation before a commit with accession number `acc`; no material once
it is scrubbed or erased. -/
structure Superseded where
  slot : Nat := 0
  gen  : Nat := 0
  key  : Option KeySlot := none
  acc  : Nat := 0
  transit : Nat := 0
  since : Nat := 0      -- instant of the commit boundary
  deriving DecidableEq, Repr, Inhabited

/-- An unwrap whose tag word is written and that the next boundary commits (R620); no item for the companion's. -/
structure Unwrap where
  ref  : Option HostRef := none
  slot : Nat := 0
  new  : KeySlot := {}
  late : Nat := 0                    -- transits between the read of the item and its operation (R62, R612)
  deriving DecidableEq, Repr, Inhabited

/-- A `PAIR` blob that the byte-serial core has accepted and both units have still to write (R588, R619): the tenant's item, where it is the
unit's own, with its lateness, and the slot with its new content. -/
structure BlobHand where
  own  : Option Fetched := none
  slot : Nat := 0
  new  : KeySlot := {}
  late : Nat := 0
  deriving DecidableEq, Repr, Inhabited

/-- A proof reply that waits for the commit boundary's mirror delta (R573): its mailbox page and bytes. -/
structure ProofDue where
  page  : Nat := 0
  bytes : List Byte := []
  deriving DecidableEq, Repr, Inhabited

/-- A packet of the twin hold (R674): its handle, resource, tally and entry transit, and the transit whose ingress log claimed it. -/
structure Twin where
  handle  : Nat := 0
  res     : Nat := 0
  tally   : Nat := 0
  transit : Nat := 0
  claimed : Option Nat := none
  deriving DecidableEq, Repr, Inhabited

/-- A takeover that is due at the next boundary (R682): 1 by a notice or 2 by a silent loss, and the companion's accession
number of the cause. -/
structure Takeover where
  cause : Nat := 0
  acc   : Nat := 0
  late  : Bool := false       -- the notice came after the takeover boundary
  deriving DecidableEq, Repr, Inhabited

/-- The boot (R727–R735, R762, R764): the zero of its time, whether step 8 is due at the next boundary, whether the restart is
that of an external reset, the first activation, and the logic-die rails: whether PD-A drives their enables, since when or from
when, and `LS_PG`; and whether the memory that the boots train is of the size that the device supports (R778). -/
structure Boot where
  memOk  : Bool := true
  since  : Nat := 0
  admitDue : Bool := false
  ext    : Bool := false
  first  : Option Nat := none
  lsOn   : Bool := false
  lsAt   : Nat := 0                 -- the instant at which `LS_EN0` rises, or rose (R762)
  lsOff  : Option Nat := none       -- when the enables began to fall at park entry (R763)
  pg     : Bool := false
  almOk  : Bool := false            -- an almanac slot passed its check
  almWas : Option Almanac := none   -- the almanac before an external reset, until one is in force again (R518)
  perst  : Sparse Nat := []         -- instant of the last deassertion of HPp_PERST_N
  deriving DecidableEq, Repr, Inhabited

/-- A performed side-effect read whose reply is not yet delivered (R10, R455): for each word its key in the register
file, the value returned, the counts added since the read was performed, and whether the word is one of a receive queue's
head folio (R241). -/
structure PendWord where
  key   : Nat := 0
  value : Nat := 0
  added : Nat := 0
  head  : Bool := false
  count : Nat := 0              -- the count that the word returned, and whether it was saturated
  sat   : Bool := false
  deriving DecidableEq, Repr, Inhabited

structure PendRead where
  id    : Nat := 0
  port  : Nat := 0
  since : Nat := 0              -- arrival of its reply at the port (R442)
  behind : Bool := false        -- performed behind a gate, so that the gate answers for it if it closes first (R428, R449)
  words : List PendWord := []
  deriving DecidableEq, Repr, Inhabited

/-- A switch input as its die holds it (R515–R526): the last raw reading, the debounced value, STUCK and CHATTER, the time for which it has been active
(R520) up to the instant from which the present run counts, and the code at its last sample. -/
structure Input where
  raw : Bool := false
  rawAt : Nat := 0                -- instant up to which its raw samples are known, and since when without a gap
  seenFrom : Nat := 0
  agree : Nat := 0                -- samples that have agreed with the last one (R516)
  edges : List Nat := []          -- instants of the raw changes of the last `CHAT_WIN` (R519)
  value : Bool := false
  stuck : Bool := false
  chatter : Bool := false
  run : Nat := 0
  runFrom : Nat := 0
  last : Nat := 0
  deriving DecidableEq, Repr, Inhabited

/-- The first latched wake of a die in a park (R542): source, index, ms after the commit and the instant. -/
structure WakeRec where
  src : Nat := 0
  idx : Nat := 0
  ms  : Nat := 0
  since : Nat := 0
  deriving DecidableEq, Repr, Inhabited

/-- A CAN channel's error state in the park record (R534). -/
structure CanRec where
  ch  : Nat := 0
  tec : Nat := 0
  rec_ : Nat := 0
  st  : Nat := 0
  deriving DecidableEq, Repr, Inhabited

/-- The park controller and the always-on domains (R527–R545): the boundary that opened GUARD, an abort that waits for the
boundary, the commit, the inputs active and those armed at the commit, the values of the last poll, the first latched wake of
each die, the park record, the false counts by source, and the last wake with the time between its latch and the zero of the
local counter. -/
structure Park where
  guardAt : Nat := 0
  aborts : List (Nat × Nat × Nat) := []   -- what aborts the sleep in GUARD: cause, index and instant (R538, R539)
  commitAt : Nat := 0
  committed : Bool := false
  commitTransit : Nat := 0      -- the transit that the commit, or its repetition after a withdrawal, opened (R540, R541)
  guarded : Bool := false       -- GUARD is open, whatever a withdrawal returns to (R541)
  active : List Nat := []
  armed : List Nat := []
  poll : Sparse Nat := []
  firstA : Option WakeRec := none
  firstB : Option WakeRec := none
  record : List CanRec := []
  linAt : Sparse Nat := []       -- instants of the LIN wake signals of the park; from the wake boot on their ages (R535)
  fec : Sparse Nat := []         -- frame error counters of CAN00–CAN07 since the commit (R533, R534)
  counts : Sparse Nat := []
  lastWake : Option WakeRec := none
  latchAge : Nat := 0
  follow : Bool := false        -- the DRIVE unit commits at the next boundary (R681)
  told : Bool := false          -- a wake boot whose first activation has not told of the wake (R544)
  deriving DecidableEq, Repr, Inhabited

/-- The two MRAM slots of an image target (R696): which one is active, their images, and whether the standby slot is verified. -/
structure ImgSlots where
  active : Nat := 0
  img0 : Option Image := none
  img1 : Option Image := none
  verified : Bool := false
  deriving DecidableEq, Repr, Inhabited

/-- A live-service command in hand (R707): its operation and flags, the part, the transit in which it was accepted, the transit
that its apply boundary opens once it is chosen, whether the companion has accepted it, and whether the companion gave it. -/
structure LiveOp where
  op : Nat := 0
  kind : Nat := 0
  target : Nat := 0
  pair : Bool := false
  carry : Bool := false
  withAlm : Bool := false
  move : Option (Nat × Nat) := none
  transit : Nat := 0
  applyAt : Option Nat := none
  closing : Bool := false       -- the part's gate has left OPEN for it
  failed : Option (Nat × Nat) := none   -- it ends with this code and `REASON` at the boundary that opens the gate again
  peerOk : Bool := true
  fromPeer : Bool := false
  stands : Bool := false        -- the delta with its records is complete, and the boundary is due: a withdrawal leaves them in force (R723)
  deriving DecidableEq, Repr, Inhabited

/-- The kept stores (R629): what a withdrawal returns to the last complete mirror delta. -/
structure Kept where
  regs      : Sparse Word := []
  transit   : Nat := 0                 -- transit counter (R37)
  persist   : Sparse Byte := []        -- persistent areas: 0x10_0000 × core + offset (R189, R217)
  shared    : Sparse DWord := []       -- shared variable area (R213)
  catalogue : Sparse CatEntry := []
  tcam      : Sparse TcamEntry := []
  exact     : Sparse ExactEntry := []
  actions   : Sparse Nat := []         -- 64-byte entries as little-endian numbers (R161)
  patterns  : Sparse Nat := []         -- 80 bytes (R143)
  templates : Sparse Nat := []         -- 128 bytes (R164)
  rings     : Sparse Ring := []        -- 65 × tenant + ring
  servos    : Sparse Servo := []
  meters    : Sparse Meter := []
  chans     : Sparse Chan := []        -- commanded state of the channels, with ramps, accounts and lockouts (R507)
  linPos    : Sparse LinPos := []
  deriving DecidableEq, Repr, Inhabited

/-- What a unit of a pair holds beyond its registers (R658–R694): its side, the companion's last HELLO, the instant at which the
link was lost by an unfinished SHADOW, that of the last heartbeat change, whether the join has every line and its time, the
takeover due, the twin hold, and the transit whose delta has come whole. -/
structure Pair where
  sideB    : Bool := false
  on       : Bool := false          -- the value of `PAIR_CFG.ENABLE` in effect since the last reset (R786)
  peer     : Option Hello := none
  linkGone : Option Nat := none
  hbSince  : Nat := 0
  lines    : Bool := false
  timeOk   : List Nat := []         -- domains held within the bound of R372
  takeover : Option Takeover := none
  hold     : List Twin := []
  deltaIn  : Option Nat := none
  offDue   : Bool := false          -- the outputs go off at the next boundary (R25, R667)
  peerOff  : Int := 0               -- the companion's TD0 less the unit's own in ns, as its last time sample gave it (R674)
  peerNext : Nat := 0               -- the DRIVE unit's next accession number in the last complete delta
  slotsBad : Bool := false          -- a transfer of `PAIR` slots was refused (R590)
  told     : Bool := false          -- the unit has told its companion that it has joined, or the companion has told it (R689)
  counts   : Sparse Word := []      -- the DRIVE unit's counters, as the last complete deltas gave them (R651)
  seen     : Kept := {}             -- lines that deltas brought while the unit joins (R689)
  canErr   : Sparse Word := []      -- `CAN_STATUS` of each channel in the DRIVE unit, as the last complete deltas gave it (R263)
  resume   : Option (Sparse Chan) := none -- channels that a unit which drives alone from now on takes up at the next boundary (R25, R668)
  alone    : Nat := 0               -- since when the unit seeks and has neither a link nor its companion's heartbeat (R668)
  deriving DecidableEq, Repr, Inhabited

end Sys2Proof.Machine
end

