-- ==== Sys2Proof/Syntax.lean ====
section
/-! DEFINITION. The commands of the block: one constructor of `Instr` per row of spec/opcode_table.json, with the operands
that come with it from outside (a frame on a medium, a descriptor in host memory, a level on a pin, an instant of the local
counter in ns). -/

namespace Sys2Proof

open Sys2Proof.Machine

/-- One entry of the ingress log of a mirror delta (R670): resource code, tally (R673) and flags of a committed packet. -/
structure LogEntry where
  res   : Nat := 0
  tally : Nat := 0
  flags : Nat := 0
  deriving DecidableEq, Repr, Inhabited

/-- An egress record of a mirror delta (R670): a push to a queue, by tally, or with the built bytes. -/
structure EgressRec where
  queue : Nat := 0
  tally : Nat := 0
  built : Option (PktKind × List Byte) := none
  item  : Option HostRef := none       -- the host item whose frame a folio holds (R683)
  deriving DecidableEq, Repr, Inhabited

/-- What one MIRROR frame carries of a mirror delta (R670). Each listed entry of `lines` is a kept-store line as it stands at
the latch cut; `commits` are Strongroom commit records (slot, generation, counter; R589). -/
structure Delta where
  bytes   : Nat := 0
  lines   : Kept := {}
  latch   : List (Nat × Latch) := []
  log     : List LogEntry := []
  carried : List Nat := []
  egress  : List EgressRec := []
  commits : List (Nat × Nat × Nat) := []
  ledger  : List (List Byte) := []     -- entries that the transit flushes (R650)
  accNext : Nat := 0
  commitPark : Bool := false
  deriving DecidableEq, Repr, Inhabited

/-- The payload of a link frame, by channel (R664) (DEDUCED, log entry 52). `state` is a change of pair state, with what a joining unit says once it
holds every line and the time; `part` is a frame of a longer content, which the frame that ends it carries. -/
inductive LinkPayload
  | control
  | hello (own : Hello)
  | notice (t0 acc : Nat)
  | state (st : Nat) (drive joined : Bool)
  | part (channel : Nat)
  | timeSample (domain : Nat) (offsetNs : Int)
  | departure (queue : Nat) (tally : Nat)
  | mirror (d : Delta)
  | srMessage (bytes : List Byte)
  | srVerdict (ok : Bool)
  | srGo
  /-- `PAIR` slots with their values encrypted, the pair counter, the counter block and the tag (R590). -/
  | srSlots (slots : List (Nat × KeySlot)) (counter : Nat) (iv mac : List Byte)
  | srBlob (tenant handle : Nat) (blob : List Byte)
  | srBlobVerdict (ok : Bool)
  | srBlobGo
  /-- A write of a BAR2 register, with the bits that its byte enables choose. -/
  | doorbell (port addr value mask : Nat)
  | ledger (acc cls flags part cause inst : Nat)
  | gapFill (res : Nat) (kind : PktKind) (bytes : List Byte) (sec ns : Nat)
  | snapshot (lines : Kept) (last : Bool)
  | liveCommand (op kind target : Nat) (carry withAlm : Bool) (move : Option (Nat × Nat)) (version crc : Nat)
  | liveVerdict (ok : Bool)
  | liveGo
  deriving DecidableEq, Repr, Inhabited

/-- A link frame of the Denren link (R663). -/
structure LinkFrame where
  intact  : Bool := true
  last    : Bool := false
  ackOnly : Bool := false
  seq     : Nat := 0
  acked   : Nat := 0
  transit : Nat := 0
  payload : LinkPayload := .control
  deriving DecidableEq, Repr, Inhabited

/-- The commands. An operand `t` is the instant of the event on the local counter, in ns (DESIGN CHOICE, log entry 40). -/
inductive Instr
  /-- `POWER_ON_RESET` (R727, R729, R732, R778: the reset of the module; `memOk` says that the memory fitted is of the supported size, `pg` is the time from its release to the end of step 7, nothing where the logic-die rails are late). -/
  | powerOnReset (sideB memOk : Bool) (pg : Option Nat)
  /-- `EXTERNAL_RESET` (R730: `RST_N` low, held longer than 10 µs or not). -/
  | externalReset (t : Nat) (held : Bool)
  /-- `DEV_RESET` (R747). -/
  | devReset (t : Nat) (port : HostPort) (key : Nat)
  /-- `SEAL` (R742: a write of `SEAL` with the later words of its request, each with its byte enables). -/
  | sealSetup (t : Nat) (port : HostPort) (key : Word) (later : List (Word × Nat))
  /-- `REGISTER_WRITE` (R12, R446, R447, R741: an inbound write, each word with its byte enables; `image` is what a DMA read that the write starts gives). -/
  | registerWrite (t : Nat) (port : HostPort) (addr : Nat) (words : List (Word × Nat)) (image : Option (List Byte))
  /-- `SIDE_EFFECT_READ` (R10, R376, R446, R455: a read of so many words). -/
  | sideEffectRead (t : Nat) (reader : Reader) (addr words : Nat)
  /-- `READ_DELIVERY` (R10, R455: the reply to a read is delivered). -/
  | readDelivery (t : Nat) (reader : Reader) (serial : Nat)
  /-- `TRANSIT_COUNT_LO` (R40: a read of the register latches its partners). -/
  | transitCountLo (t : Nat) (port : HostPort)
  /-- `TD_NOW_SEC_LO` (R373: a read of the register latches its partners). -/
  | tdNowSecLo (t : Nat) (port : HostPort) (dom : TimeDom)
  /-- `RX_OCTETS` (R332: a read of the low word of `RX_OCTETS` or `TX_OCTETS`). -/
  | rxOctets (t : Nat) (port : HostPort) (n : EthIx) (tx : Bool)
  /-- `SR_COMMIT_LO` (R593: a read of the register latches its partners). -/
  | srCommitLo (t : Nat) (port : HostPort) (page : HostPort)
  /-- `ACC_NOW_LO` (R654: a read of the register latches its partners). -/
  | accNowLo (t : Nat) (port : HostPort)
  /-- `FAULT_LAST_LO` (R655: a read of the register latches its partners). -/
  | faultLastLo (t : Nat) (port : HostPort)
  /-- `PAIR_TAKEOVER_LO` (R693: a read of the register latches its partners). -/
  | pairTakeoverLo (t : Nat) (port : HostPort)
  /-- `LS_APPLY_LO` (R725: a read of the register latches its partners). -/
  | lsApplyLo (t : Nat) (port : HostPort)
  /-- `LEDGER_DATA0` (R654: a read of the register latches its partners). -/
  | ledgerData0 (t : Nat) (port : HostPort)
  /-- `RECEIVE_FOLIO_READ` (R241: the reply to a read of a receive queue's head is delivered). -/
  | receiveFolioRead (t : Nat) (reader : Reader) (serial : Nat)
  /-- `FOLIO_LOCK_EXPIRY` (R241). -/
  | folioLockExpiry (ch : CanIx) (queueB : Bool)
  /-- `TRANSIT_BOUNDARY` (R33–R39 and the boundary work of every block; `sensed` is what the power dies measured). -/
  | transitBoundary (t : Nat) (sensed : Sensed)
  /-- `SLEEP_COMMIT` (R540). -/
  | sleepCommit (t : Nat)
  /-- `PARK_ENTRY` (R540). -/
  | parkEntry (t : Nat)
  /-- `WAKE_LATCH` (R531, R538, R542; `fec` is the frame error counter of a CAN source). -/
  | wakeLatch (t : Nat) (source : WakeSource)
  /-- `PARK_POLL` (R532: `levels` lists the inputs that read active). -/
  | parkPoll (t : Nat) (levels : List Nat)
  /-- `PARK_TIMER` (R536). -/
  | parkTimer (t : Nat)
  /-- `WAKE_BOOT` (R543). -/
  | wakeBoot (t : Nat) (pg : Option Nat)
  /-- `LIN_WAKE_REPEAT` (R535). -/
  | linWakeRepeat (t : Nat) (ch : LinIx)
  /-- `LENGTH_CHANGE_SWITCH` (R70). -/
  | lengthChangeSwitch (t : Nat)
  /-- `LATCH_CUT` (R486, R671, R673: `bytes` is the length of the transit's mirror delta). -/
  | latchCut (t : Nat) (bytes : Nat)
  /-- `DELTA_COMPLETE` (R630, R671). -/
  | deltaComplete (t : Nat)
  /-- `COMMIT_STROBE` (R487; `short` here and in the other commands that record: the recorder's copies starve, R117). -/
  | commitStrobe (t : Nat) (short : Bool)
  /-- `WRITE_BACK` (R397, R419). -/
  | writeBack (t : Nat) (tenant : Tenant) (ring : RingIx)
  /-- `DISPATCH` (R193). -/
  | dispatch (t : Nat) (core : CoreId)
  /-- `CARRY_OVER` (R62, R63). -/
  | carryOver (core : CoreId)
  /-- `ADD` (R197). -/
  | add (core : CoreId) (rd ra : GReg) (b : Src)
  /-- `AND` (R197). -/
  | and (core : CoreId) (rd ra : GReg) (b : Src)
  /-- `SHL` (R197). -/
  | shl (core : CoreId) (rd ra : GReg) (b : Src)
  /-- `CMP` (R187, R197). -/
  | cmp (core : CoreId) (ra : GReg) (b : Src)
  /-- `MOV` (R197). -/
  | mov (core : CoreId) (rd : GReg) (src : MovSrc)
  /-- `LUI` (R197: `value` is the value that the immediate stands for). -/
  | lui (core : CoreId) (rd : GReg) (value : Word)
  /-- `MUL` (R187, R197: the product goes to a pair). -/
  | mul (core : CoreId) (rd ra : GReg) (b : Src)
  /-- `DIV` (R197). -/
  | div (core : CoreId) (rd ra : GReg) (b : Src)
  /-- `BFX` (R197). -/
  | bfx (core : CoreId) (rd ra : GReg) (pos : Fin 32) (len : Fin 33)
  /-- `BFI` (R197). -/
  | bfi (core : CoreId) (rd ra : GReg) (pos : Fin 32) (len : Fin 33)
  /-- `CLZ` (R197). -/
  | clz (core : CoreId) (rd ra : GReg)
  /-- `POPC` (R197). -/
  | popc (core : CoreId) (rd ra : GReg)
  /-- `BSWAP` (R197). -/
  | bswap (core : CoreId) (rd ra : GReg)
  /-- `CRCB` (R197). -/
  | crcb (core : CoreId) (kind : CrcKind) (rd ra : GReg) (b : Src)
  /-- `LD` (R188, R197). -/
  | ld (core : CoreId) (size : Size) (rd ra : GReg) (off : Word)
  /-- `ST` (R188, R197). -/
  | st (core : CoreId) (size : Size) (rs ra : GReg) (off : Word)
  /-- `B` (R197). -/
  | b (core : CoreId) (flag : FlagName) (want : Bool) (target : Nat)
  /-- `J` (R197). -/
  | j (core : CoreId) (target : Nat)
  /-- `CALL` (R197). -/
  | call (core : CoreId) (target : Nat)
  /-- `RET` (R197). -/
  | ret (core : CoreId)
  /-- `SGX` (R201–R203). -/
  | sgx (core : CoreId) (rd : GReg) (desc : Src) (ra : GReg)
  /-- `SGP` (R201, R202, R204). -/
  | sgp (core : CoreId) (rs : GReg) (desc : Src) (ra : GReg)
  /-- `SGL` (R204). -/
  | sgl (core : CoreId) (rd rx rb : GReg)
  /-- `END` (R196), or an undefined instruction or helper number in its place, which has no code (R215). -/
  | endItem (t : Nat) (core : CoreId) (code : Option Nat)
  /-- `PKT_READ` (R199). -/
  | pktRead (t : Nat) (core : CoreId) (dst off len : Nat)
  /-- `PKT_NEW` (R199, R791). -/
  | pktNew (t : Nat) (core : CoreId) (kind : PktKind)
  /-- `PKT_APPEND` (R199, R791). -/
  | pktAppend (t : Nat) (core : CoreId) (builder src len : Nat)
  /-- `PKT_COMMIT` (R74, R199, R359: `timing` is the address of a timing block). -/
  | pktCommit (t : Nat) (core : CoreId) (builder : Nat) (queue : QueueIx) (timing : Option Nat)
  /-- `PKT_FORWARD` (R77, R199). -/
  | pktForward (t : Nat) (core : CoreId) (queue : QueueIx)
  /-- `PKT_EDIT` (R161, R199: the operation stands in data memory at `addr`). -/
  | pktEdit (t : Nat) (core : CoreId) (addr : Nat)
  /-- `ACF_NEXT` (R139, R165, R199). -/
  | acfNext (t : Nat) (core : CoreId) (k : Nat)
  /-- `FOLIO_PUT` (R199, R245–R251, R792). -/
  | folioPut (t : Nat) (core : CoreId) (builder : Option Nat) (ch : CanIx) (folio : FolioIx) (replace : Bool)
  /-- `FOLIO_STATE` (R199). -/
  | folioState (t : Nat) (core : CoreId) (ch : CanIx) (folio : FolioIx)
  /-- `OUT_CMD` (R199, R497: `G2` holds the data-memory address of the command block). -/
  | outCmd (t : Nat) (core : CoreId)
  /-- `EVENT` (R199, R418, R791). -/
  | event (t : Nat) (core : CoreId) (tenant : Tenant) (addr : Nat)
  /-- `REC_TRIGGER` (R111–R115, R199). -/
  | recTrigger (t : Nat) (core : CoreId)
  /-- `CIPHER` (R199, R607, R608: `G2` holds the address of its parameter block). -/
  | cipher (t : Nat) (core : CoreId)
  /-- `MAC_TX` (R205, R207). -/
  | macTx (t : Nat) (core : CoreId) (addr buf : Nat)
  /-- `MAC_RX` (R206, R207). -/
  | macRx (t : Nat) (core : CoreId) (addr buf : Nat)
  /-- `CAT_READ` (R171, R199). -/
  | catRead (t : Nat) (core : CoreId) (index dst : Nat)
  /-- `TP_OPEN` (R209, R211: `ctx` gives the session that the context is opened for). -/
  | tpOpen (t : Nat) (core : CoreId) (ctx : TpCtx)
  /-- `TP_DATA` (R210, R211). -/
  | tpData (t : Nat) (core : CoreId) (ctx : TpIx)
  /-- `TP_CLOSE` (R209, R211). -/
  | tpClose (t : Nat) (core : CoreId) (ctx : TpIx)
  /-- `TP_REPLY` (R211). -/
  | tpReply (t : Nat) (core : CoreId) (ctx : TpIx) (kind : TpReplyKind) (n : Nat)
  /-- `TP_SEGMENT` (R211). -/
  | tpSegment (t : Nat) (core : CoreId) (ctx : TpIx) (n src : Nat) (queue : QueueIx)
  /-- `TP_ABORT` (R211). -/
  | tpAbort (t : Nat) (core : CoreId) (ctx : TpIx)
  /-- `TP_EXPIRED` (R210). -/
  | tpExpired (t : Nat) (fe : FeId) (ctx : TpIx)
  /-- `TIME_NOW` (R199, R348: of the domain in `G2`). -/
  | timeNow (t : Nat) (core : CoreId)
  /-- `SYNC_FEED` (R345–R352: `G2` holds the address of its feed block). -/
  | syncFeed (t : Nat) (core : CoreId)
  /-- `OCCULTATION` (R353–R356). -/
  | occultation (t : Nat) (dom : TimeDom)
  /-- `SET` (R352). -/
  | setTime (t : Nat) (via : Via) (dom : TimeDom)
  /-- `ACCEPT_STEP` (R351). -/
  | acceptStep (t : Nat) (via : Via) (dom : TimeDom)
  /-- `CAN_RX_FRAME` (R75, R234–R243, R538: a frame on the bus has ended; `sof` is the instant of its start). -/
  | canRxFrame (t : Nat) (ch : CanIx) (frame : CanFrame) (ending : CanRx) (dataPhase : Bool) (sof : Nat) (short : Bool)
  /-- `REFILL` (R100). -/
  | refill (t : Nat) (queue : QueueIx)
  /-- `SPAN_CLOSE` (R113). -/
  | spanClose (t : Nat)
  /-- `CLASSIFICATION` (R128: the packet that committed first). -/
  | classification (t : Nat)
  /-- `LIVENESS_TIMEOUT` (R178). -/
  | livenessTimeout (t : Nat) (index : CatIx)
  /-- `CAN_ARBITRATION` (R248, R249). -/
  | canArbitration (t : Nat) (ch : CanIx)
  /-- `CAN_TX_END` (R250–R255; `loop` is the loop delay that a transmission measures). -/
  | canTxEnd (t : Nat) (ch : CanIx) (ending : CanTx) (dataPhase : Bool) (loop : Option Nat) (sof : Nat)
  /-- `RECOVER` (R256, R794). -/
  | recover (t : Nat) (via : Via) (ch : CanIx)
  /-- `RECOVERY_COMPLETE` (R256). -/
  | recoveryComplete (t : Nat) (ch : CanIx)
  /-- `EXPIRE` (R247). -/
  | expire (t : Nat) (ch : CanIx) (folio : FolioIx)
  /-- `LIN_SLOT` (R271–R274). -/
  | linSlot (t : Nat) (ch : LinIx)
  /-- `LIN_RESPONSE` (R270, R272, R277–R279). -/
  | linResponse (t : Nat) (ch : LinIx) (resp : LinResp) (short : Bool)
  /-- `LIN_HEADER` (R269, R275, R276; a break of `brkLen` ns that began at `brk`, a measured bit time of `bit` ns). -/
  | linHeader (t : Nat) (ch : LinIx) (pid : Byte) (brkLen bit brk : Nat)
  /-- `LIN_PUBLISH_UPDATE` (R268, R281). -/
  | linPublishUpdate (t : Nat) (ch : LinIx)
  /-- `LIN_TABLE_SWITCH` (R274). -/
  | linTableSwitch (t : Nat) (via : Via) (ch : LinIx) (table : Fin 4)
  /-- `ETH_RX_FRAME` (R288–R297, R313). -/
  | ethRxFrame (t : Nat) (n : EthIx) (frame : EthFrame) (sof : Nat) (short : Bool)
  /-- `TRANSMIT_OPPORTUNITY` (R299–R306, R312). -/
  | transmitOpportunity (t : Nat) (n : EthIx)
  /-- `STAMP_REPORT` (R368, R369). -/
  | stampReport (t : Nat) (n : EthIx)
  /-- `WINDOW_EDGE` (R302). -/
  | windowEdge (t : Nat) (n : EthIx) (cls : Fin 3)
  /-- `LAUNCH_TIME` (R364). -/
  | launchTime (t : Nat) (n : EthIx) (tc : TcIx)
  /-- `LINK_CHANGE` (R286, R307, R308). -/
  | linkChange (t : Nat) (n : EthIx) (up plca : Bool) (resolved : Option Nat)
  /-- `PLCA_BEACON` (R311). -/
  | plcaBeacon (t : Nat) (n : EthIx)
  /-- `PLCA_OPPORTUNITY` (R310). -/
  | plcaOpportunity (t : Nat) (n : EthIx)
  /-- `BEACON_LOSS` (R311). -/
  | beaconLoss (t : Nat) (n : EthIx)
  /-- `DOORBELL` (R387, R623). -/
  | doorbell (t : Nat) (port : HostPort) (tenant : Tenant) (ring : RingIx) (index : Fin 65536)
  /-- `DOORBELL_ARM` (R419). -/
  | doorbellArm (t : Nat) (port : HostPort) (tenant : Tenant) (ring : RingIx)
  /-- `RING_RESET` (R423). -/
  | ringReset (t : Nat) (port : HostPort) (tenant : Tenant) (ring : RingIx) (enable : Bool)
  /-- `HOST_PORT_RESET` (R422, R737). -/
  | hostPortReset (t : Nat) (port : HostPort) (linkDown perst : Bool)
  /-- `DESCRIPTOR_FETCH` (R389–R394, R399; `item` is what the host has written in the ring's next slots and in the buffers they name). -/
  | descriptorFetch (t : Nat) (tenant : Tenant) (ring : RingIx) (item : HostRead)
  /-- `TX_FRAME` (R360, R401, R402). -/
  | txFrame (t : Nat) (tenant : Tenant) (ring : RingIx)
  /-- `TX_FOLIO` (R403). -/
  | txFolio (t : Nat) (tenant : Tenant) (ring : RingIx)
  /-- `CANCEL` (R404). -/
  | cancel (t : Nat) (tenant : Tenant) (ring : RingIx)
  /-- `RX_BUF` (R405). -/
  | rxBuf (t : Nat) (tenant : Tenant) (ring : RingIx) (slot : List Byte)
  /-- `OUT_CMD_DESCRIPTOR` (R406, R492). -/
  | outCmdDescriptor (t : Nat) (tenant : Tenant) (ring : RingIx)
  /-- `REC_TRIGGER_COMMAND` (R114). -/
  | recTriggerCommand (t : Nat) (tenant : Tenant) (ring : RingIx)
  /-- `REC_READOUT` (R118, R119). -/
  | recReadout (t : Nat) (tenant : Tenant) (ring : RingIx)
  /-- `REC_RELEASE` (R120). -/
  | recRelease (t : Nat) (tenant : Tenant) (ring : RingIx)
  /-- `TABLE` (R158). -/
  | table (t : Nat) (tenant : Tenant) (ring : RingIx)
  /-- `INDIRECT` (R169). -/
  | indirect (t : Nat) (tenant : Tenant) (ring : RingIx)
  /-- `CLEAR_BLOCKED` (R317). -/
  | clearBlocked (t : Nat) (tenant : Tenant) (ring : RingIx)
  /-- `CLEAR_RED_LATCH` (R319). -/
  | clearRedLatch (t : Nat) (tenant : Tenant) (ring : RingIx)
  /-- `WRITE_FILTER` (R317, R331: by command, or by a write of the filter's registers through a port). -/
  | writeFilter (t : Nat) (via : Via) (index : FilterIx) (words : List Word)
  /-- `WRITE_METER` (R318, R331). -/
  | writeMeter (t : Nat) (via : Via) (index : MeterIx) (words : List Word)
  /-- `INSTALL_TRANSMIT_SA` (R609). -/
  | installTransmitSa (t : Nat) (tenant : Tenant) (ring : RingIx)
  /-- `INSTALL_RECEIVE_SA` (R609). -/
  | installReceiveSa (t : Nat) (tenant : Tenant) (ring : RingIx)
  /-- `REMOVE_SA` (R328). -/
  | removeSa (t : Nat) (tenant : Tenant) (ring : RingIx)
  /-- `SET_TX_AN` (R323). -/
  | setTxAn (t : Nat) (tenant : Tenant) (ring : RingIx)
  /-- `ADD_RECEIVE_CHANNEL` (R328). -/
  | addReceiveChannel (t : Nat) (tenant : Tenant) (ring : RingIx)
  /-- `REMOVE_RECEIVE_CHANNEL` (R328). -/
  | removeReceiveChannel (t : Nat) (tenant : Tenant) (ring : RingIx)
  /-- `TBL_WRITE_OR_INSERT` (R154, R158). -/
  | tblWriteOrInsert (t : Nat) (port : HostPort) (table : Fin 16) (index : Nat)
  /-- `TBL_READ_OR_LOOKUP` (R154, R158). -/
  | tblReadOrLookup (t : Nat) (port : HostPort) (table : Fin 16) (index : Nat)
  /-- `TBL_INVALIDATE_OR_DELETE` (R154, R158). -/
  | tblInvalidateOrDelete (t : Nat) (port : HostPort) (table : Fin 16) (index : Nat)
  /-- `RECEIVE_DELIVERY` (R405, R409–R413). -/
  | receiveDelivery (t : Nat) (tenant : Tenant) (ring : RingIx)
  /-- `RING_STARVED` (R412, R413). -/
  | ringStarved (t : Nat) (tenant : Tenant) (ring : RingIx)
  /-- `ENCRYPT` (R597, R598, R611–R616: the operation at the front of the tenant's cipher queue). -/
  | encrypt (t : Nat) (tenant : Tenant)
  /-- `DECRYPT` (R597, R598, R611–R616: the operation at the front of the tenant's cipher queue). -/
  | decrypt (t : Nat) (tenant : Tenant)
  /-- `MAC_GENERATE` (R597, R598, R611–R616: the operation at the front of the tenant's cipher queue). -/
  | macGenerate (t : Nat) (tenant : Tenant)
  /-- `MAC_VERIFY` (R597, R598, R611–R616: the operation at the front of the tenant's cipher queue). -/
  | macVerify (t : Nat) (tenant : Tenant)
  /-- `UNWRAP` (R618–R621). -/
  | unwrap (t : Nat) (tenant : Tenant)
  /-- `SIGN` (R615). -/
  | sign (t : Nat) (tenant : Tenant)
  /-- `SUBMIT` (R569–R573, R593: the message staged in the mailbox page). -/
  | submit (t : Nat) (port : HostPort) (page : HostPort) (len : Nat)
  /-- `REPLAY_PROOF` (R576). -/
  | replayProof (t : Nat) (port : HostPort) (page : HostPort) (pair : Bool)
  /-- `KEY_COMMIT_BOUNDARY` (R579–R582). -/
  | keyCommitBoundary (t : Nat)
  /-- `SCRUB` (R584). -/
  | scrub (t : Nat) (slot : Nat)
  /-- `BACKOFF_EXPIRY` (R572, R621). -/
  | backoffExpiry (t : Nat) (tenant : Option Tenant)
  /-- `MASKED_FAULT` (R631, R634–R637). -/
  | maskedFault (t : Nat) (part cause inst location : Nat)
  /-- `REPAIR` (R634). -/
  | repair (t : Nat)
  /-- `WITHDRAWAL` (R28, R638, R764). -/
  | withdrawal (t : Nat) (part cause inst location : Nat) (pgLow : Bool)
  /-- `RESTART_COMPLETE` (R637, R638, R730); `tested`: the part that the cause names passes its built-in self-test. -/
  | restartComplete (t : Nat) (tested : Bool)
  /-- `FAULT_INJECT` (R655). -/
  | faultInject (t : Nat) (port : HostPort) (part : Fin 256) (kind : Fin 4)
  /-- `PIN` (R647, R654). -/
  | pin (t : Nat) (port : HostPort)
  /-- `UNPIN` (R654). -/
  | unpin (t : Nat) (port : HostPort)
  /-- `CLEAR_OVERFLOW` (R646, R654). -/
  | clearOverflow (t : Nat) (port : HostPort)
  /-- `GATE_CLOSE` (R437, R449: `late` names the unanswered requests, by requester and serial). -/
  | gateClose (t : Nat) (part : Nat) (late : List (Nat × Nat))
  /-- `HOLD_LIMIT_EXPIRY` (R450). -/
  | holdLimitExpiry (t : Nat) (part : Nat)
  /-- `STALE_REPLY` (R438: a reply that carries this call slip). -/
  | staleReply (t : Nat) (slip : Slip)
  /-- `DMA_TIMEOUT` (R420, R441: `since` is the instant at which the read was issued; `payload` says that it was a payload read of the item in hand). -/
  | dmaTimeout (t : Nat) (tenant : Tenant) (ring : RingIx) (since : Nat) (payload : Bool)
  /-- `COLLECT_TIMEOUT` (R442). -/
  | collectTimeout (t : Nat) (port : HostPort) (serial : Nat)
  /-- `SERIAL_RELEASE` (R439). -/
  | serialRelease (t : Nat) (requester serial : Nat)
  /-- `SHORT_TRIP` (R464: the start of the short, the current in mA and the energy charged, in µJ). -/
  | shortTrip (t : Nat) (ch : ChanIx) (since ma uj : Nat)
  /-- `OVERCURRENT_TRIP` (R465: the current in mA, and since when it has been above `OC_LIMIT` without a break). -/
  | overcurrentTrip (t : Nat) (ch : ChanIx) (ma since : Nat)
  /-- `INRUSH_WINDOW_END` (R466). -/
  | inrushWindowEnd (t : Nat) (ch : ChanIx) (limited : Bool) (ma uj : Nat)
  /-- `TEMPERATURE_TRIP` (R467). -/
  | temperatureTrip (t : Nat) (ch : ChanIx) (ma uj : Nat)
  /-- `RETRY` (R469). -/
  | retry (t : Nat) (ch : ChanIx) (temp : Int)
  /-- `FW_FAULT` (R472). -/
  | fwFault (t : Nat) (ch : ChanIx)
  /-- `OPEN_LOAD` (R473). -/
  | openLoad (t : Nat) (ch : ChanIx)
  /-- `OFF_FAULT` (R473). -/
  | offFault (t : Nat) (ch : ChanIx) (high : Bool)
  /-- `HOLD` (R502). -/
  | hold (t : Nat) (die : DieIx)
  /-- `HOLD_WINDOW_END` (R504). -/
  | holdWindowEnd (t : Nat) (ch : ChanIx)
  /-- `CRANK` (R500, R517). -/
  | crank (t : Nat) (die : DieIx) (below : Bool)
  /-- `LOW_SEEN` (R501); `mv` is the `VBAT` before the dip, in mV (R766). -/
  | lowSeen (t : Nat) (die : DieIx) (below : Bool) (mv : Nat)
  /-- `RESERVOIR_EXHAUSTED` (R501). -/
  | reservoirExhausted (t : Nat) (die : DieIx)
  /-- `LS_PG_TIMEOUT` (R762). -/
  | lsPgTimeout (t : Nat)
  /-- `DEBOUNCED_CHANGE` (R515–R517, R526; the levels of the input's raw samples up to `t`, oldest first, as runs of a level in mV and a
  number of samples). -/
  | debouncedChange (t : Nat) (sw : InputIx) (levels : List (Nat × Nat))
  /-- `CHATTER` (R519). -/
  | chatter (t : Nat) (sw : InputIx) (levels : List (Nat × Nat))
  /-- `CHATTER_EXIT` (R519). -/
  | chatterExit (t : Nat) (sw : InputIx) (levels : List (Nat × Nat))
  /-- `STUCK` (R520). -/
  | stuck (t : Nat) (sw : InputIx)
  /-- `INPUT_SAMPLE` (R522, R524). -/
  | inputSample (t : Nat) (die : DieIx) (group : Fin 12) (short : Bool)
  /-- `HELLO` (R668, R669). -/
  | hello (t : Nat) (hello : Hello) (latency : Nat)
  /-- `LINK_FRAME` (R663–R665). -/
  | linkFrame (t : Nat) (frame : LinkFrame)
  /-- `RETRANSMIT` (R665). -/
  | retransmit (t : Nat)
  /-- `LINK_LOST` (R665: which lanes are in block lock). -/
  | linkLost (t : Nat) (lane0 lane1 : Bool)
  /-- `HEARTBEAT_CHANGE` (R661: 0 absent, 1 present, 2 parked). -/
  | heartbeatChange (t : Nat) (level : Fin 3)
  /-- `SOLO_WAIT` (R668). -/
  | soloWait (t : Nat)
  /-- `WITHDRAWAL_NOTICE` (R682). -/
  | withdrawalNotice (t : Nat) (acc t0 : Nat)
  /-- `TAKEOVER` (R682–R685). -/
  | takeover (t : Nat)
  /-- `YIELDS` (R687). -/
  | yields (t : Nat)
  /-- `RESYNCHRONISATION_COMPLETE` (R689). -/
  | resynchronisationComplete (t : Nat)
  /-- `DEPARTURE` (R675). -/
  | departure (t : Nat) (queue tally : Nat)
  /-- `GAP_FILL` (R674). -/
  | gapFill (t : Nat)
  /-- `STORE` (R697: `image` is what the DMA read gave, nothing where it failed). -/
  | store (t : Nat) (port : HostPort) (fields : LsFields) (image : Option (List Byte))
  /-- `VERIFY` (R703). -/
  | verify (t : Nat) (port : HostPort) (fields : LsFields)
  /-- `ACTIVATE` (R706–R718). -/
  | activate (t : Nat) (port : HostPort) (fields : LsFields)
  /-- `ABORT` (R704). -/
  | abort (t : Nat) (port : HostPort) (fields : LsFields)
  /-- `QUIESCE` (R720). -/
  | quiesce (t : Nat) (port : HostPort) (fields : LsFields)
  /-- `RESUME` (R720). -/
  | resume (t : Nat) (port : HostPort) (fields : LsFields)
  /-- `LENGTH` (R70). -/
  | length (t : Nat) (port : HostPort) (fields : LsFields)
  /-- `APPLY_BOUNDARY` (R702). -/
  | applyBoundary (t : Nat)
  /-- `CONFIGURATION_REQUEST` (R441, R445, R454, R737, R738: a read, or a write of a value). -/
  | configurationRequest (t : Nat) (port : HostPort) (item : CfgItem) (write : Option Nat)
  /-- `HOST_PORT_LINK_UP` (R422, R448). -/
  | hostPortLinkUp (t : Nat) (port : HostPort)
  /-- `BUS_INTEGRATION` (R263). -/
  | busIntegration (t : Nat) (ch : CanIx)
  /-- `LS_PG_HIGH` (R762, R764). -/
  | lsPgHigh (t : Nat)
  /-- `RST_N_RELEASE` (R730). -/
  | rstNRelease (t : Nat)
  deriving DecidableEq, Repr

end Sys2Proof
end

