-- ==== Sys2Proof/Decode.lean ====
section
/-! DEFINITION. Reading a command from a word: the opcode table gives no bits to any row, because the block takes its commands
from outside and decodes none (DESIGN CHOICE, log entry 43). -/

namespace Sys2Proof

/-- The command that a word spells by the table's bits: none, since no row has bits. -/
def decodeTableWord (_nbits _w : Nat) : Option Instr := none

end Sys2Proof
end

