-- ==== Sys2Proof/Machine/RegMap.lean ====
section
/-! DEFINITION. The register map (R739, R740 and the register tables of every chapter): for each register its
address, its array dimensions, and its fields with access code (R9), reset value and legal range. Addresses of BAR2
(R376, R425) stand at 0x0100_0000 and above; the registers that a select register banks (QSEL, RING_SEL, GATE_SEL)
stand at 0x1000_0000 and above, one per queue, ring and part. -/

namespace Sys2Proof

/-- The access codes of R9. -/
inductive Acc | rw | ro | wo | w1c | rc | rws
  deriving DecidableEq, Repr, Inhabited

/-- Registers whose reset value depends on their index. -/
inductive VarReset | none | recSrcReset | idxReset | canInfoReset | portInfoReset | chProtReset | inDieReset
  deriving DecidableEq, Repr, Inhabited

/-- One field: its bits `hi:lo`, access code, reset value, and the values that a write may give it, where the spec
leaves it unchanged at any other. -/
structure FieldDef where
  hi : Nat
  lo : Nat
  acc : Acc
  reset : Nat
  valid : Option (Nat × Nat)
  deriving DecidableEq, Repr, Inhabited

/-- One register, or an array of registers with the given (stride, count) dimensions. -/
structure RegDef where
  base : Nat
  dims : List (Nat × Nat)
  var : VarReset
  fields : List FieldDef
  deriving DecidableEq, Repr, Inhabited

/-- Is the register one of these? -/
def RegDef.isOne (r : RegDef) (l : List RegDef) : Bool := l.any fun x => x.base == r.base

/-- A field named for the model's own use. -/
structure Fld where
  reg : RegDef
  hi : Nat
  lo : Nat
  deriving DecidableEq, Repr, Inhabited

/-- `DEV_ID` (R746). -/
def R.DEV_ID : RegDef := ⟨0x0, [], .none, [⟨31, 16, .ro, 0x2460, none⟩, ⟨15, 8, .ro, 0x0, none⟩, ⟨1, 0, .ro, 0x0, none⟩]⟩
/-- `DEV_ROM` (R746). -/
def R.DEV_ROM : RegDef := ⟨0x4, [], .none, [⟨31, 0, .ro, 0x0, none⟩]⟩
/-- `BOOT_STATUS` (R746). -/
def R.BOOT_STATUS : RegDef := ⟨0x10, [], .none, [⟨31, 29, .ro, 0x0, none⟩, ⟨28, 28, .ro, 0x0, none⟩, ⟨27, 27, .ro, 0x0, none⟩, ⟨26, 26, .w1c, 0x0, none⟩, ⟨19, 16, .ro, 0x0, none⟩, ⟨15, 0, .ro, 0xffff, none⟩]⟩
/-- `BOOT_FALLBACK` (R746). -/
def R.BOOT_FALLBACK : RegDef := ⟨0x14, [], .none, [⟨31, 31, .ro, 0x0, none⟩, ⟨23, 16, .ro, 0x0, none⟩, ⟨15, 8, .ro, 0x0, none⟩, ⟨7, 0, .ro, 0x0, none⟩]⟩
/-- `RESET_LOG` (R746). -/
def R.RESET_LOG : RegDef := ⟨0x18, [], .none, [⟨31, 16, .rws, 0x0, none⟩]⟩
/-- `SEAL` (R746). -/
def R.SEAL : RegDef := ⟨0x20, [], .none, [⟨15, 0, .wo, 0x0, none⟩]⟩
/-- `DEV_RESET` (R746). -/
def R.DEV_RESET : RegDef := ⟨0x30, [], .none, [⟨15, 0, .wo, 0x0, none⟩]⟩
/-- `TRANSIT_CFG` (R40). -/
def R.TRANSIT_CFG : RegDef := ⟨0x100, [], .none, [⟨2, 0, .rw, 0x1, some (0, 4)⟩]⟩
/-- `TRANSIT_COUNT_LO` (R40). -/
def R.TRANSIT_COUNT_LO : RegDef := ⟨0x104, [], .none, [⟨31, 0, .ro, 0x0, none⟩]⟩
/-- `TRANSIT_COUNT_HI` (R40). -/
def R.TRANSIT_COUNT_HI : RegDef := ⟨0x108, [], .none, [⟨31, 0, .ro, 0x0, none⟩]⟩
/-- `TRANSIT_PHASE` (R40). -/
def R.TRANSIT_PHASE : RegDef := ⟨0x10c, [], .none, [⟨31, 31, .ro, 0x0, none⟩, ⟨30, 0, .ro, 0x0, none⟩]⟩
/-- `ALMANAC_STATUS` (R40). -/
def R.ALMANAC_STATUS : RegDef := ⟨0x110, [], .none, [⟨31, 24, .ro, 0x0, none⟩, ⟨23, 16, .ro, 0x0, none⟩, ⟨15, 15, .ro, 0x0, none⟩, ⟨14, 0, .ro, 0x0, none⟩]⟩
/-- `ACC_NOW_LO` (R654). -/
def R.ACC_NOW_LO : RegDef := ⟨0x10000, [], .none, [⟨31, 0, .ro, 0x0, none⟩]⟩
/-- `ACC_NOW_HI` (R654). -/
def R.ACC_NOW_HI : RegDef := ⟨0x10004, [], .none, [⟨31, 0, .ro, 0x0, none⟩]⟩
/-- `LEDGER_INFO` (R654). -/
def R.LEDGER_INFO : RegDef := ⟨0x10010, [], .none, [⟨31, 16, .ro, 0x2000, none⟩, ⟨10, 0, .ro, 0x0, none⟩]⟩
/-- `LEDGER_NEWEST` (R654). -/
def R.LEDGER_NEWEST : RegDef := ⟨0x10014, [], .none, [⟨12, 0, .ro, 0x0, none⟩]⟩
/-- `LEDGER_SEL` (R654). -/
def R.LEDGER_SEL : RegDef := ⟨0x10020, [], .none, [⟨12, 0, .rw, 0x0, none⟩]⟩
/-- `LEDGER_CMD` (R654). -/
def R.LEDGER_CMD : RegDef := ⟨0x10024, [], .none, [⟨31, 31, .wo, 0x0, none⟩, ⟨3, 0, .rw, 0x0, none⟩]⟩
/-- `LEDGER_STATUS` (R654). -/
def R.LEDGER_STATUS : RegDef := ⟨0x10028, [], .none, [⟨7, 0, .ro, 0x0, none⟩]⟩
/-- `LEDGER_DATA` (R654). -/
def R.LEDGER_DATA : RegDef := ⟨0x10040, [(0x4, 8)], .none, [⟨31, 0, .ro, 0x0, none⟩]⟩
/-- `TD_CFG` (R373). -/
def R.TD_CFG : RegDef := ⟨0x20100, [(0x80, 4)], .none, [⟨31, 31, .rw, 0x0, none⟩, ⟨30, 28, .rw, 0x0, some (0, 2)⟩, ⟨27, 27, .rw, 0x0, none⟩, ⟨26, 25, .rw, 0x0, none⟩, ⟨24, 24, .rw, 0x1, none⟩, ⟨23, 23, .rw, 0x1, none⟩, ⟨22, 21, .rw, 0x0, none⟩, ⟨19, 16, .rw, 0x0, none⟩]⟩
/-- `TD_PORTS` (R373). -/
def R.TD_PORTS : RegDef := ⟨0x20104, [(0x80, 4)], .none, [⟨19, 0, .rw, 0x0, none⟩]⟩
/-- `TD_STATE` (R373). -/
def R.TD_STATE : RegDef := ⟨0x20108, [(0x80, 4)], .none, [⟨31, 29, .ro, 0x0, none⟩, ⟨28, 28, .ro, 0x0, none⟩, ⟨27, 27, .ro, 0x0, none⟩, ⟨26, 26, .w1c, 0x0, none⟩, ⟨25, 25, .w1c, 0x0, none⟩, ⟨24, 24, .ro, 0x0, none⟩]⟩
/-- `TD_OFFSET` (R373). -/
def R.TD_OFFSET : RegDef := ⟨0x2010c, [(0x80, 4)], .none, [⟨31, 0, .ro, 0x0, none⟩]⟩
/-- `TD_NOW_SEC_LO` (R373). -/
def R.TD_NOW_SEC_LO : RegDef := ⟨0x20110, [(0x80, 4)], .none, [⟨31, 0, .ro, 0x0, none⟩]⟩
/-- `TD_NOW_SEC_HI` (R373). -/
def R.TD_NOW_SEC_HI : RegDef := ⟨0x20114, [(0x80, 4)], .none, [⟨31, 0, .ro, 0x0, none⟩]⟩
/-- `TD_NOW_NS` (R373). -/
def R.TD_NOW_NS : RegDef := ⟨0x20118, [(0x80, 4)], .none, [⟨31, 0, .ro, 0x0, none⟩]⟩
/-- `TD_NOW_SUB` (R373). -/
def R.TD_NOW_SUB : RegDef := ⟨0x2011c, [(0x80, 4)], .none, [⟨15, 0, .ro, 0x0, none⟩]⟩
/-- `TD_RATE` (R373). -/
def R.TD_RATE : RegDef := ⟨0x20120, [(0x80, 4)], .none, [⟨31, 0, .ro, 0x0, none⟩]⟩
/-- `TD_KP` (R373). -/
def R.TD_KP : RegDef := ⟨0x20124, [(0x80, 4)], .none, [⟨23, 0, .rw, 0x20000, none⟩]⟩
/-- `TD_KI` (R373). -/
def R.TD_KI : RegDef := ⟨0x20128, [(0x80, 4)], .none, [⟨23, 0, .rw, 0x4000, none⟩]⟩
/-- `TD_STEP_AT` (R373). -/
def R.TD_STEP_AT : RegDef := ⟨0x2012c, [(0x80, 4)], .none, [⟨29, 0, .rw, 0x3e8, none⟩]⟩
/-- `TD_JUMP_THR` (R373). -/
def R.TD_JUMP_THR : RegDef := ⟨0x20130, [(0x80, 4)], .none, [⟨29, 0, .rw, 0x186a0, some (1000, 1000000000)⟩]⟩
/-- `TD_OCC` (R373). -/
def R.TD_OCC : RegDef := ⟨0x20134, [(0x80, 4)], .none, [⟨23, 16, .rw, 0x8, some (1, 255)⟩, ⟨15, 0, .rw, 0x177, some (1, 65535)⟩]⟩
/-- `TD_SLEW` (R373). -/
def R.TD_SLEW : RegDef := ⟨0x20138, [(0x80, 4)], .none, [⟨19, 0, .rw, 0x64, some (1, 500000)⟩]⟩
/-- `TD_DELTA` (R373). -/
def R.TD_DELTA : RegDef := ⟨0x2013c, [(0x80, 4)], .none, [⟨31, 0, .ro, 0x0, none⟩]⟩
/-- `TD_SET_SEC_LO` (R373). -/
def R.TD_SET_SEC_LO : RegDef := ⟨0x20140, [(0x80, 4)], .none, [⟨31, 0, .rw, 0x0, none⟩]⟩
/-- `TD_SET_SEC_HI` (R373). -/
def R.TD_SET_SEC_HI : RegDef := ⟨0x20144, [(0x80, 4)], .none, [⟨31, 0, .rw, 0x0, none⟩]⟩
/-- `TD_SET_NS` (R373). -/
def R.TD_SET_NS : RegDef := ⟨0x20148, [(0x80, 4)], .none, [⟨31, 0, .rw, 0x0, none⟩]⟩
/-- `TD_CMD` (R373). -/
def R.TD_CMD : RegDef := ⟨0x2014c, [(0x80, 4)], .none, [⟨31, 31, .wo, 0x0, none⟩, ⟨30, 30, .wo, 0x0, none⟩]⟩
/-- `PORT_LAT_RX` (R373). -/
def R.PORT_LAT_RX : RegDef := ⟨0x21000, [(0x8, 20)], .none, [⟨23, 0, .rw, 0x0, none⟩]⟩
/-- `PORT_LAT_TX` (R373). -/
def R.PORT_LAT_TX : RegDef := ⟨0x21004, [(0x8, 20)], .none, [⟨23, 0, .rw, 0x0, none⟩]⟩
/-- `TS_QSTAT` (R373). -/
def R.TS_QSTAT : RegDef := ⟨0x21200, [(0x4, 20)], .none, [⟨9, 0, .ro, 0x0, none⟩]⟩
/-- `HOST_PORT` (R424). -/
def R.HOST_PORT : RegDef := ⟨0x40000, [(0x4, 4)], .none, [⟨31, 31, .rw, 0x1, none⟩, ⟨30, 30, .rw, 0x1, none⟩, ⟨29, 29, .ro, 0x0, none⟩]⟩
/-- `TENANT_CFG` (R424). -/
def R.TENANT_CFG : RegDef := ⟨0x40100, [(0x8, 16)], .none, [⟨31, 31, .rw, 0x0, none⟩, ⟨30, 29, .rw, 0x0, none⟩, ⟨28, 24, .rw, 0x0, none⟩, ⟨23, 18, .rw, 0x3f, none⟩]⟩
/-- `TENANT_BUDGET` (R424). -/
def R.TENANT_BUDGET : RegDef := ⟨0x40104, [(0x8, 16)], .none, [⟨9, 0, .rw, 0x0, some (0, 800)⟩]⟩
/-- `RING_SEL` (R424). -/
def R.RING_SEL : RegDef := ⟨0x41000, [], .none, [⟨9, 6, .rw, 0x0, none⟩, ⟨5, 0, .rw, 0x0, none⟩]⟩
/-- `RING_CFG_A` (R424). -/
def R.RING_CFG_A : RegDef := ⟨0x11000000, [(0x400, 16), (0x10, 64)], .none, [⟨31, 29, .rw, 0x0, some (0, 6)⟩, ⟨28, 27, .rw, 0x2, some (0, 2)⟩, ⟨26, 22, .rw, 0x6, some (6, 16)⟩, ⟨21, 16, .rw, 0x0, none⟩, ⟨15, 12, .rw, 0x0, none⟩, ⟨11, 10, .rw, 0x0, none⟩, ⟨9, 9, .rw, 0x0, none⟩, ⟨8, 4, .rw, 0x10, some (0, 16)⟩, ⟨3, 0, .rw, 0xb, some (8, 14)⟩]⟩
/-- `RING_CFG_B` (R424). -/
def R.RING_CFG_B : RegDef := ⟨0x11000004, [(0x400, 16), (0x10, 64)], .none, [⟨31, 20, .rw, 0x0, none⟩, ⟨19, 8, .rw, 0x40, some (1, 4095)⟩, ⟨7, 0, .rw, 0x0, none⟩]⟩
/-- `RING_CFG_C` (R424). -/
def R.RING_CFG_C : RegDef := ⟨0x11000008, [(0x400, 16), (0x10, 64)], .none, [⟨31, 24, .rw, 0x1, none⟩, ⟨23, 16, .rw, 0x0, none⟩, ⟨15, 8, .rw, 0xff, none⟩]⟩
/-- `DOORBELL` (R425). -/
def R.DOORBELL : RegDef := ⟨0x1000000, [(0x1000, 16), (0x8, 64)], .none, [⟨31, 16, .ro, 0x0, none⟩, ⟨15, 0, .rw, 0x0, none⟩]⟩
/-- `DOORBELL_ARM` (R425). -/
def R.DOORBELL_ARM : RegDef := ⟨0x1000004, [(0x1000, 16), (0x8, 64)], .none, [⟨0, 0, .wo, 0x0, none⟩]⟩
/-- `RING_BASE_LO` (R425). -/
def R.RING_BASE_LO : RegDef := ⟨0x1000400, [(0x1000, 16), (0x10, 64)], .none, [⟨31, 12, .rw, 0x0, none⟩]⟩
/-- `RING_BASE_HI` (R425). -/
def R.RING_BASE_HI : RegDef := ⟨0x1000404, [(0x1000, 16), (0x10, 64)], .none, [⟨31, 0, .rw, 0x0, none⟩]⟩
/-- `RING_CTL` (R425). -/
def R.RING_CTL : RegDef := ⟨0x1000408, [(0x1000, 16), (0x10, 64)], .none, [⟨31, 31, .rw, 0x0, none⟩, ⟨30, 30, .wo, 0x0, none⟩, ⟨29, 29, .ro, 0x0, none⟩, ⟨28, 28, .ro, 0x1, none⟩, ⟨27, 24, .ro, 0x0, none⟩]⟩
/-- `CIPHER_DOORBELL` (R623). -/
def R.CIPHER_DOORBELL : RegDef := ⟨0x1000800, [(0x1000, 16)], .none, [⟨31, 16, .ro, 0x0, none⟩, ⟨15, 0, .rw, 0x0, none⟩]⟩
/-- `CIPHER_CTL` (R623). -/
def R.CIPHER_CTL : RegDef := ⟨0x1000808, [(0x1000, 16)], .none, [⟨31, 31, .rw, 0x0, none⟩, ⟨30, 30, .wo, 0x0, none⟩, ⟨29, 29, .ro, 0x0, none⟩, ⟨28, 28, .ro, 0x1, none⟩, ⟨27, 24, .ro, 0x0, none⟩]⟩
/-- `STACKS_INFO` (R126). -/
def R.STACKS_INFO : RegDef := ⟨0x80000, [], .none, [⟨31, 24, .ro, 0x7, none⟩, ⟨16, 0, .ro, 0x1e000, none⟩]⟩
/-- `STACKS_STATUS` (R126). -/
def R.STACKS_STATUS : RegDef := ⟨0x80004, [], .none, [⟨31, 31, .w1c, 0x0, none⟩, ⟨30, 30, .w1c, 0x0, none⟩, ⟨16, 0, .ro, 0x1e000, none⟩]⟩
/-- `POOL_WM` (R126). -/
def R.POOL_WM : RegDef := ⟨0x80008, [], .none, [⟨16, 0, .rw, 0x3000, none⟩]⟩
/-- `QSEL` (R126). -/
def R.QSEL : RegDef := ⟨0x80100, [], .none, [⟨11, 0, .rw, 0x0, none⟩]⟩
/-- `QCFG_A` (R126). -/
def R.QCFG_A : RegDef := ⟨0x10000000, [(0x20, 4096)], .none, [⟨31, 31, .rw, 0x0, none⟩, ⟨30, 29, .rw, 0x0, none⟩, ⟨28, 28, .rw, 0x0, none⟩, ⟨27, 24, .rw, 0x0, none⟩, ⟨15, 0, .rw, 0x1, some (1, 65535)⟩]⟩
/-- `QCFG_B` (R126). -/
def R.QCFG_B : RegDef := ⟨0x10000004, [(0x20, 4096)], .none, [⟨31, 16, .rw, 0xffff, none⟩, ⟨15, 0, .rw, 0x0, none⟩]⟩
/-- `QCFG_C` (R126). -/
def R.QCFG_C : RegDef := ⟨0x10000008, [(0x20, 4096)], .none, [⟨15, 0, .rw, 0x0, none⟩]⟩
/-- `QCFG_D` (R126). -/
def R.QCFG_D : RegDef := ⟨0x1000000c, [(0x20, 4096)], .none, [⟨28, 16, .rw, 0x0, some (0, 4096)⟩, ⟨12, 0, .rw, 0x0, none⟩]⟩
/-- `QSTAT` (R126). -/
def R.QSTAT : RegDef := ⟨0x10000010, [(0x20, 4096)], .none, [⟨31, 16, .ro, 0x0, none⟩, ⟨15, 0, .ro, 0x0, none⟩]⟩
/-- `MEM_PART` (R126). -/
def R.MEM_PART : RegDef := ⟨0x80200, [], .none, [⟨4, 0, .rw, 0x4, some (0, 16)⟩]⟩
/-- `REC_CFG` (R126). -/
def R.REC_CFG : RegDef := ⟨0x80300, [], .none, [⟨31, 31, .rw, 0x1, none⟩, ⟨25, 24, .rw, 0x0, none⟩, ⟨23, 16, .rw, 0x4, some (1, 48)⟩, ⟨5, 0, .rw, 0xb, none⟩]⟩
/-- `REC_SPAN` (R126). -/
def R.REC_SPAN : RegDef := ⟨0x80304, [], .none, [⟨31, 16, .rw, 0x40, some (0, 1024)⟩, ⟨15, 0, .rw, 0x200, some (1, 1024)⟩]⟩
/-- `REC_TRIG_SW` (R126). -/
def R.REC_TRIG_SW : RegDef := ⟨0x80308, [], .none, [⟨31, 0, .rw, 0x0, none⟩]⟩
/-- `REC_STATUS` (R126). -/
def R.REC_STATUS : RegDef := ⟨0x80310, [], .none, [⟨31, 31, .ro, 0x0, none⟩, ⟨30, 30, .ro, 0x0, none⟩, ⟨26, 24, .ro, 0x0, none⟩]⟩
/-- `REC_WRITE` (R126). -/
def R.REC_WRITE : RegDef := ⟨0x80314, [], .none, [⟨31, 0, .ro, 0x0, none⟩]⟩
/-- `REC_SRC` (R126). -/
def R.REC_SRC : RegDef := ⟨0x80380, [(0x4, 8)], .recSrcReset, [⟨31, 0, .rw, 0x0, none⟩]⟩
/-- `RESERVE` (R126). -/
def R.RESERVE : RegDef := ⟨0x80400, [(0x4, 128)], .none, [⟨16, 0, .rw, 0x0, none⟩]⟩
/-- `CLASSIFY_INFO` (R181). -/
def R.CLASSIFY_INFO : RegDef := ⟨0xc0000, [], .none, [⟨31, 31, .ro, 0x0, none⟩, ⟨14, 0, .ro, 0x4000, none⟩]⟩
/-- `PARSE_CFG` (R181). -/
def R.PARSE_CFG : RegDef := ⟨0xc0004, [], .none, [⟨11, 8, .rw, 0xc, some (4, 12)⟩, ⟨4, 0, .rw, 0x10, some (1, 16)⟩]⟩
/-- `PARSE_TPID` (R181). -/
def R.PARSE_TPID : RegDef := ⟨0xc0008, [], .none, [⟨31, 16, .rw, 0x0, none⟩, ⟨15, 0, .rw, 0x0, none⟩]⟩
/-- `PARSE_PORTS` (R181). -/
def R.PARSE_PORTS : RegDef := ⟨0xc000c, [], .none, [⟨31, 16, .rw, 0x4344, none⟩, ⟨15, 0, .rw, 0x3458, none⟩]⟩
/-- `PARSE_EDGE` (R181). -/
def R.PARSE_EDGE : RegDef := ⟨0xc0100, [(0x4, 32)], .none, [⟨31, 31, .rw, 0x0, none⟩, ⟨28, 24, .rw, 0x0, none⟩, ⟨20, 16, .rw, 0x0, none⟩, ⟨15, 0, .rw, 0x0, none⟩]⟩
/-- `RES_PROFILE` (R181). -/
def R.RES_PROFILE : RegDef := ⟨0xc0200, [(0x4, 128)], .none, [⟨15, 8, .rw, 0xff, none⟩, ⟨3, 0, .rw, 0x0, none⟩]⟩
/-- `KP_CTL` (R181). -/
def R.KP_CTL : RegDef := ⟨0xc0400, [(0x40, 16)], .none, [⟨31, 31, .rw, 0x0, none⟩, ⟨30, 30, .rw, 0x0, none⟩, ⟨5, 0, .rw, 0x8, some (8, 24)⟩]⟩
/-- `KP_EXT` (R181). -/
def R.KP_EXT : RegDef := ⟨0xc0404, [(0x40, 16), (0x4, 8)], .none, [⟨31, 31, .rw, 0x0, none⟩, ⟨30, 29, .rw, 0x0, none⟩, ⟨28, 24, .rw, 0x0, none⟩, ⟨23, 20, .rw, 0x0, none⟩, ⟨19, 12, .rw, 0x0, none⟩, ⟨11, 7, .rw, 0x0, none⟩]⟩
/-- `KP_SPREAD_LO` (R181). -/
def R.KP_SPREAD_LO : RegDef := ⟨0xc0424, [(0x40, 16)], .none, [⟨31, 0, .rw, 0x0, none⟩]⟩
/-- `KP_SPREAD_HI` (R181). -/
def R.KP_SPREAD_HI : RegDef := ⟨0xc0428, [(0x40, 16)], .none, [⟨7, 0, .rw, 0x0, none⟩]⟩
/-- `KP_DEFAULT_LO` (R181). -/
def R.KP_DEFAULT_LO : RegDef := ⟨0xc0430, [(0x40, 16)], .none, [⟨31, 0, .rw, 0x0, none⟩]⟩
/-- `KP_DEFAULT_HI` (R181). -/
def R.KP_DEFAULT_HI : RegDef := ⟨0xc0434, [(0x40, 16)], .none, [⟨17, 0, .rw, 0x0, none⟩]⟩
/-- `PM_SET` (R181). -/
def R.PM_SET : RegDef := ⟨0xc0800, [(0x4, 255)], .none, [⟨31, 31, .rw, 0x0, none⟩, ⟨28, 16, .rw, 0x0, none⟩, ⟨11, 0, .rw, 0x0, none⟩]⟩
/-- `TBL_CMD` (R181). -/
def R.TBL_CMD : RegDef := ⟨0xc1000, [], .none, [⟨31, 31, .wo, 0x0, none⟩, ⟨24, 8, .rw, 0x0, none⟩, ⟨7, 4, .rw, 0x0, none⟩, ⟨3, 0, .rw, 0x0, none⟩]⟩
/-- `TBL_STATUS` (R181). -/
def R.TBL_STATUS : RegDef := ⟨0xc1004, [], .none, [⟨31, 31, .ro, 0x0, none⟩, ⟨25, 25, .ro, 0x0, none⟩, ⟨24, 8, .ro, 0x0, none⟩, ⟨7, 0, .ro, 0x0, none⟩]⟩
/-- `TBL_DATA` (R181). -/
def R.TBL_DATA : RegDef := ⟨0xc1040, [(0x4, 32)], .none, [⟨31, 0, .rw, 0x0, none⟩]⟩
/-- `SPREAD_KEY` (R181). -/
def R.SPREAD_KEY : RegDef := ⟨0xc2000, [(0x40, 16), (0x4, 11)], .none, [⟨31, 0, .rw, 0x0, none⟩]⟩
/-- `INDIR` (R181). -/
def R.INDIR : RegDef := ⟨0xc4000, [(0x200, 16), (0x4, 128)], .none, [⟨31, 31, .rw, 0x0, none⟩, ⟨29, 24, .rw, 0x0, none⟩, ⟨23, 23, .rw, 0x0, none⟩,
  ⟨21, 16, .rw, 0x0, none⟩, ⟨15, 15, .rw, 0x0, none⟩, ⟨13, 8, .rw, 0x0, none⟩, ⟨7, 7, .rw, 0x0, none⟩, ⟨5, 0, .rw, 0x0, none⟩]⟩
/-- `FLOW_INFO` (R224). -/
def R.FLOW_INFO : RegDef := ⟨0x100000, [(0x4000, 16)], .idxReset, [⟨31, 22, .ro, 0x200, none⟩, ⟨21, 12, .ro, 0x100, none⟩, ⟨3, 0, .ro, 0x0, none⟩]⟩
/-- `FLOW_STATE` (R224). -/
def R.FLOW_STATE : RegDef := ⟨0x100004, [(0x4000, 16)], .none, [⟨31, 30, .ro, 0x0, none⟩, ⟨29, 29, .ro, 0x0, none⟩, ⟨15, 0, .ro, 0xffff, none⟩]⟩
/-- `FLOW_VERSION` (R224). -/
def R.FLOW_VERSION : RegDef := ⟨0x100008, [(0x4000, 16)], .none, [⟨31, 0, .ro, 0x0, none⟩]⟩
/-- `FLOW_LOAD` (R224). -/
def R.FLOW_LOAD : RegDef := ⟨0x10000c, [(0x4000, 16)], .none, [⟨18, 0, .ro, 0x0, none⟩]⟩
/-- `FLOW_PERR` (R224). -/
def R.FLOW_PERR : RegDef := ⟨0x100010, [(0x4000, 16)], .none, [⟨31, 24, .ro, 0x0, none⟩, ⟨15, 0, .ro, 0x0, none⟩]⟩
/-- `FLOW_PERR_PC` (R224). -/
def R.FLOW_PERR_PC : RegDef := ⟨0x100014, [(0x4000, 16)], .none, [⟨31, 0, .ro, 0x0, none⟩]⟩
/-- `FLOW_TP_USE` (R224). -/
def R.FLOW_TP_USE : RegDef := ⟨0x100018, [(0x4000, 16)], .none, [⟨6, 0, .ro, 0x0, none⟩]⟩
/-- `IOSEQ_INFO` (R224). -/
def R.IOSEQ_INFO : RegDef := ⟨0x140000, [(0x1000, 4)], .idxReset, [⟨31, 22, .ro, 0x40, none⟩, ⟨21, 12, .ro, 0x0, none⟩, ⟨3, 0, .ro, 0x0, none⟩]⟩
/-- `IOSEQ_STATE` (R224). -/
def R.IOSEQ_STATE : RegDef := ⟨0x140004, [(0x1000, 4)], .none, [⟨31, 30, .ro, 0x0, none⟩, ⟨29, 29, .ro, 0x0, none⟩, ⟨15, 0, .ro, 0xffff, none⟩]⟩
/-- `IOSEQ_VERSION` (R224). -/
def R.IOSEQ_VERSION : RegDef := ⟨0x140008, [(0x1000, 4)], .none, [⟨31, 0, .ro, 0x0, none⟩]⟩
/-- `IOSEQ_LOAD` (R224). -/
def R.IOSEQ_LOAD : RegDef := ⟨0x14000c, [(0x1000, 4)], .none, [⟨18, 0, .ro, 0x0, none⟩]⟩
/-- `IOSEQ_PERR` (R224). -/
def R.IOSEQ_PERR : RegDef := ⟨0x140010, [(0x1000, 4)], .none, [⟨31, 24, .ro, 0x0, none⟩, ⟨15, 0, .ro, 0x0, none⟩]⟩
/-- `IOSEQ_PERR_PC` (R224). -/
def R.IOSEQ_PERR_PC : RegDef := ⟨0x140014, [(0x1000, 4)], .none, [⟨31, 0, .ro, 0x0, none⟩]⟩
/-- `CAN_INFO` (R280). -/
def R.CAN_INFO : RegDef := ⟨0x180000, [(0x2000, 24)], .canInfoReset, [⟨31, 31, .ro, 0x0, none⟩, ⟨30, 30, .ro, 0x0, none⟩, ⟨4, 0, .ro, 0x0, none⟩]⟩
/-- `CAN_CFG` (R280). -/
def R.CAN_CFG : RegDef := ⟨0x180004, [(0x2000, 24)], .none, [⟨31, 31, .rw, 0x0, none⟩, ⟨30, 28, .rw, 0x0, some (0, 3)⟩, ⟨27, 27, .rw, 0x0, none⟩, ⟨26, 26, .rw, 0x0, none⟩, ⟨25, 25, .rw, 0x0, none⟩, ⟨24, 24, .rw, 0x0, none⟩, ⟨23, 23, .rw, 0x1, none⟩, ⟨22, 22, .rw, 0x0, none⟩, ⟨21, 21, .rw, 0x0, none⟩, ⟨20, 19, .rw, 0x0, none⟩]⟩
/-- `CAN_NBT` (R280). -/
def R.CAN_NBT : RegDef := ⟨0x180008, [(0x2000, 24)], .none, [⟨31, 23, .rw, 0x1, none⟩, ⟨22, 15, .rw, 0x3e, none⟩, ⟨14, 8, .rw, 0xf, none⟩, ⟨7, 1, .rw, 0xf, none⟩]⟩
/-- `CAN_DBT` (R280). -/
def R.CAN_DBT : RegDef := ⟨0x18000c, [(0x2000, 24)], .none, [⟨31, 27, .rw, 0x0, none⟩, ⟨26, 22, .rw, 0x1c, none⟩, ⟨21, 18, .rw, 0x9, none⟩, ⟨17, 14, .rw, 0x9, none⟩]⟩
/-- `CAN_XBT` (R280). -/
def R.CAN_XBT : RegDef := ⟨0x180010, [(0x2000, 24)], .none, [⟨31, 27, .rw, 0x0, none⟩, ⟨26, 22, .rw, 0x4, none⟩, ⟨21, 18, .rw, 0x1, none⟩, ⟨17, 14, .rw, 0x1, none⟩]⟩
/-- `CAN_TDC` (R280). -/
def R.CAN_TDC : RegDef := ⟨0x180014, [(0x2000, 24)], .none, [⟨31, 31, .rw, 0x0, none⟩, ⟨22, 16, .rw, 0x0, none⟩, ⟨6, 0, .rw, 0x0, none⟩]⟩
/-- `CAN_STATUS` (R280). -/
def R.CAN_STATUS : RegDef := ⟨0x180018, [(0x2000, 24)], .none, [⟨31, 30, .ro, 0x3, none⟩, ⟨29, 29, .ro, 0x0, none⟩, ⟨28, 28, .ro, 0x0, none⟩, ⟨27, 21, .ro, 0x0, none⟩, ⟨16, 8, .ro, 0x0, none⟩, ⟨7, 0, .ro, 0x0, none⟩]⟩
/-- `CAN_ERR` (R280). -/
def R.CAN_ERR : RegDef := ⟨0x18001c, [(0x2000, 24)], .none, [⟨31, 31, .w1c, 0x0, none⟩, ⟨30, 30, .w1c, 0x0, none⟩, ⟨26, 24, .ro, 0x0, none⟩, ⟨18, 16, .ro, 0x0, none⟩]⟩
/-- `CAN_CMD` (R280). -/
def R.CAN_CMD : RegDef := ⟨0x180020, [(0x2000, 24)], .none, [⟨31, 31, .wo, 0x0, none⟩]⟩
/-- `CAN_QSTAT` (R280). -/
def R.CAN_QSTAT : RegDef := ⟨0x180024, [(0x2000, 24)], .none, [⟨23, 16, .ro, 0x0, none⟩, ⟨7, 0, .ro, 0x0, none⟩]⟩
/-- `FILT_MATCH` (R280). -/
def R.FILT_MATCH : RegDef := ⟨0x180400, [(0x2000, 24), (0x8, 64)], .none, [⟨31, 31, .rw, 0x0, none⟩, ⟨30, 29, .rw, 0x0, none⟩, ⟨28, 0, .rw, 0x0, none⟩]⟩
/-- `FILT_MASK` (R280). -/
def R.FILT_MASK : RegDef := ⟨0x180404, [(0x2000, 24), (0x8, 64)], .none, [⟨31, 31, .rw, 0x0, none⟩, ⟨30, 30, .rw, 0x0, none⟩, ⟨29, 29, .rw, 0x0, none⟩, ⟨28, 0, .rw, 0x0, none⟩]⟩
/-- `FOLIO_CFG` (R280). -/
def R.FOLIO_CFG : RegDef := ⟨0x180600, [(0x2000, 24), (0x4, 64)], .none, [⟨31, 31, .rw, 0x0, none⟩, ⟨30, 29, .rw, 0x0, none⟩, ⟨27, 16, .rw, 0x0, none⟩, ⟨15, 8, .rw, 0x0, none⟩]⟩
/-- `FOLIO_STAT` (R280). -/
def R.FOLIO_STAT : RegDef := ⟨0x180700, [(0x2000, 24), (0x4, 64)], .none, [⟨31, 29, .ro, 0x0, none⟩, ⟨25, 24, .ro, 0x0, none⟩, ⟨7, 0, .ro, 0x0, none⟩]⟩
/-- `LIN_CFG` (R281). -/
def R.LIN_CFG : RegDef := ⟨0x1c0000, [(0x1000, 16)], .none, [⟨31, 31, .rw, 0x0, none⟩, ⟨30, 30, .rw, 0x0, none⟩, ⟨29, 27, .rw, 0x0, none⟩, ⟨14, 0, .rw, 0x4b00, some (1000, 20000)⟩]⟩
/-- `LIN_SCHED` (R281). -/
def R.LIN_SCHED : RegDef := ⟨0x1c0004, [(0x1000, 16)], .none, [⟨31, 31, .rw, 0x0, none⟩, ⟨17, 16, .ro, 0x0, none⟩, ⟨9, 8, .rw, 0x0, none⟩]⟩
/-- `LIN_PUB` (R281). -/
def R.LIN_PUB : RegDef := ⟨0x1c0008, [(0x1000, 16)], .none, [⟨31, 31, .rw, 0x0, none⟩, ⟨11, 0, .rw, 0x0, none⟩]⟩
/-- `LIN_RESPERR` (R281). -/
def R.LIN_RESPERR : RegDef := ⟨0x1c000c, [(0x1000, 16)], .none, [⟨31, 31, .rw, 0x0, none⟩, ⟨13, 8, .rw, 0x0, none⟩, ⟨5, 0, .rw, 0x0, none⟩]⟩
/-- `LIN_STATUS` (R281). -/
def R.LIN_STATUS : RegDef := ⟨0x1c0010, [(0x1000, 16)], .none, [⟨31, 30, .ro, 0x0, none⟩, ⟨23, 16, .ro, 0x0, none⟩]⟩
/-- `LIN_TABLE` (R281). -/
def R.LIN_TABLE : RegDef := ⟨0x1c0020, [(0x1000, 16), (0x4, 4)], .none, [⟨31, 31, .rw, 0x0, none⟩, ⟨23, 16, .rw, 0x0, none⟩, ⟨8, 0, .rw, 0x0, none⟩]⟩
/-- `LIN_ENTRY` (R281). -/
def R.LIN_ENTRY : RegDef := ⟨0x1c0400, [(0x1000, 16), (0x4, 256)], .none, [⟨31, 29, .rw, 0x5, none⟩, ⟨23, 22, .rw, 0x0, none⟩, ⟨21, 16, .rw, 0x0, none⟩, ⟨15, 0, .rw, 0x1, some (1, 65535)⟩]⟩
/-- `LIN_FRAME` (R281). -/
def R.LIN_FRAME : RegDef := ⟨0x1c0800, [(0x1000, 16), (0x4, 64)], .none, [⟨31, 30, .rw, 0x0, none⟩, ⟨29, 29, .rw, 0x1, none⟩, ⟨28, 28, .rw, 0x0, none⟩, ⟨27, 27, .rw, 0x0, none⟩, ⟨23, 20, .rw, 0x8, some (1, 8)⟩, ⟨19, 16, .rw, 0x0, none⟩, ⟨5, 0, .rw, 0x0, none⟩]⟩
/-- `PORT_INFO` (R330). -/
def R.PORT_INFO : RegDef := ⟨0x200000, [(0x4000, 20)], .portInfoReset, [⟨31, 30, .ro, 0x0, none⟩, ⟨4, 0, .ro, 0x0, none⟩]⟩
/-- `PORT_CFG` (R330). -/
def R.PORT_CFG : RegDef := ⟨0x200004, [(0x4000, 20)], .none, [⟨31, 31, .rw, 0x0, none⟩, ⟨30, 28, .rw, 0x0, none⟩, ⟨27, 25, .rw, 0x0, none⟩, ⟨24, 24, .rw, 0x0, none⟩, ⟨23, 23, .rw, 0x1, none⟩, ⟨22, 22, .rw, 0x0, none⟩, ⟨21, 21, .rw, 0x0, none⟩, ⟨20, 20, .rw, 0x0, none⟩, ⟨19, 19, .rw, 0x0, none⟩, ⟨18, 15, .rw, 0x0, none⟩]⟩
/-- `PORT_MAXLEN` (R330). -/
def R.PORT_MAXLEN : RegDef := ⟨0x200008, [(0x4000, 20)], .none, [⟨13, 0, .rw, 0x5fa, some (1514, 9216)⟩]⟩
/-- `LINK_STATUS` (R330). -/
def R.LINK_STATUS : RegDef := ⟨0x20000c, [(0x4000, 20)], .none, [⟨31, 31, .ro, 0x0, none⟩, ⟨30, 30, .ro, 0x0, none⟩, ⟨29, 27, .ro, 0x0, none⟩, ⟨26, 26, .ro, 0x0, none⟩, ⟨25, 25, .w1c, 0x0, none⟩]⟩
/-- `ADDR_LO` (R330). -/
def R.ADDR_LO : RegDef := ⟨0x200020, [(0x4000, 20), (0x8, 8)], .none, [⟨31, 0, .rw, 0x0, none⟩]⟩
/-- `ADDR_HI` (R330). -/
def R.ADDR_HI : RegDef := ⟨0x200024, [(0x4000, 20), (0x8, 8)], .none, [⟨31, 31, .rw, 0x0, none⟩, ⟨15, 0, .rw, 0x0, none⟩]⟩
/-- `TC_QUEUE` (R330). -/
def R.TC_QUEUE : RegDef := ⟨0x200100, [(0x4000, 20), (0x8, 8)], .none, [⟨31, 31, .rw, 0x0, none⟩, ⟨30, 30, .rw, 0x0, none⟩, ⟨11, 0, .rw, 0x0, none⟩]⟩
/-- `TC_SLOPE` (R330). -/
def R.TC_SLOPE : RegDef := ⟨0x200104, [(0x4000, 20), (0x8, 8)], .none, [⟨23, 0, .rw, 0x0, none⟩]⟩
/-- `PLCA_CFG` (R330). -/
def R.PLCA_CFG : RegDef := ⟨0x200200, [(0x4000, 20)], .none, [⟨31, 31, .rw, 0x1, none⟩, ⟨28, 24, .rw, 0x0, none⟩, ⟨21, 16, .rw, 0x8, some (1, 32)⟩, ⟨15, 8, .rw, 0x20, some (1, 255)⟩, ⟨7, 0, .rw, 0x0, none⟩]⟩
/-- `PLCA_BURST` (R330). -/
def R.PLCA_BURST : RegDef := ⟨0x200204, [(0x4000, 20)], .none, [⟨7, 0, .rw, 0x80, some (1, 255)⟩]⟩
/-- `SECY_CFG` (R330). -/
def R.SECY_CFG : RegDef := ⟨0x200400, [(0x4000, 20)], .none, [⟨31, 30, .rw, 0x2, some (0, 2)⟩, ⟨29, 29, .rw, 0x1, none⟩, ⟨28, 28, .rw, 0x1, none⟩, ⟨27, 27, .rw, 0x1, none⟩, ⟨26, 25, .rw, 0x0, some (0, 2)⟩, ⟨24, 23, .rw, 0x0, none⟩, ⟨22, 22, .rw, 0x1, none⟩, ⟨21, 21, .rw, 0x0, none⟩, ⟨20, 20, .rw, 0x0, none⟩, ⟨19, 18, .rw, 0x0, none⟩]⟩
/-- `SECY_WINDOW` (R330). -/
def R.SECY_WINDOW : RegDef := ⟨0x200404, [(0x4000, 20)], .none, [⟨31, 0, .rw, 0x0, none⟩]⟩
/-- `SECY_EXEMPT` (R330). -/
def R.SECY_EXEMPT : RegDef := ⟨0x200408, [(0x4000, 20)], .none, [⟨31, 16, .rw, 0x0, none⟩, ⟨15, 0, .rw, 0x0, none⟩]⟩
/-- `TX_SCI_LO` (R330). -/
def R.TX_SCI_LO : RegDef := ⟨0x200410, [(0x4000, 20)], .none, [⟨31, 0, .rw, 0x0, none⟩]⟩
/-- `TX_SCI_HI` (R330). -/
def R.TX_SCI_HI : RegDef := ⟨0x200414, [(0x4000, 20)], .none, [⟨31, 0, .rw, 0x0, none⟩]⟩
/-- `TXSA_CTL` (R330). -/
def R.TXSA_CTL : RegDef := ⟨0x200440, [(0x4000, 20), (0x20, 4)], .none, [⟨31, 31, .rw, 0x0, none⟩, ⟨30, 30, .ro, 0x0, none⟩, ⟨15, 0, .rw, 0x0, none⟩]⟩
/-- `TXSA_PN_LO` (R330). -/
def R.TXSA_PN_LO : RegDef := ⟨0x200444, [(0x4000, 20), (0x20, 4)], .none, [⟨31, 0, .rw, 0x0, none⟩]⟩
/-- `TXSA_PN_HI` (R330). -/
def R.TXSA_PN_HI : RegDef := ⟨0x200448, [(0x4000, 20), (0x20, 4)], .none, [⟨31, 0, .rw, 0x0, none⟩]⟩
/-- `TXSA_SSCI` (R330). -/
def R.TXSA_SSCI : RegDef := ⟨0x20044c, [(0x4000, 20), (0x20, 4)], .none, [⟨31, 0, .rw, 0x0, none⟩]⟩
/-- `TXSA_SALT0` (R330). -/
def R.TXSA_SALT0 : RegDef := ⟨0x200450, [(0x4000, 20), (0x20, 4)], .none, [⟨31, 0, .rw, 0x0, none⟩]⟩
/-- `TXSA_SALT1` (R330). -/
def R.TXSA_SALT1 : RegDef := ⟨0x200454, [(0x4000, 20), (0x20, 4)], .none, [⟨31, 0, .rw, 0x0, none⟩]⟩
/-- `TXSA_SALT2` (R330). -/
def R.TXSA_SALT2 : RegDef := ⟨0x200458, [(0x4000, 20), (0x20, 4)], .none, [⟨31, 0, .rw, 0x0, none⟩]⟩
/-- `RXSA_CTL` (R330). -/
def R.RXSA_CTL : RegDef := ⟨0x200520, [(0x4000, 20), (0x100, 4), (0x20, 4)], .none, [⟨31, 31, .rw, 0x0, none⟩, ⟨30, 30, .ro, 0x0, none⟩, ⟨15, 0, .rw, 0x0, none⟩]⟩
/-- `RXSA_PN_LO` (R330). -/
def R.RXSA_PN_LO : RegDef := ⟨0x200524, [(0x4000, 20), (0x100, 4), (0x20, 4)], .none, [⟨31, 0, .rw, 0x0, none⟩]⟩
/-- `RXSA_PN_HI` (R330). -/
def R.RXSA_PN_HI : RegDef := ⟨0x200528, [(0x4000, 20), (0x100, 4), (0x20, 4)], .none, [⟨31, 0, .rw, 0x0, none⟩]⟩
/-- `RXSA_SSCI` (R330). -/
def R.RXSA_SSCI : RegDef := ⟨0x20052c, [(0x4000, 20), (0x100, 4), (0x20, 4)], .none, [⟨31, 0, .rw, 0x0, none⟩]⟩
/-- `RXSA_SALT0` (R330). -/
def R.RXSA_SALT0 : RegDef := ⟨0x200530, [(0x4000, 20), (0x100, 4), (0x20, 4)], .none, [⟨31, 0, .rw, 0x0, none⟩]⟩
/-- `RXSA_SALT1` (R330). -/
def R.RXSA_SALT1 : RegDef := ⟨0x200534, [(0x4000, 20), (0x100, 4), (0x20, 4)], .none, [⟨31, 0, .rw, 0x0, none⟩]⟩
/-- `RXSA_SALT2` (R330). -/
def R.RXSA_SALT2 : RegDef := ⟨0x200538, [(0x4000, 20), (0x100, 4), (0x20, 4)], .none, [⟨31, 0, .rw, 0x0, none⟩]⟩
/-- `RXSC_SCI_LO` (R330). -/
def R.RXSC_SCI_LO : RegDef := ⟨0x200500, [(0x4000, 20), (0x100, 4)], .none, [⟨31, 0, .rw, 0x0, none⟩]⟩
/-- `RXSC_SCI_HI` (R330). -/
def R.RXSC_SCI_HI : RegDef := ⟨0x200504, [(0x4000, 20), (0x100, 4)], .none, [⟨31, 0, .rw, 0x0, none⟩]⟩
/-- `RXSC_CTL` (R330). -/
def R.RXSC_CTL : RegDef := ⟨0x200508, [(0x4000, 20), (0x100, 4)], .none, [⟨31, 31, .rw, 0x0, none⟩]⟩
/-- `SF_CTL` (R331). -/
def R.SF_CTL : RegDef := ⟨0x260000, [(0x8, 1024)], .none, [⟨31, 31, .rw, 0x0, none⟩, ⟨30, 30, .rw, 0x0, none⟩, ⟨29, 29, .ro, 0x0, none⟩, ⟨28, 21, .rw, 0xff, none⟩, ⟨20, 20, .rw, 0x0, none⟩, ⟨19, 11, .rw, 0x0, none⟩]⟩
/-- `SF_MATCH` (R331). -/
def R.SF_MATCH : RegDef := ⟨0x260004, [(0x8, 1024)], .none, [⟨31, 16, .rw, 0x0, none⟩, ⟨13, 0, .rw, 0x2400, some (64, 9216)⟩]⟩
/-- `MTR_CIR` (R331). -/
def R.MTR_CIR : RegDef := ⟨0x264000, [(0x10, 512)], .none, [⟨31, 31, .rw, 0x0, none⟩, ⟨30, 30, .rw, 0x0, none⟩, ⟨29, 29, .rw, 0x0, none⟩, ⟨23, 0, .rw, 0x0, none⟩]⟩
/-- `MTR_CBS` (R331). -/
def R.MTR_CBS : RegDef := ⟨0x264004, [(0x10, 512)], .none, [⟨23, 0, .rw, 0x0, none⟩]⟩
/-- `MTR_EIR` (R331). -/
def R.MTR_EIR : RegDef := ⟨0x264008, [(0x10, 512)], .none, [⟨23, 0, .rw, 0x0, none⟩]⟩
/-- `MTR_EBS` (R331). -/
def R.MTR_EBS : RegDef := ⟨0x26400c, [(0x10, 512)], .none, [⟨23, 0, .rw, 0x0, none⟩]⟩
/-- `PD_INFO` (R509). -/
def R.PD_INFO : RegDef := ⟨0x280000, [(0x20000, 2)], .idxReset, [⟨31, 24, .ro, 0x24, none⟩, ⟨0, 0, .ro, 0x0, none⟩]⟩
/-- `PD_CFG` (R509). -/
def R.PD_CFG : RegDef := ⟨0x280004, [(0x20000, 2)], .none, [⟨31, 21, .rw, 0x1f4, some (20, 2000)⟩, ⟨20, 10, .rw, 0x14, some (20, 2000)⟩, ⟨9, 6, .rw, 0x0, none⟩]⟩
/-- `PD_BUDGET` (R509). -/
def R.PD_BUDGET : RegDef := ⟨0x280008, [(0x20000, 2)], .none, [⟨31, 19, .rw, 0x1b58, none⟩, ⟨18, 6, .rw, 0x0, none⟩]⟩
/-- `PD_THERMAL` (R509). -/
def R.PD_THERMAL : RegDef := ⟨0x28000c, [(0x20000, 2)], .none, [⟨31, 24, .rw, 0x73, some (90, 125)⟩, ⟨23, 16, .rw, 0xa, some (2, 30)⟩]⟩
/-- `PD_BRIDGE` (R509). -/
def R.PD_BRIDGE : RegDef := ⟨0x280010, [(0x20000, 2)], .none, [⟨31, 31, .rw, 0x0, none⟩, ⟨30, 30, .rw, 0x0, none⟩, ⟨23, 16, .rw, 0xa, some (4, 40)⟩]⟩
/-- `PD_STATUS` (R509). -/
def R.PD_STATUS : RegDef := ⟨0x280014, [(0x20000, 2)], .none, [⟨31, 31, .ro, 0x0, none⟩, ⟨30, 30, .w1c, 0x0, none⟩, ⟨29, 29, .ro, 0x0, none⟩, ⟨28, 28, .w1c, 0x0, none⟩, ⟨12, 0, .ro, 0x0, none⟩]⟩
/-- `PD_SENSE` (R509). -/
def R.PD_SENSE : RegDef := ⟨0x280018, [(0x20000, 2)], .none, [⟨31, 16, .ro, 0x0, none⟩, ⟨15, 8, .ro, 0x0, none⟩]⟩
/-- `PWM_BASE` (R509). -/
def R.PWM_BASE : RegDef := ⟨0x280020, [(0x20000, 2), (0x4, 4)], .none, [⟨31, 31, .rw, 0x0, none⟩, ⟨20, 0, .rw, 0x186a0, some (1600, 1600000)⟩]⟩
/-- `CH_CFG` (R509). -/
def R.CH_CFG : RegDef := ⟨0x280100, [(0x20000, 2), (0x20, 36)], .none, [⟨31, 31, .rw, 0x0, none⟩, ⟨30, 29, .rw, 0x2, some (0, 2)⟩, ⟨28, 27, .rw, 0x0, some (0, 2)⟩, ⟨26, 26, .rw, 0x0, none⟩, ⟨25, 22, .rw, 0x0, none⟩, ⟨21, 18, .rw, 0x0, none⟩, ⟨17, 17, .rw, 0x0, none⟩, ⟨16, 16, .rw, 0x0, none⟩, ⟨15, 13, .rw, 0x0, none⟩, ⟨12, 11, .rw, 0x0, none⟩, ⟨10, 10, .rw, 0x0, none⟩]⟩
/-- `CH_LOAD` (R509). -/
def R.CH_LOAD : RegDef := ⟨0x280104, [(0x20000, 2), (0x20, 36)], .none, [⟨31, 16, .rw, 0x0, none⟩, ⟨15, 8, .rw, 0x0, none⟩, ⟨7, 0, .rw, 0x14, none⟩]⟩
/-- `CH_PROT` (R509). -/
def R.CH_PROT : RegDef := ⟨0x280108, [(0x20000, 2), (0x20, 36)], .chProtReset, [⟨31, 23, .rw, 0x0, none⟩, ⟨22, 15, .rw, 0x4, some (1, 255)⟩, ⟨14, 7, .rw, 0x0, none⟩, ⟨6, 0, .rw, 0x5, some (1, 100)⟩]⟩
/-- `CH_RETRY` (R509). -/
def R.CH_RETRY : RegDef := ⟨0x28010c, [(0x20000, 2), (0x20, 36)], .none, [⟨31, 16, .rw, 0xc8, some (1, 65535)⟩]⟩
/-- `CH_STATE` (R509). -/
def R.CH_STATE : RegDef := ⟨0x280110, [(0x20000, 2), (0x20, 36)], .none, [⟨31, 29, .ro, 0x0, none⟩, ⟨27, 16, .ro, 0x0, none⟩, ⟨15, 8, .ro, 0x0, none⟩, ⟨7, 0, .ro, 0x0, none⟩]⟩
/-- `CH_CURRENT` (R509). -/
def R.CH_CURRENT : RegDef := ⟨0x280114, [(0x20000, 2), (0x20, 36)], .none, [⟨31, 16, .ro, 0x0, none⟩, ⟨15, 0, .ro, 0x0, none⟩]⟩
/-- `CH_ENERGY` (R509). -/
def R.CH_ENERGY : RegDef := ⟨0x280118, [(0x20000, 2), (0x20, 36)], .none, [⟨31, 29, .ro, 0x0, none⟩, ⟨23, 0, .ro, 0x0, none⟩]⟩
/-- `CH_CAL` (R509). -/
def R.CH_CAL : RegDef := ⟨0x28011c, [(0x20000, 2), (0x20, 36)], .none, [⟨31, 16, .rw, 0x8000, some (16384, 65535)⟩, ⟨15, 0, .rw, 0x0, none⟩]⟩
/-- `IN_INFO` (R547). -/
def R.IN_INFO : RegDef := ⟨0x2c0000, [], .none, [⟨31, 24, .ro, 0x60, none⟩, ⟨23, 16, .ro, 0x20, none⟩]⟩
/-- `IN_DIE` (R547). -/
def R.IN_DIE : RegDef := ⟨0x2c0010, [(0x4, 2)], .inDieReset, [⟨31, 30, .rw, 0x1, none⟩, ⟨29, 26, .rw, 0x0, none⟩, ⟨25, 25, .rw, 0x0, none⟩, ⟨24, 20, .rw, 0x0, none⟩, ⟨19, 19, .rw, 0x0, none⟩, ⟨18, 14, .rw, 0x0, none⟩]⟩
/-- `SW_STATE` (R547). -/
def R.SW_STATE : RegDef := ⟨0x2c0040, [(0x4, 6)], .none, [⟨31, 0, .ro, 0x0, none⟩]⟩
/-- `SW_CFG` (R547). -/
def R.SW_CFG : RegDef := ⟨0x2c0100, [(0x8, 96)], .none, [⟨31, 31, .rw, 0x0, none⟩, ⟨30, 30, .rw, 0x0, none⟩, ⟨29, 29, .rw, 0x0, none⟩, ⟨28, 27, .rw, 0x0, some (0, 2)⟩, ⟨26, 25, .rw, 0x0, none⟩, ⟨24, 23, .rw, 0x0, none⟩, ⟨22, 22, .rw, 0x0, none⟩, ⟨21, 14, .rw, 0x32, none⟩]⟩
/-- `SW_GUARD` (R547). -/
def R.SW_GUARD : RegDef := ⟨0x2c0104, [(0x8, 96)], .none, [⟨31, 16, .rw, 0x0, none⟩, ⟨15, 8, .rw, 0x0, none⟩, ⟨7, 0, .rw, 0x64, some (1, 255)⟩]⟩
/-- `PARK_CFG` (R547). -/
def R.PARK_CFG : RegDef := ⟨0x2c0800, [], .none, [⟨31, 31, .rw, 0x0, none⟩, ⟨30, 30, .rw, 0x1, none⟩, ⟨29, 29, .rw, 0x1, none⟩, ⟨28, 16, .rw, 0x0, none⟩, ⟨15, 12, .rw, 0x0, none⟩]⟩
/-- `PARK_GUARD` (R547). -/
def R.PARK_GUARD : RegDef := ⟨0x2c0804, [], .none, [⟨10, 0, .rw, 0x64, some (1, 2000)⟩]⟩
/-- `PARK_TIMER` (R547). -/
def R.PARK_TIMER : RegDef := ⟨0x2c0808, [], .none, [⟨23, 0, .rw, 0x0, none⟩]⟩
/-- `PARK_FALSE` (R547). -/
def R.PARK_FALSE : RegDef := ⟨0x2c080c, [], .none, [⟨31, 16, .rw, 0x3c, some (1, 65535)⟩, ⟨7, 0, .rw, 0x3, none⟩]⟩
/-- `PARK_STATUS` (R547). -/
def R.PARK_STATUS : RegDef := ⟨0x2c0810, [], .none, [⟨31, 30, .ro, 0x0, none⟩, ⟨23, 16, .ro, 0x0, none⟩]⟩
/-- `WAKE_FIRST` (R547). -/
def R.WAKE_FIRST : RegDef := ⟨0x2c0820, [], .none, [⟨31, 24, .ro, 0x0, none⟩, ⟨23, 16, .ro, 0x0, none⟩]⟩
/-- `WAKE_TIME` (R547). -/
def R.WAKE_TIME : RegDef := ⟨0x2c0824, [], .none, [⟨31, 0, .ro, 0x0, none⟩]⟩
/-- `WAKE_IN` (R547). -/
def R.WAKE_IN : RegDef := ⟨0x2c0828, [], .none, [⟨31, 0, .ro, 0x0, none⟩]⟩
/-- `WAKE_BUS` (R547). -/
def R.WAKE_BUS : RegDef := ⟨0x2c082c, [], .none, [⟨31, 16, .ro, 0x0, none⟩, ⟨15, 8, .ro, 0x0, none⟩, ⟨7, 0, .ro, 0x0, none⟩]⟩
/-- `WAKE_MISC` (R547). -/
def R.WAKE_MISC : RegDef := ⟨0x2c0830, [], .none, [⟨0, 0, .ro, 0x0, none⟩]⟩
/-- `WAKE_DIS_IN` (R547). -/
def R.WAKE_DIS_IN : RegDef := ⟨0x2c0838, [], .none, [⟨31, 0, .ro, 0x0, none⟩]⟩
/-- `WAKE_DIS_BUS` (R547). -/
def R.WAKE_DIS_BUS : RegDef := ⟨0x2c083c, [], .none, [⟨31, 16, .ro, 0x0, none⟩, ⟨15, 8, .ro, 0x0, none⟩, ⟨7, 0, .ro, 0x0, none⟩]⟩
/-- `SWK_CTL` (R547). -/
def R.SWK_CTL : RegDef := ⟨0x2c0900, [(0x20, 8)], .none, [⟨31, 30, .rw, 0x0, some (0, 2)⟩, ⟨29, 29, .rw, 0x0, none⟩, ⟨28, 28, .rw, 0x0, none⟩, ⟨27, 27, .rw, 0x1, none⟩, ⟨26, 23, .rw, 0x8, none⟩]⟩
/-- `SWK_ID` (R547). -/
def R.SWK_ID : RegDef := ⟨0x2c0904, [(0x20, 8)], .none, [⟨28, 0, .rw, 0x0, none⟩]⟩
/-- `SWK_MASK` (R547). -/
def R.SWK_MASK : RegDef := ⟨0x2c0908, [(0x20, 8)], .none, [⟨28, 0, .rw, 0x0, none⟩]⟩
/-- `SWK_DATA_LO` (R547). -/
def R.SWK_DATA_LO : RegDef := ⟨0x2c090c, [(0x20, 8)], .none, [⟨31, 0, .rw, 0x0, none⟩]⟩
/-- `SWK_DATA_HI` (R547). -/
def R.SWK_DATA_HI : RegDef := ⟨0x2c0910, [(0x20, 8)], .none, [⟨31, 0, .rw, 0x0, none⟩]⟩
/-- `SWK_FEC` (R547). -/
def R.SWK_FEC : RegDef := ⟨0x2c0914, [(0x20, 8)], .none, [⟨5, 0, .ro, 0x0, none⟩]⟩
/-- `LIN_WAKE` (R547). -/
def R.LIN_WAKE : RegDef := ⟨0x2c0a00, [(0x4, 16)], .none, [⟨31, 31, .rw, 0x0, none⟩, ⟨30, 30, .rw, 0x0, none⟩]⟩
/-- `CQ_CFG` (R622). -/
def R.CQ_CFG : RegDef := ⟨0x300000, [(0x1000, 16)], .none, [⟨31, 31, .rw, 0x0, none⟩, ⟨30, 29, .rw, 0x2, some (0, 2)⟩, ⟨28, 27, .rw, 0x0, none⟩, ⟨26, 22, .rw, 0x6, some (6, 16)⟩, ⟨21, 16, .rw, 0x0, none⟩, ⟨15, 8, .rw, 0x10, some (1, 255)⟩]⟩
/-- `CQ_BASE_LO` (R622). -/
def R.CQ_BASE_LO : RegDef := ⟨0x300004, [(0x1000, 16)], .none, [⟨31, 12, .rw, 0x0, none⟩]⟩
/-- `CQ_BASE_HI` (R622). -/
def R.CQ_BASE_HI : RegDef := ⟨0x300008, [(0x1000, 16)], .none, [⟨31, 0, .rw, 0x0, none⟩]⟩
/-- `CQ_UNWRAP` (R622). -/
def R.CQ_UNWRAP : RegDef := ⟨0x30000c, [(0x1000, 16)], .none, [⟨31, 31, .rw, 0x0, none⟩, ⟨24, 16, .rw, 0x0, none⟩, ⟨8, 0, .rw, 0x0, some (4, 511)⟩]⟩
/-- `TGRANT` (R622). -/
def R.TGRANT : RegDef := ⟨0x300100, [(0x1000, 16), (0x4, 16)], .none, [⟨31, 0, .rw, 0x0, none⟩]⟩
/-- `EGRANT` (R622). -/
def R.EGRANT : RegDef := ⟨0x300800, [(0x1000, 16), (0x4, 16)], .none, [⟨31, 0, .rw, 0x0, none⟩]⟩
/-- `SR_INFO` (R593). -/
def R.SR_INFO : RegDef := ⟨0x310000, [(0x1000, 4)], .none, [⟨31, 29, .ro, 0x0, none⟩, ⟨9, 0, .ro, 0x200, none⟩]⟩
/-- `SR_ID` (R593). -/
def R.SR_ID : RegDef := ⟨0x310010, [(0x1000, 4), (0x4, 4)], .none, [⟨31, 0, .ro, 0x0, none⟩]⟩
/-- `SR_COUNTER` (R593). -/
def R.SR_COUNTER : RegDef := ⟨0x310020, [(0x1000, 4)], .none, [⟨31, 0, .ro, 0x0, none⟩]⟩
/-- `SR_PAIR_COUNTER` (R593). -/
def R.SR_PAIR_COUNTER : RegDef := ⟨0x310024, [(0x1000, 4)], .none, [⟨31, 0, .ro, 0x0, none⟩]⟩
/-- `SR_CMD` (R593). -/
def R.SR_CMD : RegDef := ⟨0x310030, [(0x1000, 4)], .none, [⟨31, 31, .wo, 0x0, none⟩, ⟨24, 16, .rw, 0x0, none⟩, ⟨8, 8, .rw, 0x0, none⟩, ⟨3, 0, .rw, 0x0, none⟩]⟩
/-- `SR_STATUS` (R593). -/
def R.SR_STATUS : RegDef := ⟨0x310034, [(0x1000, 4)], .none, [⟨31, 31, .ro, 0x0, none⟩, ⟨30, 30, .w1c, 0x0, none⟩, ⟨23, 16, .ro, 0x0, none⟩, ⟨15, 8, .ro, 0x0, none⟩, ⟨7, 0, .ro, 0x0, none⟩]⟩
/-- `SR_COMMIT_LO` (R593). -/
def R.SR_COMMIT_LO : RegDef := ⟨0x310038, [(0x1000, 4)], .none, [⟨31, 0, .ro, 0x0, none⟩]⟩
/-- `SR_COMMIT_HI` (R593). -/
def R.SR_COMMIT_HI : RegDef := ⟨0x31003c, [(0x1000, 4)], .none, [⟨31, 0, .ro, 0x0, none⟩]⟩
/-- `SR_SLOT_SEL` (R593). -/
def R.SR_SLOT_SEL : RegDef := ⟨0x310040, [(0x1000, 4)], .none, [⟨8, 0, .rw, 0x0, none⟩]⟩
/-- `SR_SLOT_ATTR` (R593). -/
def R.SR_SLOT_ATTR : RegDef := ⟨0x310044, [(0x1000, 4)], .none, [⟨31, 24, .ro, 0x0, none⟩, ⟨23, 16, .ro, 0x0, none⟩, ⟨15, 0, .ro, 0x0, none⟩]⟩
/-- `SR_SLOT_GEN` (R593). -/
def R.SR_SLOT_GEN : RegDef := ⟨0x310048, [(0x1000, 4)], .none, [⟨31, 0, .ro, 0x0, none⟩]⟩
/-- `SR_MSG` (R593). -/
def R.SR_MSG : RegDef := ⟨0x310200, [(0x1000, 4), (0x4, 128)], .none, [⟨31, 0, .wo, 0x0, none⟩]⟩
/-- `SR_REPLY` (R593). -/
def R.SR_REPLY : RegDef := ⟨0x310400, [(0x1000, 4), (0x4, 64)], .none, [⟨31, 0, .ro, 0x0, none⟩]⟩
/-- `SR_CFG` (R594). -/
def R.SR_CFG : RegDef := ⟨0x314000, [], .none, [⟨31, 28, .rw, 0x1, none⟩, ⟨27, 24, .rw, 0x0, none⟩, ⟨23, 14, .rw, 0x40, some (4, 1023)⟩, ⟨8, 0, .rw, 0x0, none⟩]⟩
/-- `FAULT_CFG` (R655). -/
def R.FAULT_CFG : RegDef := ⟨0x340000, [], .none, [⟨31, 28, .rw, 0x3, some (1, 15)⟩, ⟨27, 16, .rw, 0x3c, some (1, 4095)⟩, ⟨15, 12, .rw, 0x0, none⟩, ⟨11, 6, .rw, 0x3e, none⟩]⟩
/-- `FAULT_STATUS` (R655). -/
def R.FAULT_STATUS : RegDef := ⟨0x340004, [], .none, [⟨31, 30, .ro, 0x0, none⟩, ⟨29, 26, .ro, 0x0, none⟩, ⟨15, 8, .ro, 0x0, none⟩, ⟨7, 0, .ro, 0x0, none⟩]⟩
/-- `FAULT_LAST_LO` (R655). -/
def R.FAULT_LAST_LO : RegDef := ⟨0x340008, [], .none, [⟨31, 0, .ro, 0x0, none⟩]⟩
/-- `FAULT_LAST_HI` (R655). -/
def R.FAULT_LAST_HI : RegDef := ⟨0x34000c, [], .none, [⟨31, 0, .ro, 0x0, none⟩]⟩
/-- `FAULT_RESTART` (R655). -/
def R.FAULT_RESTART : RegDef := ⟨0x340010, [], .none, [⟨15, 0, .ro, 0x0, none⟩]⟩
/-- `FAULT_TOTAL` (R655). -/
def R.FAULT_TOTAL : RegDef := ⟨0x340014, [], .none, [⟨31, 0, .rws, 0x0, none⟩]⟩
/-- `FAULT_INJECT` (R655). -/
def R.FAULT_INJECT : RegDef := ⟨0x340018, [], .none, [⟨31, 31, .wo, 0x0, none⟩, ⟨30, 29, .rw, 0x0, none⟩, ⟨15, 8, .rw, 0x0, none⟩]⟩
/-- `PAIR_CFG` (R693). -/
def R.PAIR_CFG : RegDef := ⟨0x344000, [], .none, [⟨31, 31, .rw, 0x0, none⟩, ⟨30, 30, .rw, 0x1, none⟩, ⟨29, 26, .rw, 0x0, none⟩, ⟨25, 16, .rw, 0x32, some (10, 1000)⟩]⟩
/-- `PAIR_STBY_TX` (R693). -/
def R.PAIR_STBY_TX : RegDef := ⟨0x344004, [], .none, [⟨19, 0, .rw, 0x0, none⟩]⟩
/-- `PAIR_STATUS` (R693). -/
def R.PAIR_STATUS : RegDef := ⟨0x344008, [], .none, [⟨31, 29, .ro, 0x0, none⟩, ⟨28, 28, .ro, 0x0, none⟩, ⟨27, 27, .ro, 0x0, none⟩, ⟨26, 26, .ro, 0x0, none⟩, ⟨25, 24, .ro, 0x0, none⟩, ⟨23, 23, .w1c, 0x0, none⟩, ⟨22, 22, .ro, 0x0, none⟩, ⟨15, 8, .ro, 0x0, none⟩]⟩
/-- `PAIR_PEER_ID` (R693). -/
def R.PAIR_PEER_ID : RegDef := ⟨0x344010, [(0x4, 4)], .none, [⟨31, 0, .ro, 0x0, none⟩]⟩
/-- `PAIR_LINK` (R693). -/
def R.PAIR_LINK : RegDef := ⟨0x344020, [], .none, [⟨31, 31, .ro, 0x0, none⟩, ⟨30, 30, .ro, 0x0, none⟩, ⟨15, 0, .ro, 0x0, none⟩]⟩
/-- `PAIR_DELTA` (R693). -/
def R.PAIR_DELTA : RegDef := ⟨0x344024, [], .none, [⟨19, 0, .ro, 0x0, none⟩]⟩
/-- `PAIR_CAP` (R693). -/
def R.PAIR_CAP : RegDef := ⟨0x344028, [], .none, [⟨19, 0, .ro, 0x0, none⟩]⟩
/-- `PAIR_TAKEOVER_LO` (R693). -/
def R.PAIR_TAKEOVER_LO : RegDef := ⟨0x344030, [], .none, [⟨31, 0, .ro, 0x0, none⟩]⟩
/-- `PAIR_TAKEOVER_HI` (R693). -/
def R.PAIR_TAKEOVER_HI : RegDef := ⟨0x344034, [], .none, [⟨31, 0, .ro, 0x0, none⟩]⟩
/-- `BRIDGE_HOLD` (R458). -/
def R.BRIDGE_HOLD : RegDef := ⟨0x348000, [], .none, [⟨15, 8, .rw, 0x4, some (0, 64)⟩, ⟨7, 0, .rw, 0x2, some (0, 64)⟩]⟩
/-- `BRIDGE_TIMER` (R458). -/
def R.BRIDGE_TIMER : RegDef := ⟨0x348004, [], .none, [⟨31, 16, .rw, 0x3e8, some (5, 5000)⟩, ⟨9, 0, .rw, 0x64, some (1, 1000)⟩]⟩
/-- `GATE_SEL` (R458). -/
def R.GATE_SEL : RegDef := ⟨0x348010, [], .none, [⟨7, 0, .rw, 0x0, none⟩]⟩
/-- `GATE_STATE` (R458). -/
def R.GATE_STATE : RegDef := ⟨0x12000000, [(0x4, 256)], .none, [⟨31, 30, .ro, 0x0, none⟩, ⟨23, 16, .ro, 0x0, none⟩, ⟨15, 0, .ro, 0x0, none⟩]⟩
/-- `BRIDGE_LAST` (R458). -/
def R.BRIDGE_LAST : RegDef := ⟨0x348020, [(0x4, 4)], .none, [⟨31, 31, .w1c, 0x0, none⟩, ⟨23, 16, .ro, 0x0, none⟩, ⟨15, 8, .ro, 0x0, none⟩]⟩
/-- `LS_CFG` (R725). -/
def R.LS_CFG : RegDef := ⟨0x380000, [], .none, [⟨7, 4, .rw, 0x0, none⟩, ⟨3, 0, .rw, 0x1, none⟩]⟩
/-- `LS_CMD` (R725). -/
def R.LS_CMD : RegDef := ⟨0x380004, [], .none, [⟨31, 31, .wo, 0x0, none⟩, ⟨30, 30, .rw, 0x0, none⟩, ⟨29, 29, .rw, 0x0, none⟩, ⟨28, 28, .rw, 0x0, none⟩, ⟨23, 16, .rw, 0x0, none⟩, ⟨15, 8, .rw, 0x0, none⟩, ⟨3, 0, .rw, 0x0, none⟩]⟩
/-- `LS_LEN` (R725). -/
def R.LS_LEN : RegDef := ⟨0x380008, [], .none, [⟨19, 0, .rw, 0x0, none⟩]⟩
/-- `LS_ADDR_LO` (R725). -/
def R.LS_ADDR_LO : RegDef := ⟨0x38000c, [], .none, [⟨31, 6, .rw, 0x0, none⟩]⟩
/-- `LS_ADDR_HI` (R725). -/
def R.LS_ADDR_HI : RegDef := ⟨0x380010, [], .none, [⟨31, 0, .rw, 0x0, none⟩]⟩
/-- `LS_MOVE` (R725). -/
def R.LS_MOVE : RegDef := ⟨0x380014, [], .none, [⟨31, 31, .rw, 0x0, none⟩, ⟨12, 8, .rw, 0x0, none⟩, ⟨4, 0, .rw, 0x0, none⟩]⟩
/-- `LS_STATUS` (R725). -/
def R.LS_STATUS : RegDef := ⟨0x380018, [], .none, [⟨31, 31, .ro, 0x0, none⟩, ⟨30, 30, .w1c, 0x0, none⟩, ⟨23, 16, .ro, 0x0, none⟩, ⟨15, 8, .ro, 0x0, none⟩]⟩
/-- `LS_APPLY_LO` (R725). -/
def R.LS_APPLY_LO : RegDef := ⟨0x380020, [], .none, [⟨31, 0, .ro, 0x0, none⟩]⟩
/-- `LS_APPLY_HI` (R725). -/
def R.LS_APPLY_HI : RegDef := ⟨0x380024, [], .none, [⟨31, 0, .ro, 0x0, none⟩]⟩
/-- `LS_SLOT_SEL` (R725). -/
def R.LS_SLOT_SEL : RegDef := ⟨0x380030, [], .none, [⟨23, 16, .rw, 0x0, none⟩, ⟨15, 8, .rw, 0x0, none⟩]⟩
/-- `LS_SLOT_INFO` (R725). -/
def R.LS_SLOT_INFO : RegDef := ⟨0x380034, [], .none, [⟨31, 31, .ro, 0x0, none⟩, ⟨30, 30, .ro, 0x0, none⟩, ⟨29, 29, .ro, 0x0, none⟩, ⟨28, 28, .ro, 0x0, none⟩, ⟨27, 27, .ro, 0x0, none⟩]⟩
/-- `LS_SLOT_VER0` (R725). -/
def R.LS_SLOT_VER0 : RegDef := ⟨0x380038, [], .none, [⟨31, 0, .ro, 0x0, none⟩]⟩
/-- `LS_SLOT_VER1` (R725). -/
def R.LS_SLOT_VER1 : RegDef := ⟨0x38003c, [], .none, [⟨31, 0, .ro, 0x0, none⟩]⟩
/-- `SEAL_DROPS` (R748). -/
def R.SEAL_DROPS : RegDef := ⟨0x400000, [], .none, [⟨31, 0, .rc, 0x0, none⟩]⟩
/-- `TS_LOST` (R374). -/
def R.TS_LOST : RegDef := ⟨0x420000, [(0x10, 20)], .none, [⟨31, 0, .rc, 0x0, none⟩]⟩
/-- `TX_LATE` (R374). -/
def R.TX_LATE : RegDef := ⟨0x420004, [(0x10, 20)], .none, [⟨31, 0, .rc, 0x0, none⟩]⟩
/-- `TX_LATE_DROP` (R374). -/
def R.TX_LATE_DROP : RegDef := ⟨0x420008, [(0x10, 20)], .none, [⟨31, 0, .rc, 0x0, none⟩]⟩
/-- `TS_INSERT_DROP` (R374). -/
def R.TS_INSERT_DROP : RegDef := ⟨0x42000c, [(0x10, 20)], .none, [⟨31, 0, .rc, 0x0, none⟩]⟩
/-- `FEED_REJECT_TD` (R374). -/
def R.FEED_REJECT_TD : RegDef := ⟨0x421000, [(0x10, 4)], .none, [⟨31, 0, .rc, 0x0, none⟩]⟩
/-- `JUMPS_REFUSED` (R374). -/
def R.JUMPS_REFUSED : RegDef := ⟨0x421004, [(0x10, 4)], .none, [⟨31, 0, .rc, 0x0, none⟩]⟩
/-- `OCCULTATIONS` (R374). -/
def R.OCCULTATIONS : RegDef := ⟨0x421008, [(0x10, 4)], .none, [⟨31, 0, .rc, 0x0, none⟩]⟩
/-- `STEPS` (R374). -/
def R.STEPS : RegDef := ⟨0x42100c, [(0x10, 4)], .none, [⟨31, 0, .rc, 0x0, none⟩]⟩
/-- `RING_STARVED` (R426). -/
def R.RING_STARVED : RegDef := ⟨0x440000, [(0x100, 16), (0x4, 64)], .none, [⟨31, 0, .rc, 0x0, none⟩]⟩
/-- `EVT_LOST` (R426). -/
def R.EVT_LOST : RegDef := ⟨0x441000, [(0x4, 16)], .none, [⟨31, 0, .rc, 0x0, none⟩]⟩
/-- `DB_FOREIGN` (R426). -/
def R.DB_FOREIGN : RegDef := ⟨0x441040, [(0x4, 4)], .none, [⟨31, 0, .rc, 0x0, none⟩]⟩
/-- `WM_NOTICE` (R127). -/
def R.WM_NOTICE : RegDef := ⟨0x480000, [(0x4, 4096)], .none, [⟨31, 16, .rc, 0x0, none⟩, ⟨15, 0, .rc, 0x0, none⟩]⟩
/-- `POOL_NOTICE` (R127). -/
def R.POOL_NOTICE : RegDef := ⟨0x484000, [], .none, [⟨31, 17, .rc, 0x0, none⟩, ⟨16, 0, .rc, 0x1e000, none⟩]⟩
/-- `DROP_NOCELL` (R127). -/
def R.DROP_NOCELL : RegDef := ⟨0x488000, [(0x8, 128)], .none, [⟨31, 0, .rc, 0x0, none⟩]⟩
/-- `DROP_QFULL` (R127). -/
def R.DROP_QFULL : RegDef := ⟨0x488004, [(0x8, 128)], .none, [⟨31, 0, .rc, 0x0, none⟩]⟩
/-- `REC_LOST` (R127). -/
def R.REC_LOST : RegDef := ⟨0x489000, [], .none, [⟨31, 0, .rc, 0x0, none⟩]⟩
/-- `MISS` (R182). -/
def R.MISS : RegDef := ⟨0x4c0000, [(0x4, 16)], .none, [⟨31, 0, .rc, 0x0, none⟩]⟩
/-- `CLASS_DROP` (R182). -/
def R.CLASS_DROP : RegDef := ⟨0x4c0040, [(0x4, 16)], .none, [⟨31, 0, .rc, 0x0, none⟩]⟩
/-- `SPREAD_NONE` (R182). -/
def R.SPREAD_NONE : RegDef := ⟨0x4c0080, [(0x4, 16)], .none, [⟨31, 0, .rc, 0x0, none⟩]⟩
/-- `UNROUTED` (R182). -/
def R.UNROUTED : RegDef := ⟨0x4c0200, [(0x4, 132)], .none, [⟨31, 0, .rc, 0x0, none⟩]⟩
/-- `ACT_FAIL` (R182). -/
def R.ACT_FAIL : RegDef := ⟨0x4c1000, [(0x4, 4096)], .none, [⟨31, 0, .rc, 0x0, none⟩]⟩
/-- `PROG_ERR_FE` (R225). -/
def R.PROG_ERR_FE : RegDef := ⟨0x50f000, [(0x4, 16)], .none, [⟨31, 0, .rc, 0x0, none⟩]⟩
/-- `TP_EXPIRED` (R225). -/
def R.TP_EXPIRED : RegDef := ⟨0x50f040, [(0x4, 16)], .none, [⟨31, 0, .rc, 0x0, none⟩]⟩
/-- `PROG_ERR_IS` (R225). -/
def R.PROG_ERR_IS : RegDef := ⟨0x540000, [(0x4, 4)], .none, [⟨31, 0, .rc, 0x0, none⟩]⟩
/-- `CAN_QA_HEAD` (R282). -/
def R.CAN_QA_HEAD : RegDef := ⟨0x580000, [(0x2000, 24), (0x4, 24)], .none, [⟨31, 0, .ro, 0x0, none⟩]⟩
/-- `CAN_QB_HEAD` (R282). -/
def R.CAN_QB_HEAD : RegDef := ⟨0x580080, [(0x2000, 24), (0x4, 24)], .none, [⟨31, 0, .ro, 0x0, none⟩]⟩
/-- `CAN_RX_ERR` (R282). -/
def R.CAN_RX_ERR : RegDef := ⟨0x580100, [(0x2000, 24)], .none, [⟨31, 0, .rc, 0x0, none⟩]⟩
/-- `CAN_FILTERED_OUT` (R282). -/
def R.CAN_FILTERED_OUT : RegDef := ⟨0x580104, [(0x2000, 24)], .none, [⟨31, 0, .rc, 0x0, none⟩]⟩
/-- `CAN_QA_OVERRUN` (R282). -/
def R.CAN_QA_OVERRUN : RegDef := ⟨0x580108, [(0x2000, 24)], .none, [⟨31, 0, .rc, 0x0, none⟩]⟩
/-- `CAN_QB_OVERRUN` (R282). -/
def R.CAN_QB_OVERRUN : RegDef := ⟨0x58010c, [(0x2000, 24)], .none, [⟨31, 0, .rc, 0x0, none⟩]⟩
/-- `CAN_XL_SKIP` (R282). -/
def R.CAN_XL_SKIP : RegDef := ⟨0x580110, [(0x2000, 24)], .none, [⟨31, 0, .rc, 0x0, none⟩]⟩
/-- `CAN_ARB_LOST` (R282). -/
def R.CAN_ARB_LOST : RegDef := ⟨0x580114, [(0x2000, 24)], .none, [⟨31, 0, .rc, 0x0, none⟩]⟩
/-- `CAN_COLLISIONS` (R282). -/
def R.CAN_COLLISIONS : RegDef := ⟨0x580118, [(0x2000, 24)], .none, [⟨31, 0, .rc, 0x0, none⟩]⟩
/-- `CAN_BUS_OFF` (R282). -/
def R.CAN_BUS_OFF : RegDef := ⟨0x58011c, [(0x2000, 24)], .none, [⟨31, 0, .rc, 0x0, none⟩]⟩
/-- `CAN_CLAIM_UNKNOWN` (R282). -/
def R.CAN_CLAIM_UNKNOWN : RegDef := ⟨0x580120, [(0x2000, 24)], .none, [⟨31, 0, .rc, 0x0, none⟩]⟩
/-- `CAN_FEED_REJECT` (R282). -/
def R.CAN_FEED_REJECT : RegDef := ⟨0x580124, [(0x2000, 24)], .none, [⟨31, 0, .rc, 0x0, none⟩]⟩
/-- `LIN_NO_RESP` (R282). -/
def R.LIN_NO_RESP : RegDef := ⟨0x5c0000, [(0x1000, 16)], .none, [⟨31, 0, .rc, 0x0, none⟩]⟩
/-- `LIN_CHECKSUM_ERR` (R282). -/
def R.LIN_CHECKSUM_ERR : RegDef := ⟨0x5c0004, [(0x1000, 16)], .none, [⟨31, 0, .rc, 0x0, none⟩]⟩
/-- `LIN_PARITY_ERR` (R282). -/
def R.LIN_PARITY_ERR : RegDef := ⟨0x5c0008, [(0x1000, 16)], .none, [⟨31, 0, .rc, 0x0, none⟩]⟩
/-- `LIN_FRAMING_ERR` (R282). -/
def R.LIN_FRAMING_ERR : RegDef := ⟨0x5c000c, [(0x1000, 16)], .none, [⟨31, 0, .rc, 0x0, none⟩]⟩
/-- `LIN_BIT_ERR` (R282). -/
def R.LIN_BIT_ERR : RegDef := ⟨0x5c0010, [(0x1000, 16)], .none, [⟨31, 0, .rc, 0x0, none⟩]⟩
/-- `LIN_EVT_COLLISION` (R282). -/
def R.LIN_EVT_COLLISION : RegDef := ⟨0x5c0014, [(0x1000, 16)], .none, [⟨31, 0, .rc, 0x0, none⟩]⟩
/-- `LIN_SYNC_ERR` (R282). -/
def R.LIN_SYNC_ERR : RegDef := ⟨0x5c0018, [(0x1000, 16)], .none, [⟨31, 0, .rc, 0x0, none⟩]⟩
/-- `LIN_PUB_REJECT` (R282). -/
def R.LIN_PUB_REJECT : RegDef := ⟨0x5c001c, [(0x1000, 16)], .none, [⟨31, 0, .rc, 0x0, none⟩]⟩
/-- `RX_OK` (R332). -/
def R.RX_OK : RegDef := ⟨0x600000, [(0x4000, 20)], .none, [⟨31, 0, .rc, 0x0, none⟩]⟩
/-- `RX_FCS_ERR` (R332). -/
def R.RX_FCS_ERR : RegDef := ⟨0x600004, [(0x4000, 20)], .none, [⟨31, 0, .rc, 0x0, none⟩]⟩
/-- `RX_CODE_ERR` (R332). -/
def R.RX_CODE_ERR : RegDef := ⟨0x600008, [(0x4000, 20)], .none, [⟨31, 0, .rc, 0x0, none⟩]⟩
/-- `RX_RUNT` (R332). -/
def R.RX_RUNT : RegDef := ⟨0x60000c, [(0x4000, 20)], .none, [⟨31, 0, .rc, 0x0, none⟩]⟩
/-- `RX_OVERSIZE` (R332). -/
def R.RX_OVERSIZE : RegDef := ⟨0x600010, [(0x4000, 20)], .none, [⟨31, 0, .rc, 0x0, none⟩]⟩
/-- `RX_ADDR_FILTERED` (R332). -/
def R.RX_ADDR_FILTERED : RegDef := ⟨0x600014, [(0x4000, 20)], .none, [⟨31, 0, .rc, 0x0, none⟩]⟩
/-- `RX_MAC_CONTROL` (R332). -/
def R.RX_MAC_CONTROL : RegDef := ⟨0x600018, [(0x4000, 20)], .none, [⟨31, 0, .rc, 0x0, none⟩]⟩
/-- `TX_OK` (R332). -/
def R.TX_OK : RegDef := ⟨0x60001c, [(0x4000, 20)], .none, [⟨31, 0, .rc, 0x0, none⟩]⟩
/-- `TX_BAD_DROP` (R332). -/
def R.TX_BAD_DROP : RegDef := ⟨0x600020, [(0x4000, 20)], .none, [⟨31, 0, .rc, 0x0, none⟩]⟩
/-- `TX_TOO_LONG` (R332). -/
def R.TX_TOO_LONG : RegDef := ⟨0x600024, [(0x4000, 20)], .none, [⟨31, 0, .rc, 0x0, none⟩]⟩
/-- `TX_LINK_DOWN` (R332). -/
def R.TX_LINK_DOWN : RegDef := ⟨0x600028, [(0x4000, 20)], .none, [⟨31, 0, .rc, 0x0, none⟩]⟩
/-- `IN_OK` (R332). -/
def R.IN_OK : RegDef := ⟨0x60002c, [(0x4000, 20)], .none, [⟨31, 0, .rc, 0x0, none⟩]⟩
/-- `IN_UNTAGGED` (R332). -/
def R.IN_UNTAGGED : RegDef := ⟨0x600030, [(0x4000, 20)], .none, [⟨31, 0, .rc, 0x0, none⟩]⟩
/-- `IN_NO_TAG` (R332). -/
def R.IN_NO_TAG : RegDef := ⟨0x600034, [(0x4000, 20)], .none, [⟨31, 0, .rc, 0x0, none⟩]⟩
/-- `IN_BAD_TAG` (R332). -/
def R.IN_BAD_TAG : RegDef := ⟨0x600038, [(0x4000, 20)], .none, [⟨31, 0, .rc, 0x0, none⟩]⟩
/-- `IN_NO_SCI` (R332). -/
def R.IN_NO_SCI : RegDef := ⟨0x60003c, [(0x4000, 20)], .none, [⟨31, 0, .rc, 0x0, none⟩]⟩
/-- `IN_UNKNOWN_SCI` (R332). -/
def R.IN_UNKNOWN_SCI : RegDef := ⟨0x600040, [(0x4000, 20)], .none, [⟨31, 0, .rc, 0x0, none⟩]⟩
/-- `IN_NOT_USING_SA` (R332). -/
def R.IN_NOT_USING_SA : RegDef := ⟨0x600044, [(0x4000, 20)], .none, [⟨31, 0, .rc, 0x0, none⟩]⟩
/-- `IN_NOT_VALID` (R332). -/
def R.IN_NOT_VALID : RegDef := ⟨0x600048, [(0x4000, 20)], .none, [⟨31, 0, .rc, 0x0, none⟩]⟩
/-- `IN_INVALID` (R332). -/
def R.IN_INVALID : RegDef := ⟨0x60004c, [(0x4000, 20)], .none, [⟨31, 0, .rc, 0x0, none⟩]⟩
/-- `IN_LATE` (R332). -/
def R.IN_LATE : RegDef := ⟨0x600050, [(0x4000, 20)], .none, [⟨31, 0, .rc, 0x0, none⟩]⟩
/-- `IN_DELAYED` (R332). -/
def R.IN_DELAYED : RegDef := ⟨0x600054, [(0x4000, 20)], .none, [⟨31, 0, .rc, 0x0, none⟩]⟩
/-- `IN_UNCHECKED` (R332). -/
def R.IN_UNCHECKED : RegDef := ⟨0x600058, [(0x4000, 20)], .none, [⟨31, 0, .rc, 0x0, none⟩]⟩
/-- `IN_KEY_WITHDRAWN` (R332). -/
def R.IN_KEY_WITHDRAWN : RegDef := ⟨0x60005c, [(0x4000, 20)], .none, [⟨31, 0, .rc, 0x0, none⟩]⟩
/-- `OUT_PROTECTED` (R332). -/
def R.OUT_PROTECTED : RegDef := ⟨0x600060, [(0x4000, 20)], .none, [⟨31, 0, .rc, 0x0, none⟩]⟩
/-- `OUT_ENCRYPTED` (R332). -/
def R.OUT_ENCRYPTED : RegDef := ⟨0x600064, [(0x4000, 20)], .none, [⟨31, 0, .rc, 0x0, none⟩]⟩
/-- `OUT_UNTAGGED` (R332). -/
def R.OUT_UNTAGGED : RegDef := ⟨0x600068, [(0x4000, 20)], .none, [⟨31, 0, .rc, 0x0, none⟩]⟩
/-- `OUT_SA_NOT_IN_USE` (R332). -/
def R.OUT_SA_NOT_IN_USE : RegDef := ⟨0x60006c, [(0x4000, 20)], .none, [⟨31, 0, .rc, 0x0, none⟩]⟩
/-- `OUT_KEY_WITHDRAWN` (R332). -/
def R.OUT_KEY_WITHDRAWN : RegDef := ⟨0x600070, [(0x4000, 20)], .none, [⟨31, 0, .rc, 0x0, none⟩]⟩
/-- `RX_OCTETS_LO` (R332). -/
def R.RX_OCTETS_LO : RegDef := ⟨0x600100, [(0x4000, 20)], .none, [⟨31, 0, .rc, 0x0, none⟩]⟩
/-- `RX_OCTETS_HI` (R332). -/
def R.RX_OCTETS_HI : RegDef := ⟨0x600104, [(0x4000, 20)], .none, [⟨31, 0, .rc, 0x0, none⟩]⟩
/-- `TX_OCTETS_LO` (R332). -/
def R.TX_OCTETS_LO : RegDef := ⟨0x600108, [(0x4000, 20)], .none, [⟨31, 0, .rc, 0x0, none⟩]⟩
/-- `TX_OCTETS_HI` (R332). -/
def R.TX_OCTETS_HI : RegDef := ⟨0x60010c, [(0x4000, 20)], .none, [⟨31, 0, .rc, 0x0, none⟩]⟩
/-- `SF_PASSED` (R332). -/
def R.SF_PASSED : RegDef := ⟨0x660000, [(0x10, 1024)], .none, [⟨31, 0, .rc, 0x0, none⟩]⟩
/-- `SF_OVERSIZE` (R332). -/
def R.SF_OVERSIZE : RegDef := ⟨0x660004, [(0x10, 1024)], .none, [⟨31, 0, .rc, 0x0, none⟩]⟩
/-- `SF_YELLOW_DROP` (R332). -/
def R.SF_YELLOW_DROP : RegDef := ⟨0x660008, [(0x10, 1024)], .none, [⟨31, 0, .rc, 0x0, none⟩]⟩
/-- `SF_RED_DROP` (R332). -/
def R.SF_RED_DROP : RegDef := ⟨0x66000c, [(0x10, 1024)], .none, [⟨31, 0, .rc, 0x0, none⟩]⟩
/-- `TRIPS` (R510). -/
def R.TRIPS : RegDef := ⟨0x680000, [(0x20000, 2), (0x10, 36)], .none, [⟨31, 0, .rc, 0x0, none⟩]⟩
/-- `LOCKOUTS` (R510). -/
def R.LOCKOUTS : RegDef := ⟨0x680004, [(0x20000, 2), (0x10, 36)], .none, [⟨31, 0, .rc, 0x0, none⟩]⟩
/-- `OPEN_LOAD` (R510). -/
def R.OPEN_LOAD : RegDef := ⟨0x680008, [(0x20000, 2), (0x10, 36)], .none, [⟨31, 0, .rc, 0x0, none⟩]⟩
/-- `CLAMP_EVENTS` (R510). -/
def R.CLAMP_EVENTS : RegDef := ⟨0x68000c, [(0x20000, 2), (0x10, 36)], .none, [⟨31, 0, .rc, 0x0, none⟩]⟩
/-- `CMD_DELAYED` (R510). -/
def R.CMD_DELAYED : RegDef := ⟨0x681000, [(0x20000, 2)], .none, [⟨31, 0, .rc, 0x0, none⟩]⟩
/-- `CMD_REFUSED_BUDGET` (R510). -/
def R.CMD_REFUSED_BUDGET : RegDef := ⟨0x681004, [(0x20000, 2)], .none, [⟨31, 0, .rc, 0x0, none⟩]⟩
/-- `CMD_REFUSED_FULL` (R510). -/
def R.CMD_REFUSED_FULL : RegDef := ⟨0x681008, [(0x20000, 2)], .none, [⟨31, 0, .rc, 0x0, none⟩]⟩
/-- `CMD_REFUSED_POLICY` (R510). -/
def R.CMD_REFUSED_POLICY : RegDef := ⟨0x68100c, [(0x20000, 2)], .none, [⟨31, 0, .rc, 0x0, none⟩]⟩
/-- `THROTTLE_STEPS` (R510). -/
def R.THROTTLE_STEPS : RegDef := ⟨0x681010, [(0x20000, 2)], .none, [⟨31, 0, .rc, 0x0, none⟩]⟩
/-- `HOLDS` (R510). -/
def R.HOLDS : RegDef := ⟨0x681014, [(0x20000, 2)], .none, [⟨31, 0, .rc, 0x0, none⟩]⟩
/-- `MISSED` (R548). -/
def R.MISSED : RegDef := ⟨0x6c0000, [(0x10, 96)], .none, [⟨31, 0, .rc, 0x0, none⟩]⟩
/-- `STUCK_ENTRIES` (R548). -/
def R.STUCK_ENTRIES : RegDef := ⟨0x6c0004, [(0x10, 96)], .none, [⟨31, 0, .rc, 0x0, none⟩]⟩
/-- `CHATTER_ENTRIES` (R548). -/
def R.CHATTER_ENTRIES : RegDef := ⟨0x6c0008, [(0x10, 96)], .none, [⟨31, 0, .rc, 0x0, none⟩]⟩
/-- `SLEEP_AGREED` (R548). -/
def R.SLEEP_AGREED : RegDef := ⟨0x6c1000, [], .none, [⟨31, 0, .rc, 0x0, none⟩]⟩
/-- `SLEEP_ABORTS` (R548). -/
def R.SLEEP_ABORTS : RegDef := ⟨0x6c1004, [], .none, [⟨31, 0, .rc, 0x0, none⟩]⟩
/-- `PARK_FLUSHED` (R548). -/
def R.PARK_FLUSHED : RegDef := ⟨0x6c1008, [], .none, [⟨31, 0, .rc, 0x0, none⟩]⟩
/-- `PARKS` (R548). -/
def R.PARKS : RegDef := ⟨0x6c100c, [], .none, [⟨31, 0, .rc, 0x0, none⟩]⟩
/-- `WAKES` (R548). -/
def R.WAKES : RegDef := ⟨0x6c1010, [], .none, [⟨31, 0, .rc, 0x0, none⟩]⟩
/-- `FALSE_WAKES` (R548). -/
def R.FALSE_WAKES : RegDef := ⟨0x6c1014, [], .none, [⟨31, 0, .rc, 0x0, none⟩]⟩
/-- `OPS_OK` (R624). -/
def R.OPS_OK : RegDef := ⟨0x700000, [(0x20, 16)], .none, [⟨31, 0, .rc, 0x0, none⟩]⟩
/-- `OPS_AUTH_FAIL` (R624). -/
def R.OPS_AUTH_FAIL : RegDef := ⟨0x700004, [(0x20, 16)], .none, [⟨31, 0, .rc, 0x0, none⟩]⟩
/-- `OPS_REFUSED` (R624). -/
def R.OPS_REFUSED : RegDef := ⟨0x700008, [(0x20, 16)], .none, [⟨31, 0, .rc, 0x0, none⟩]⟩
/-- `UNWRAPS` (R624). -/
def R.UNWRAPS : RegDef := ⟨0x70000c, [(0x20, 16)], .none, [⟨31, 0, .rc, 0x0, none⟩]⟩
/-- `OPS_KEY_WITHDRAWN` (R624). -/
def R.OPS_KEY_WITHDRAWN : RegDef := ⟨0x700010, [(0x20, 16)], .none, [⟨31, 0, .rc, 0x0, none⟩]⟩
/-- `ENGINE_BLOCKS` (R624). -/
def R.ENGINE_BLOCKS : RegDef := ⟨0x700800, [(0x20, 4)], .none, [⟨31, 0, .rc, 0x0, none⟩]⟩
/-- `TRAFFIC_BLOCKS` (R624). -/
def R.TRAFFIC_BLOCKS : RegDef := ⟨0x700804, [(0x20, 4)], .none, [⟨31, 0, .rc, 0x0, none⟩]⟩
/-- `TENANT_BLOCKS` (R624). -/
def R.TENANT_BLOCKS : RegDef := ⟨0x700808, [(0x20, 4)], .none, [⟨31, 0, .rc, 0x0, none⟩]⟩
/-- `SCHED_LOADS` (R624). -/
def R.SCHED_LOADS : RegDef := ⟨0x70080c, [(0x20, 4)], .none, [⟨31, 0, .rc, 0x0, none⟩]⟩
/-- `MSG_ACCEPTED` (R595). -/
def R.MSG_ACCEPTED : RegDef := ⟨0x710000, [], .none, [⟨31, 0, .rc, 0x0, none⟩]⟩
/-- `MSG_REFUSED` (R595). -/
def R.MSG_REFUSED : RegDef := ⟨0x710004, [], .none, [⟨31, 0, .rc, 0x0, none⟩]⟩
/-- `AUTH_FAILS` (R595). -/
def R.AUTH_FAILS : RegDef := ⟨0x710008, [], .none, [⟨31, 0, .rc, 0x0, none⟩]⟩
/-- `BACKOFF_REFUSED` (R595). -/
def R.BACKOFF_REFUSED : RegDef := ⟨0x71000c, [], .none, [⟨31, 0, .rc, 0x0, none⟩]⟩
/-- `KEY_SCRUB_ABORTS` (R595). -/
def R.KEY_SCRUB_ABORTS : RegDef := ⟨0x710010, [], .none, [⟨31, 0, .rc, 0x0, none⟩]⟩
/-- `MASKED` (R656). -/
def R.MASKED : RegDef := ⟨0x740000, [(0x4, 256)], .none, [⟨31, 0, .rc, 0x0, none⟩]⟩
/-- `WITHDRAWALS` (R656). -/
def R.WITHDRAWALS : RegDef := ⟨0x740400, [], .none, [⟨31, 0, .rc, 0x0, none⟩]⟩
/-- `ESCALATIONS` (R656). -/
def R.ESCALATIONS : RegDef := ⟨0x740404, [], .none, [⟨31, 0, .rc, 0x0, none⟩]⟩
/-- `TAKEOVERS` (R694). -/
def R.TAKEOVERS : RegDef := ⟨0x744000, [], .none, [⟨31, 0, .rc, 0x0, none⟩]⟩
/-- `LINK_LOSSES` (R694). -/
def R.LINK_LOSSES : RegDef := ⟨0x744004, [], .none, [⟨31, 0, .rc, 0x0, none⟩]⟩
/-- `RETRANSMITS` (R694). -/
def R.RETRANSMITS : RegDef := ⟨0x744008, [], .none, [⟨31, 0, .rc, 0x0, none⟩]⟩
/-- `DETACHES` (R694). -/
def R.DETACHES : RegDef := ⟨0x74400c, [], .none, [⟨31, 0, .rc, 0x0, none⟩]⟩
/-- `YIELDS` (R694). -/
def R.YIELDS : RegDef := ⟨0x744010, [], .none, [⟨31, 0, .rc, 0x0, none⟩]⟩
/-- `GAP_FILLED` (R694). -/
def R.GAP_FILLED : RegDef := ⟨0x744014, [], .none, [⟨31, 0, .rc, 0x0, none⟩]⟩
/-- `DRIVER_ONLY` (R694). -/
def R.DRIVER_ONLY : RegDef := ⟨0x744018, [], .none, [⟨31, 0, .rc, 0x0, none⟩]⟩
/-- `STBY_SUPPRESSED` (R694). -/
def R.STBY_SUPPRESSED : RegDef := ⟨0x74401c, [], .none, [⟨31, 0, .rc, 0x0, none⟩]⟩
/-- `REJOINS` (R694). -/
def R.REJOINS : RegDef := ⟨0x744020, [], .none, [⟨31, 0, .rc, 0x0, none⟩]⟩
/-- `GATE_ABSENT` (R459). -/
def R.GATE_ABSENT : RegDef := ⟨0x748000, [(0x4, 256)], .none, [⟨31, 0, .rc, 0x0, none⟩]⟩
/-- `STALE_REPLY` (R459). -/
def R.STALE_REPLY : RegDef := ⟨0x748400, [(0x4, 256)], .none, [⟨31, 0, .rc, 0x0, none⟩]⟩
/-- `COLLECT_TIMEOUT` (R459). -/
def R.COLLECT_TIMEOUT : RegDef := ⟨0x748800, [(0x4, 4)], .none, [⟨31, 0, .rc, 0x0, none⟩]⟩
/-- `DMA_TIMEOUT` (R459). -/
def R.DMA_TIMEOUT : RegDef := ⟨0x748810, [(0x4, 4)], .none, [⟨31, 0, .rc, 0x0, none⟩]⟩
/-- `INBOUND_UR` (R459). -/
def R.INBOUND_UR : RegDef := ⟨0x748820, [(0x4, 4)], .none, [⟨31, 0, .rc, 0x0, none⟩]⟩
/-- `DRAIN_OVERRUN` (R459). -/
def R.DRAIN_OVERRUN : RegDef := ⟨0x748c00, [(0x4, 256)], .none, [⟨31, 0, .rc, 0x0, none⟩]⟩
/-- `ACTIVATIONS` (R726). -/
def R.ACTIVATIONS : RegDef := ⟨0x780000, [], .none, [⟨31, 0, .rc, 0x0, none⟩]⟩
/-- `LS_REFUSED` (R726). -/
def R.LS_REFUSED : RegDef := ⟨0x780004, [], .none, [⟨31, 0, .rc, 0x0, none⟩]⟩
/-- `VERIFY_FAILS` (R726). -/
def R.VERIFY_FAILS : RegDef := ⟨0x780008, [], .none, [⟨31, 0, .rc, 0x0, none⟩]⟩
/-- `HELD_SERVED` (R726). -/
def R.HELD_SERVED : RegDef := ⟨0x78000c, [], .none, [⟨31, 0, .rc, 0x0, none⟩]⟩
/-- `HELD_REFUSED` (R726). -/
def R.HELD_REFUSED : RegDef := ⟨0x780010, [], .none, [⟨31, 0, .rc, 0x0, none⟩]⟩
/-- `OUT_DELAYED` (R749). -/
def R.OUT_DELAYED : RegDef := ⟨0x800000, [(0x20, 65536)], .none, [⟨31, 0, .rc, 0x0, none⟩]⟩
/-- `OUT_BUDGET` (R749). -/
def R.OUT_BUDGET : RegDef := ⟨0x800004, [(0x20, 65536)], .none, [⟨31, 0, .rc, 0x0, none⟩]⟩
/-- `OUT_FULL` (R749). -/
def R.OUT_FULL : RegDef := ⟨0x800008, [(0x20, 65536)], .none, [⟨31, 0, .rc, 0x0, none⟩]⟩
/-- `OUT_POLICY` (R749). -/
def R.OUT_POLICY : RegDef := ⟨0x80000c, [(0x20, 65536)], .none, [⟨31, 0, .rc, 0x0, none⟩]⟩
/-- `OUT_ABSENT` (R749). -/
def R.OUT_ABSENT : RegDef := ⟨0x800010, [(0x20, 65536)], .none, [⟨31, 0, .rc, 0x0, none⟩]⟩

def F.DEV_ID_PART : Fld := ⟨R.DEV_ID, 31, 16⟩
def F.DEV_ID_STEP : Fld := ⟨R.DEV_ID, 15, 8⟩
def F.DEV_ID_GRADE : Fld := ⟨R.DEV_ID, 1, 0⟩
def F.DEV_ROM_VERSION : Fld := ⟨R.DEV_ROM, 31, 0⟩
def F.BOOT_STATUS_LAST_RESET : Fld := ⟨R.BOOT_STATUS, 31, 29⟩
def F.BOOT_STATUS_SEALED : Fld := ⟨R.BOOT_STATUS, 28, 28⟩
def F.BOOT_STATUS_NO_ALMANAC : Fld := ⟨R.BOOT_STATUS, 27, 27⟩
def F.BOOT_STATUS_FALLBACK : Fld := ⟨R.BOOT_STATUS, 26, 26⟩
def F.BOOT_STATUS_STEP : Fld := ⟨R.BOOT_STATUS, 19, 16⟩
def F.BOOT_STATUS_BOOT_MS : Fld := ⟨R.BOOT_STATUS, 15, 0⟩
def F.BOOT_FALLBACK_VALID : Fld := ⟨R.BOOT_FALLBACK, 31, 31⟩
def F.BOOT_FALLBACK_TARGET : Fld := ⟨R.BOOT_FALLBACK, 23, 16⟩
def F.BOOT_FALLBACK_KIND : Fld := ⟨R.BOOT_FALLBACK, 15, 8⟩
def F.BOOT_FALLBACK_COUNT : Fld := ⟨R.BOOT_FALLBACK, 7, 0⟩
def F.RESET_LOG_EXT_RESETS : Fld := ⟨R.RESET_LOG, 31, 16⟩
def F.SEAL_KEY : Fld := ⟨R.SEAL, 15, 0⟩
def F.DEV_RESET_KEY : Fld := ⟨R.DEV_RESET, 15, 0⟩
def F.TRANSIT_CFG_LEN : Fld := ⟨R.TRANSIT_CFG, 2, 0⟩
def F.TRANSIT_COUNT_LO_COUNT : Fld := ⟨R.TRANSIT_COUNT_LO, 31, 0⟩
def F.TRANSIT_COUNT_HI_COUNT : Fld := ⟨R.TRANSIT_COUNT_HI, 31, 0⟩
def F.TRANSIT_PHASE_ALIGNED : Fld := ⟨R.TRANSIT_PHASE, 31, 31⟩
def F.TRANSIT_PHASE_PHASE_ERR : Fld := ⟨R.TRANSIT_PHASE, 30, 0⟩
def F.ALMANAC_STATUS_REASON : Fld := ⟨R.ALMANAC_STATUS, 31, 24⟩
def F.ALMANAC_STATUS_RESOURCE : Fld := ⟨R.ALMANAC_STATUS, 23, 16⟩
def F.ALMANAC_STATUS_ACTIVE : Fld := ⟨R.ALMANAC_STATUS, 15, 15⟩
def F.ALMANAC_STATUS_PHASE : Fld := ⟨R.ALMANAC_STATUS, 14, 0⟩
def F.ACC_NOW_LO_ACC : Fld := ⟨R.ACC_NOW_LO, 31, 0⟩
def F.ACC_NOW_HI_ACC : Fld := ⟨R.ACC_NOW_HI, 31, 0⟩
def F.LEDGER_INFO_ENTRIES : Fld := ⟨R.LEDGER_INFO, 31, 16⟩
def F.LEDGER_INFO_PINNED : Fld := ⟨R.LEDGER_INFO, 10, 0⟩
def F.LEDGER_NEWEST_INDEX : Fld := ⟨R.LEDGER_NEWEST, 12, 0⟩
def F.LEDGER_SEL_INDEX : Fld := ⟨R.LEDGER_SEL, 12, 0⟩
def F.LEDGER_CMD_GO : Fld := ⟨R.LEDGER_CMD, 31, 31⟩
def F.LEDGER_CMD_OP : Fld := ⟨R.LEDGER_CMD, 3, 0⟩
def F.LEDGER_STATUS_CODE : Fld := ⟨R.LEDGER_STATUS, 7, 0⟩
def F.LEDGER_DATA_DATA : Fld := ⟨R.LEDGER_DATA, 31, 0⟩
def F.TD_CFG_ENABLE : Fld := ⟨R.TD_CFG, 31, 31⟩
def F.TD_CFG_ROLE : Fld := ⟨R.TD_CFG, 30, 28⟩
def F.TD_CFG_PARTNER_EN : Fld := ⟨R.TD_CFG, 27, 27⟩
def F.TD_CFG_PARTNER : Fld := ⟨R.TD_CFG, 26, 25⟩
def F.TD_CFG_CONVERGE : Fld := ⟨R.TD_CFG, 24, 24⟩
def F.TD_CFG_REVERT : Fld := ⟨R.TD_CFG, 23, 23⟩
def F.TD_CFG_SOURCE : Fld := ⟨R.TD_CFG, 22, 21⟩
def F.TD_CFG_OWNER : Fld := ⟨R.TD_CFG, 19, 16⟩
def F.TD_PORTS_PORTS : Fld := ⟨R.TD_PORTS, 19, 0⟩
def F.TD_STATE_STATE : Fld := ⟨R.TD_STATE, 31, 29⟩
def F.TD_STATE_GUARD_ARMED : Fld := ⟨R.TD_STATE, 28, 28⟩
def F.TD_STATE_JUMP_HELD : Fld := ⟨R.TD_STATE, 27, 27⟩
def F.TD_STATE_OCCULTED : Fld := ⟨R.TD_STATE, 26, 26⟩
def F.TD_STATE_JUMP_REFUSED : Fld := ⟨R.TD_STATE, 25, 25⟩
def F.TD_STATE_SRC_BAD : Fld := ⟨R.TD_STATE, 24, 24⟩
def F.TD_OFFSET_OFFSET : Fld := ⟨R.TD_OFFSET, 31, 0⟩
def F.TD_NOW_SEC_LO_NOW : Fld := ⟨R.TD_NOW_SEC_LO, 31, 0⟩
def F.TD_NOW_SEC_HI_NOW : Fld := ⟨R.TD_NOW_SEC_HI, 31, 0⟩
def F.TD_NOW_NS_NOW : Fld := ⟨R.TD_NOW_NS, 31, 0⟩
def F.TD_NOW_SUB_NOW : Fld := ⟨R.TD_NOW_SUB, 15, 0⟩
def F.TD_RATE_RATE : Fld := ⟨R.TD_RATE, 31, 0⟩
def F.TD_KP_KP : Fld := ⟨R.TD_KP, 23, 0⟩
def F.TD_KI_KI : Fld := ⟨R.TD_KI, 23, 0⟩
def F.TD_STEP_AT_STEP_AT : Fld := ⟨R.TD_STEP_AT, 29, 0⟩
def F.TD_JUMP_THR_JUMP_THR : Fld := ⟨R.TD_JUMP_THR, 29, 0⟩
def F.TD_OCC_REVERT_COUNT : Fld := ⟨R.TD_OCC, 23, 16⟩
def F.TD_OCC_OCC_TIMEOUT : Fld := ⟨R.TD_OCC, 15, 0⟩
def F.TD_SLEW_SLEW : Fld := ⟨R.TD_SLEW, 19, 0⟩
def F.TD_DELTA_DELTA : Fld := ⟨R.TD_DELTA, 31, 0⟩
def F.TD_SET_SEC_LO_SET : Fld := ⟨R.TD_SET_SEC_LO, 31, 0⟩
def F.TD_SET_SEC_HI_SET : Fld := ⟨R.TD_SET_SEC_HI, 31, 0⟩
def F.TD_SET_NS_SET : Fld := ⟨R.TD_SET_NS, 31, 0⟩
def F.TD_CMD_SET : Fld := ⟨R.TD_CMD, 31, 31⟩
def F.TD_CMD_ACCEPT_STEP : Fld := ⟨R.TD_CMD, 30, 30⟩
def F.PORT_LAT_RX_LAT : Fld := ⟨R.PORT_LAT_RX, 23, 0⟩
def F.PORT_LAT_TX_LAT : Fld := ⟨R.PORT_LAT_TX, 23, 0⟩
def F.TS_QSTAT_RESERVED : Fld := ⟨R.TS_QSTAT, 9, 0⟩
def F.HOST_PORT_ENABLE : Fld := ⟨R.HOST_PORT, 31, 31⟩
def F.HOST_PORT_DIAG : Fld := ⟨R.HOST_PORT, 30, 30⟩
def F.HOST_PORT_LINK_UP : Fld := ⟨R.HOST_PORT, 29, 29⟩
def F.TENANT_CFG_ENABLE : Fld := ⟨R.TENANT_CFG, 31, 31⟩
def F.TENANT_CFG_PORT : Fld := ⟨R.TENANT_CFG, 30, 29⟩
def F.TENANT_CFG_RIGHTS : Fld := ⟨R.TENANT_CFG, 28, 24⟩
def F.TENANT_CFG_EVENT_RING : Fld := ⟨R.TENANT_CFG, 23, 18⟩
def F.TENANT_BUDGET_BYTE_BUDGET : Fld := ⟨R.TENANT_BUDGET, 9, 0⟩
def F.RING_SEL_TENANT : Fld := ⟨R.RING_SEL, 9, 6⟩
def F.RING_SEL_RING : Fld := ⟨R.RING_SEL, 5, 0⟩
def F.RING_CFG_A_KIND : Fld := ⟨R.RING_CFG_A, 31, 29⟩
def F.RING_CFG_A_CLASS : Fld := ⟨R.RING_CFG_A, 28, 27⟩
def F.RING_CFG_A_SIZE_LOG2 : Fld := ⟨R.RING_CFG_A, 26, 22⟩
def F.RING_CFG_A_CQ : Fld := ⟨R.RING_CFG_A, 21, 16⟩
def F.RING_CFG_A_PROFILE : Fld := ⟨R.RING_CFG_A, 15, 12⟩
def F.RING_CFG_A_DOMAIN : Fld := ⟨R.RING_CFG_A, 11, 10⟩
def F.RING_CFG_A_DIRECT : Fld := ⟨R.RING_CFG_A, 9, 9⟩
def F.RING_CFG_A_HOLD : Fld := ⟨R.RING_CFG_A, 8, 4⟩
def F.RING_CFG_A_BUF_SHIFT : Fld := ⟨R.RING_CFG_A, 3, 0⟩
def F.RING_CFG_B_QUEUE : Fld := ⟨R.RING_CFG_B, 31, 20⟩
def F.RING_CFG_B_FETCH_MAX : Fld := ⟨R.RING_CFG_B, 19, 8⟩
def F.RING_CFG_B_VECTOR : Fld := ⟨R.RING_CFG_B, 7, 0⟩
def F.RING_CFG_C_MOD_COUNT : Fld := ⟨R.RING_CFG_C, 31, 24⟩
def F.RING_CFG_C_MOD_TIME : Fld := ⟨R.RING_CFG_C, 23, 16⟩
def F.RING_CFG_C_PM_SET : Fld := ⟨R.RING_CFG_C, 15, 8⟩
def F.DOORBELL_DEV_INDEX : Fld := ⟨R.DOORBELL, 31, 16⟩
def F.DOORBELL_INDEX : Fld := ⟨R.DOORBELL, 15, 0⟩
def F.DOORBELL_ARM_ARM : Fld := ⟨R.DOORBELL_ARM, 0, 0⟩
def F.RING_BASE_LO_BASE : Fld := ⟨R.RING_BASE_LO, 31, 12⟩
def F.RING_BASE_HI_BASE : Fld := ⟨R.RING_BASE_HI, 31, 0⟩
def F.RING_CTL_ENABLE : Fld := ⟨R.RING_CTL, 31, 31⟩
def F.RING_CTL_RESET : Fld := ⟨R.RING_CTL, 30, 30⟩
def F.RING_CTL_STALLED : Fld := ⟨R.RING_CTL, 29, 29⟩
def F.RING_CTL_DRAINED : Fld := ⟨R.RING_CTL, 28, 28⟩
def F.RING_CTL_CAUSE : Fld := ⟨R.RING_CTL, 27, 24⟩
def F.CIPHER_DOORBELL_DEV_INDEX : Fld := ⟨R.CIPHER_DOORBELL, 31, 16⟩
def F.CIPHER_DOORBELL_INDEX : Fld := ⟨R.CIPHER_DOORBELL, 15, 0⟩
def F.CIPHER_CTL_ENABLE : Fld := ⟨R.CIPHER_CTL, 31, 31⟩
def F.CIPHER_CTL_RESET : Fld := ⟨R.CIPHER_CTL, 30, 30⟩
def F.CIPHER_CTL_STALLED : Fld := ⟨R.CIPHER_CTL, 29, 29⟩
def F.CIPHER_CTL_DRAINED : Fld := ⟨R.CIPHER_CTL, 28, 28⟩
def F.CIPHER_CTL_CAUSE : Fld := ⟨R.CIPHER_CTL, 27, 24⟩
def F.STACKS_INFO_CELL_SHIFT : Fld := ⟨R.STACKS_INFO, 31, 24⟩
def F.STACKS_INFO_CELL_COUNT : Fld := ⟨R.STACKS_INFO, 16, 0⟩
def F.STACKS_STATUS_RES_REJECT : Fld := ⟨R.STACKS_STATUS, 31, 31⟩
def F.STACKS_STATUS_EXT_REJECT : Fld := ⟨R.STACKS_STATUS, 30, 30⟩
def F.STACKS_STATUS_FREE_CELLS : Fld := ⟨R.STACKS_STATUS, 16, 0⟩
def F.POOL_WM_LOW_FREE : Fld := ⟨R.POOL_WM, 16, 0⟩
def F.QSEL_QUEUE : Fld := ⟨R.QSEL, 11, 0⟩
def F.QCFG_A_VALID : Fld := ⟨R.QCFG_A, 31, 31⟩
def F.QCFG_A_CLASS : Fld := ⟨R.QCFG_A, 30, 29⟩
def F.QCFG_A_SPILL_EN : Fld := ⟨R.QCFG_A, 28, 28⟩
def F.QCFG_A_OWNER : Fld := ⟨R.QCFG_A, 27, 24⟩
def F.QCFG_A_LIMIT : Fld := ⟨R.QCFG_A, 15, 0⟩
def F.QCFG_B_HIGH_WM : Fld := ⟨R.QCFG_B, 31, 16⟩
def F.QCFG_B_LOW_WM : Fld := ⟨R.QCFG_B, 15, 0⟩
def F.QCFG_C_SPILL_AT : Fld := ⟨R.QCFG_C, 15, 0⟩
def F.QCFG_D_EXT_SIZE : Fld := ⟨R.QCFG_D, 28, 16⟩
def F.QCFG_D_EXT_BASE : Fld := ⟨R.QCFG_D, 12, 0⟩
def F.QSTAT_EXT_DEPTH : Fld := ⟨R.QSTAT, 31, 16⟩
def F.QSTAT_DEPTH : Fld := ⟨R.QSTAT, 15, 0⟩
def F.MEM_PART_DEEP_UNITS : Fld := ⟨R.MEM_PART, 4, 0⟩
def F.REC_CFG_ENABLE : Fld := ⟨R.REC_CFG, 31, 31⟩
def F.REC_CFG_DOMAIN : Fld := ⟨R.REC_CFG, 25, 24⟩
def F.REC_CFG_CLIP : Fld := ⟨R.REC_CFG, 23, 16⟩
def F.REC_CFG_TRIG_EN : Fld := ⟨R.REC_CFG, 5, 0⟩
def F.REC_SPAN_POST : Fld := ⟨R.REC_SPAN, 31, 16⟩
def F.REC_SPAN_PRE : Fld := ⟨R.REC_SPAN, 15, 0⟩
def F.REC_TRIG_SW_SW : Fld := ⟨R.REC_TRIG_SW, 31, 0⟩
def F.REC_STATUS_WRAPPED : Fld := ⟨R.REC_STATUS, 31, 31⟩
def F.REC_STATUS_SPAN_OPEN : Fld := ⟨R.REC_STATUS, 30, 30⟩
def F.REC_STATUS_PINNED : Fld := ⟨R.REC_STATUS, 26, 24⟩
def F.REC_WRITE_WRITE_UNIT : Fld := ⟨R.REC_WRITE, 31, 0⟩
def F.REC_SRC_MODE : Fld := ⟨R.REC_SRC, 31, 0⟩
def F.RESERVE_CELLS : Fld := ⟨R.RESERVE, 16, 0⟩
def F.CLASSIFY_INFO_PM_PRESENT : Fld := ⟨R.CLASSIFY_INFO, 31, 31⟩
def F.CLASSIFY_INFO_TCAM_ENTRIES : Fld := ⟨R.CLASSIFY_INFO, 14, 0⟩
def F.PARSE_CFG_MAX_BYTES : Fld := ⟨R.PARSE_CFG, 11, 8⟩
def F.PARSE_CFG_MAX_HEADERS : Fld := ⟨R.PARSE_CFG, 4, 0⟩
def F.PARSE_TPID_TPID1 : Fld := ⟨R.PARSE_TPID, 31, 16⟩
def F.PARSE_TPID_TPID0 : Fld := ⟨R.PARSE_TPID, 15, 0⟩
def F.PARSE_PORTS_AVTP_UDP : Fld := ⟨R.PARSE_PORTS, 31, 16⟩
def F.PARSE_PORTS_DOIP : Fld := ⟨R.PARSE_PORTS, 15, 0⟩
def F.PARSE_EDGE_VALID : Fld := ⟨R.PARSE_EDGE, 31, 31⟩
def F.PARSE_EDGE_FROM : Fld := ⟨R.PARSE_EDGE, 28, 24⟩
def F.PARSE_EDGE_TO : Fld := ⟨R.PARSE_EDGE, 20, 16⟩
def F.PARSE_EDGE_VALUE : Fld := ⟨R.PARSE_EDGE, 15, 0⟩
def F.RES_PROFILE_PM_SET : Fld := ⟨R.RES_PROFILE, 15, 8⟩
def F.RES_PROFILE_PROFILE : Fld := ⟨R.RES_PROFILE, 3, 0⟩
def F.KP_CTL_TCAM_EN : Fld := ⟨R.KP_CTL, 31, 31⟩
def F.KP_CTL_EXACT_EN : Fld := ⟨R.KP_CTL, 30, 30⟩
def F.KP_CTL_EXACT_OFF : Fld := ⟨R.KP_CTL, 5, 0⟩
def F.KP_EXT_VALID : Fld := ⟨R.KP_EXT, 31, 31⟩
def F.KP_EXT_LEVEL : Fld := ⟨R.KP_EXT, 30, 29⟩
def F.KP_EXT_KIND : Fld := ⟨R.KP_EXT, 28, 24⟩
def F.KP_EXT_INSTANCE : Fld := ⟨R.KP_EXT, 23, 20⟩
def F.KP_EXT_OFFSET : Fld := ⟨R.KP_EXT, 19, 12⟩
def F.KP_EXT_LENGTH : Fld := ⟨R.KP_EXT, 11, 7⟩
def F.KP_SPREAD_LO_MASK : Fld := ⟨R.KP_SPREAD_LO, 31, 0⟩
def F.KP_SPREAD_HI_MASK : Fld := ⟨R.KP_SPREAD_HI, 7, 0⟩
def F.KP_DEFAULT_LO_RESULT : Fld := ⟨R.KP_DEFAULT_LO, 31, 0⟩
def F.KP_DEFAULT_HI_RESULT : Fld := ⟨R.KP_DEFAULT_HI, 17, 0⟩
def F.PM_SET_VALID : Fld := ⟨R.PM_SET, 31, 31⟩
def F.PM_SET_COUNT : Fld := ⟨R.PM_SET, 28, 16⟩
def F.PM_SET_FIRST : Fld := ⟨R.PM_SET, 11, 0⟩
def F.TBL_CMD_GO : Fld := ⟨R.TBL_CMD, 31, 31⟩
def F.TBL_CMD_INDEX : Fld := ⟨R.TBL_CMD, 24, 8⟩
def F.TBL_CMD_TABLE : Fld := ⟨R.TBL_CMD, 7, 4⟩
def F.TBL_CMD_OP : Fld := ⟨R.TBL_CMD, 3, 0⟩
def F.TBL_STATUS_BUSY : Fld := ⟨R.TBL_STATUS, 31, 31⟩
def F.TBL_STATUS_NOT_FOUND : Fld := ⟨R.TBL_STATUS, 25, 25⟩
def F.TBL_STATUS_INDEX : Fld := ⟨R.TBL_STATUS, 24, 8⟩
def F.TBL_STATUS_CODE : Fld := ⟨R.TBL_STATUS, 7, 0⟩
def F.TBL_DATA_DATA : Fld := ⟨R.TBL_DATA, 31, 0⟩
def F.SPREAD_KEY_KEY : Fld := ⟨R.SPREAD_KEY, 31, 0⟩
def F.INDIR_ENTRIES : Fld := ⟨R.INDIR, 31, 0⟩
def F.FLOW_INFO_DMEM_KIB : Fld := ⟨R.FLOW_INFO, 31, 22⟩
def F.FLOW_INFO_IMEM_KIB : Fld := ⟨R.FLOW_INFO, 21, 12⟩
def F.FLOW_INFO_INDEX : Fld := ⟨R.FLOW_INFO, 3, 0⟩
def F.FLOW_STATE_STATE : Fld := ⟨R.FLOW_STATE, 31, 30⟩
def F.FLOW_STATE_SLOT : Fld := ⟨R.FLOW_STATE, 29, 29⟩
def F.FLOW_STATE_ENTRY : Fld := ⟨R.FLOW_STATE, 15, 0⟩
def F.FLOW_VERSION_VERSION : Fld := ⟨R.FLOW_VERSION, 31, 0⟩
def F.FLOW_LOAD_CYCLES : Fld := ⟨R.FLOW_LOAD, 18, 0⟩
def F.FLOW_PERR_CAUSE : Fld := ⟨R.FLOW_PERR, 31, 24⟩
def F.FLOW_PERR_ENTRY : Fld := ⟨R.FLOW_PERR, 15, 0⟩
def F.FLOW_PERR_PC_PC : Fld := ⟨R.FLOW_PERR_PC, 31, 0⟩
def F.FLOW_TP_USE_OPEN : Fld := ⟨R.FLOW_TP_USE, 6, 0⟩
def F.IOSEQ_INFO_DMEM_KIB : Fld := ⟨R.IOSEQ_INFO, 31, 22⟩
def F.IOSEQ_INFO_IMEM_KIB : Fld := ⟨R.IOSEQ_INFO, 21, 12⟩
def F.IOSEQ_INFO_INDEX : Fld := ⟨R.IOSEQ_INFO, 3, 0⟩
def F.IOSEQ_STATE_STATE : Fld := ⟨R.IOSEQ_STATE, 31, 30⟩
def F.IOSEQ_STATE_SLOT : Fld := ⟨R.IOSEQ_STATE, 29, 29⟩
def F.IOSEQ_STATE_ENTRY : Fld := ⟨R.IOSEQ_STATE, 15, 0⟩
def F.IOSEQ_VERSION_VERSION : Fld := ⟨R.IOSEQ_VERSION, 31, 0⟩
def F.IOSEQ_LOAD_CYCLES : Fld := ⟨R.IOSEQ_LOAD, 18, 0⟩
def F.IOSEQ_PERR_CAUSE : Fld := ⟨R.IOSEQ_PERR, 31, 24⟩
def F.IOSEQ_PERR_ENTRY : Fld := ⟨R.IOSEQ_PERR, 15, 0⟩
def F.IOSEQ_PERR_PC_PC : Fld := ⟨R.IOSEQ_PERR_PC, 31, 0⟩
def F.CAN_INFO_XL_CAP : Fld := ⟨R.CAN_INFO, 31, 31⟩
def F.CAN_INFO_XCVR : Fld := ⟨R.CAN_INFO, 30, 30⟩
def F.CAN_INFO_INDEX : Fld := ⟨R.CAN_INFO, 4, 0⟩
def F.CAN_CFG_ENABLE : Fld := ⟨R.CAN_CFG, 31, 31⟩
def F.CAN_CFG_MODE : Fld := ⟨R.CAN_CFG, 30, 28⟩
def F.CAN_CFG_FD_EN : Fld := ⟨R.CAN_CFG, 27, 27⟩
def F.CAN_CFG_BRS_EN : Fld := ⟨R.CAN_CFG, 26, 26⟩
def F.CAN_CFG_XL_EN : Fld := ⟨R.CAN_CFG, 25, 25⟩
def F.CAN_CFG_XL_FAST : Fld := ⟨R.CAN_CFG, 24, 24⟩
def F.CAN_CFG_PEX : Fld := ⟨R.CAN_CFG, 23, 23⟩
def F.CAN_CFG_J1939 : Fld := ⟨R.CAN_CFG, 22, 22⟩
def F.CAN_CFG_BOFF_AUTO : Fld := ⟨R.CAN_CFG, 21, 21⟩
def F.CAN_CFG_UNFILTERED : Fld := ⟨R.CAN_CFG, 20, 19⟩
def F.CAN_NBT_NBRP : Fld := ⟨R.CAN_NBT, 31, 23⟩
def F.CAN_NBT_NTSEG1 : Fld := ⟨R.CAN_NBT, 22, 15⟩
def F.CAN_NBT_NTSEG2 : Fld := ⟨R.CAN_NBT, 14, 8⟩
def F.CAN_NBT_NSJW : Fld := ⟨R.CAN_NBT, 7, 1⟩
def F.CAN_DBT_DBRP : Fld := ⟨R.CAN_DBT, 31, 27⟩
def F.CAN_DBT_DTSEG1 : Fld := ⟨R.CAN_DBT, 26, 22⟩
def F.CAN_DBT_DTSEG2 : Fld := ⟨R.CAN_DBT, 21, 18⟩
def F.CAN_DBT_DSJW : Fld := ⟨R.CAN_DBT, 17, 14⟩
def F.CAN_XBT_XBRP : Fld := ⟨R.CAN_XBT, 31, 27⟩
def F.CAN_XBT_XTSEG1 : Fld := ⟨R.CAN_XBT, 26, 22⟩
def F.CAN_XBT_XTSEG2 : Fld := ⟨R.CAN_XBT, 21, 18⟩
def F.CAN_XBT_XSJW : Fld := ⟨R.CAN_XBT, 17, 14⟩
def F.CAN_TDC_TDC_EN : Fld := ⟨R.CAN_TDC, 31, 31⟩
def F.CAN_TDC_TDCF : Fld := ⟨R.CAN_TDC, 22, 16⟩
def F.CAN_TDC_TDCO : Fld := ⟨R.CAN_TDC, 6, 0⟩
def F.CAN_STATUS_STATE : Fld := ⟨R.CAN_STATUS, 31, 30⟩
def F.CAN_STATUS_PAIR_QUIET : Fld := ⟨R.CAN_STATUS, 29, 29⟩
def F.CAN_STATUS_TDC_SAT : Fld := ⟨R.CAN_STATUS, 28, 28⟩
def F.CAN_STATUS_TDCV : Fld := ⟨R.CAN_STATUS, 27, 21⟩
def F.CAN_STATUS_TEC : Fld := ⟨R.CAN_STATUS, 16, 8⟩
def F.CAN_STATUS_REC : Fld := ⟨R.CAN_STATUS, 7, 0⟩
def F.CAN_ERR_ERR_NEW : Fld := ⟨R.CAN_ERR, 31, 31⟩
def F.CAN_ERR_CFG_REJECT : Fld := ⟨R.CAN_ERR, 30, 30⟩
def F.CAN_ERR_DLEC : Fld := ⟨R.CAN_ERR, 26, 24⟩
def F.CAN_ERR_LEC : Fld := ⟨R.CAN_ERR, 18, 16⟩
def F.CAN_CMD_RECOVER : Fld := ⟨R.CAN_CMD, 31, 31⟩
def F.CAN_QSTAT_QB_DEPTH : Fld := ⟨R.CAN_QSTAT, 23, 16⟩
def F.CAN_QSTAT_QA_DEPTH : Fld := ⟨R.CAN_QSTAT, 7, 0⟩
def F.FILT_MATCH_VALID : Fld := ⟨R.FILT_MATCH, 31, 31⟩
def F.FILT_MATCH_QUEUE : Fld := ⟨R.FILT_MATCH, 30, 29⟩
def F.FILT_MATCH_ID : Fld := ⟨R.FILT_MATCH, 28, 0⟩
def F.FILT_MASK_STACKS : Fld := ⟨R.FILT_MASK, 31, 31⟩
def F.FILT_MASK_IDE : Fld := ⟨R.FILT_MASK, 30, 30⟩
def F.FILT_MASK_XLF : Fld := ⟨R.FILT_MASK, 29, 29⟩
def F.FILT_MASK_MASK : Fld := ⟨R.FILT_MASK, 28, 0⟩
def F.FOLIO_CFG_VALID : Fld := ⟨R.FOLIO_CFG, 31, 31⟩
def F.FOLIO_CFG_SOURCE : Fld := ⟨R.FOLIO_CFG, 30, 29⟩
def F.FOLIO_CFG_SRC_ID : Fld := ⟨R.FOLIO_CFG, 27, 16⟩
def F.FOLIO_CFG_EXPIRE : Fld := ⟨R.FOLIO_CFG, 15, 8⟩
def F.FOLIO_STAT_STATE : Fld := ⟨R.FOLIO_STAT, 31, 29⟩
def F.FOLIO_STAT_COLLISIONS : Fld := ⟨R.FOLIO_STAT, 25, 24⟩
def F.FOLIO_STAT_LAST_CODE : Fld := ⟨R.FOLIO_STAT, 7, 0⟩
def F.LIN_CFG_ENABLE : Fld := ⟨R.LIN_CFG, 31, 31⟩
def F.LIN_CFG_ROLE : Fld := ⟨R.LIN_CFG, 30, 30⟩
def F.LIN_CFG_BREAK : Fld := ⟨R.LIN_CFG, 29, 27⟩
def F.LIN_CFG_BAUD : Fld := ⟨R.LIN_CFG, 14, 0⟩
def F.LIN_SCHED_RUN : Fld := ⟨R.LIN_SCHED, 31, 31⟩
def F.LIN_SCHED_ACTIVE : Fld := ⟨R.LIN_SCHED, 17, 16⟩
def F.LIN_SCHED_REQUEST : Fld := ⟨R.LIN_SCHED, 9, 8⟩
def F.LIN_PUB_VALID : Fld := ⟨R.LIN_PUB, 31, 31⟩
def F.LIN_PUB_QUEUE : Fld := ⟨R.LIN_PUB, 11, 0⟩
def F.LIN_RESPERR_VALID : Fld := ⟨R.LIN_RESPERR, 31, 31⟩
def F.LIN_RESPERR_FRAME : Fld := ⟨R.LIN_RESPERR, 13, 8⟩
def F.LIN_RESPERR_BIT : Fld := ⟨R.LIN_RESPERR, 5, 0⟩
def F.LIN_STATUS_STATE : Fld := ⟨R.LIN_STATUS, 31, 30⟩
def F.LIN_STATUS_ENTRY : Fld := ⟨R.LIN_STATUS, 23, 16⟩
def F.LIN_TABLE_VALID : Fld := ⟨R.LIN_TABLE, 31, 31⟩
def F.LIN_TABLE_FIRST : Fld := ⟨R.LIN_TABLE, 23, 16⟩
def F.LIN_TABLE_COUNT : Fld := ⟨R.LIN_TABLE, 8, 0⟩
def F.LIN_ENTRY_KIND : Fld := ⟨R.LIN_ENTRY, 31, 29⟩
def F.LIN_ENTRY_RESOLVE : Fld := ⟨R.LIN_ENTRY, 23, 22⟩
def F.LIN_ENTRY_FRAME : Fld := ⟨R.LIN_ENTRY, 21, 16⟩
def F.LIN_ENTRY_SLOT : Fld := ⟨R.LIN_ENTRY, 15, 0⟩
def F.LIN_FRAME_ROLE : Fld := ⟨R.LIN_FRAME, 31, 30⟩
def F.LIN_FRAME_ENHANCED : Fld := ⟨R.LIN_FRAME, 29, 29⟩
def F.LIN_FRAME_EVENT : Fld := ⟨R.LIN_FRAME, 28, 28⟩
def F.LIN_FRAME_SPORADIC : Fld := ⟨R.LIN_FRAME, 27, 27⟩
def F.LIN_FRAME_LENGTH : Fld := ⟨R.LIN_FRAME, 23, 20⟩
def F.LIN_FRAME_GROUP : Fld := ⟨R.LIN_FRAME, 19, 16⟩
def F.LIN_FRAME_ASSOC : Fld := ⟨R.LIN_FRAME, 5, 0⟩
def F.PORT_INFO_TYPE : Fld := ⟨R.PORT_INFO, 31, 30⟩
def F.PORT_INFO_INDEX : Fld := ⟨R.PORT_INFO, 4, 0⟩
def F.PORT_CFG_ENABLE : Fld := ⟨R.PORT_CFG, 31, 31⟩
def F.PORT_CFG_MODE : Fld := ⟨R.PORT_CFG, 30, 28⟩
def F.PORT_CFG_RATE : Fld := ⟨R.PORT_CFG, 27, 25⟩
def F.PORT_CFG_PROMISC : Fld := ⟨R.PORT_CFG, 24, 24⟩
def F.PORT_CFG_BCAST : Fld := ⟨R.PORT_CFG, 23, 23⟩
def F.PORT_CFG_BAD_FCS : Fld := ⟨R.PORT_CFG, 22, 22⟩
def F.PORT_CFG_BAD_CODE : Fld := ⟨R.PORT_CFG, 21, 21⟩
def F.PORT_CFG_BAD_LONG : Fld := ⟨R.PORT_CFG, 20, 20⟩
def F.PORT_CFG_MACSEC_EN : Fld := ⟨R.PORT_CFG, 19, 19⟩
def F.PORT_CFG_OWNER : Fld := ⟨R.PORT_CFG, 18, 15⟩
def F.PORT_MAXLEN_MAX_LEN : Fld := ⟨R.PORT_MAXLEN, 13, 0⟩
def F.LINK_STATUS_UP : Fld := ⟨R.LINK_STATUS, 31, 31⟩
def F.LINK_STATUS_MISMATCH : Fld := ⟨R.LINK_STATUS, 30, 30⟩
def F.LINK_STATUS_RESOLVED : Fld := ⟨R.LINK_STATUS, 29, 27⟩
def F.LINK_STATUS_PLCA_ACTIVE : Fld := ⟨R.LINK_STATUS, 26, 26⟩
def F.LINK_STATUS_CFG_REJECT : Fld := ⟨R.LINK_STATUS, 25, 25⟩
def F.ADDR_LO_ADDR_LO : Fld := ⟨R.ADDR_LO, 31, 0⟩
def F.ADDR_HI_VALID : Fld := ⟨R.ADDR_HI, 31, 31⟩
def F.ADDR_HI_ADDR_HI : Fld := ⟨R.ADDR_HI, 15, 0⟩
def F.TC_QUEUE_VALID : Fld := ⟨R.TC_QUEUE, 31, 31⟩
def F.TC_QUEUE_CBS_EN : Fld := ⟨R.TC_QUEUE, 30, 30⟩
def F.TC_QUEUE_QUEUE : Fld := ⟨R.TC_QUEUE, 11, 0⟩
def F.TC_SLOPE_IDLE_SLOPE : Fld := ⟨R.TC_SLOPE, 23, 0⟩
def F.PLCA_CFG_PLCA_EN : Fld := ⟨R.PLCA_CFG, 31, 31⟩
def F.PLCA_CFG_NODE_ID : Fld := ⟨R.PLCA_CFG, 28, 24⟩
def F.PLCA_CFG_NODE_COUNT : Fld := ⟨R.PLCA_CFG, 21, 16⟩
def F.PLCA_CFG_TO_TIMER : Fld := ⟨R.PLCA_CFG, 15, 8⟩
def F.PLCA_CFG_MAX_BC : Fld := ⟨R.PLCA_CFG, 7, 0⟩
def F.PLCA_BURST_BURST_TMR : Fld := ⟨R.PLCA_BURST, 7, 0⟩
def F.SECY_CFG_VALIDATE : Fld := ⟨R.SECY_CFG, 31, 30⟩
def F.SECY_CFG_REPLAY : Fld := ⟨R.SECY_CFG, 29, 29⟩
def F.SECY_CFG_PROTECT : Fld := ⟨R.SECY_CFG, 28, 28⟩
def F.SECY_CFG_ENCRYPT : Fld := ⟨R.SECY_CFG, 27, 27⟩
def F.SECY_CFG_OFFSET : Fld := ⟨R.SECY_CFG, 26, 25⟩
def F.SECY_CFG_SUITE : Fld := ⟨R.SECY_CFG, 24, 23⟩
def F.SECY_CFG_SCI_EN : Fld := ⟨R.SECY_CFG, 22, 22⟩
def F.SECY_CFG_ES : Fld := ⟨R.SECY_CFG, 21, 21⟩
def F.SECY_CFG_SCB : Fld := ⟨R.SECY_CFG, 20, 20⟩
def F.SECY_CFG_TX_AN : Fld := ⟨R.SECY_CFG, 19, 18⟩
def F.SECY_WINDOW_WINDOW : Fld := ⟨R.SECY_WINDOW, 31, 0⟩
def F.SECY_EXEMPT_TYPE1 : Fld := ⟨R.SECY_EXEMPT, 31, 16⟩
def F.SECY_EXEMPT_TYPE0 : Fld := ⟨R.SECY_EXEMPT, 15, 0⟩
def F.TX_SCI_LO_SCI : Fld := ⟨R.TX_SCI_LO, 31, 0⟩
def F.TX_SCI_HI_SCI : Fld := ⟨R.TX_SCI_HI, 31, 0⟩
def F.TXSA_CTL_VALID : Fld := ⟨R.TXSA_CTL, 31, 31⟩
def F.TXSA_CTL_EXHAUSTED : Fld := ⟨R.TXSA_CTL, 30, 30⟩
def F.TXSA_CTL_KEY_HANDLE : Fld := ⟨R.TXSA_CTL, 15, 0⟩
def F.TXSA_PN_LO_V : Fld := ⟨R.TXSA_PN_LO, 31, 0⟩
def F.TXSA_PN_HI_V : Fld := ⟨R.TXSA_PN_HI, 31, 0⟩
def F.TXSA_SSCI_V : Fld := ⟨R.TXSA_SSCI, 31, 0⟩
def F.TXSA_SALT0_V : Fld := ⟨R.TXSA_SALT0, 31, 0⟩
def F.TXSA_SALT1_V : Fld := ⟨R.TXSA_SALT1, 31, 0⟩
def F.TXSA_SALT2_V : Fld := ⟨R.TXSA_SALT2, 31, 0⟩
def F.RXSA_CTL_VALID : Fld := ⟨R.RXSA_CTL, 31, 31⟩
def F.RXSA_CTL_EXHAUSTED : Fld := ⟨R.RXSA_CTL, 30, 30⟩
def F.RXSA_CTL_KEY_HANDLE : Fld := ⟨R.RXSA_CTL, 15, 0⟩
def F.RXSA_PN_LO_V : Fld := ⟨R.RXSA_PN_LO, 31, 0⟩
def F.RXSA_PN_HI_V : Fld := ⟨R.RXSA_PN_HI, 31, 0⟩
def F.RXSA_SSCI_V : Fld := ⟨R.RXSA_SSCI, 31, 0⟩
def F.RXSA_SALT0_V : Fld := ⟨R.RXSA_SALT0, 31, 0⟩
def F.RXSA_SALT1_V : Fld := ⟨R.RXSA_SALT1, 31, 0⟩
def F.RXSA_SALT2_V : Fld := ⟨R.RXSA_SALT2, 31, 0⟩
def F.RXSC_SCI_LO_SCI : Fld := ⟨R.RXSC_SCI_LO, 31, 0⟩
def F.RXSC_SCI_HI_SCI : Fld := ⟨R.RXSC_SCI_HI, 31, 0⟩
def F.RXSC_CTL_VALID : Fld := ⟨R.RXSC_CTL, 31, 31⟩
def F.SF_CTL_VALID : Fld := ⟨R.SF_CTL, 31, 31⟩
def F.SF_CTL_BLOCK_OVERSIZE : Fld := ⟨R.SF_CTL, 30, 30⟩
def F.SF_CTL_BLOCKED : Fld := ⟨R.SF_CTL, 29, 29⟩
def F.SF_CTL_RESOURCE : Fld := ⟨R.SF_CTL, 28, 21⟩
def F.SF_CTL_METER_EN : Fld := ⟨R.SF_CTL, 20, 20⟩
def F.SF_CTL_METER : Fld := ⟨R.SF_CTL, 19, 11⟩
def F.SF_MATCH_SHELFMARK : Fld := ⟨R.SF_MATCH, 31, 16⟩
def F.SF_MATCH_MAX_SDU : Fld := ⟨R.SF_MATCH, 13, 0⟩
def F.MTR_CIR_CF : Fld := ⟨R.MTR_CIR, 31, 31⟩
def F.MTR_CIR_DROP_YELLOW : Fld := ⟨R.MTR_CIR, 30, 30⟩
def F.MTR_CIR_MARK_RED : Fld := ⟨R.MTR_CIR, 29, 29⟩
def F.MTR_CIR_CIR : Fld := ⟨R.MTR_CIR, 23, 0⟩
def F.MTR_CBS_CBS : Fld := ⟨R.MTR_CBS, 23, 0⟩
def F.MTR_EIR_EIR : Fld := ⟨R.MTR_EIR, 23, 0⟩
def F.MTR_EBS_EBS : Fld := ⟨R.MTR_EBS, 23, 0⟩
def F.PD_INFO_CHANNELS : Fld := ⟨R.PD_INFO, 31, 24⟩
def F.PD_INFO_DIE : Fld := ⟨R.PD_INFO, 0, 0⟩
def F.PD_CFG_HOLD_A : Fld := ⟨R.PD_CFG, 31, 21⟩
def F.PD_CFG_HOLD_B : Fld := ⟨R.PD_CFG, 20, 10⟩
def F.PD_CFG_EVT_TENANT : Fld := ⟨R.PD_CFG, 9, 6⟩
def F.PD_BUDGET_BUDGET_MW : Fld := ⟨R.PD_BUDGET, 31, 19⟩
def F.PD_BUDGET_SAFETY_MW : Fld := ⟨R.PD_BUDGET, 18, 6⟩
def F.PD_THERMAL_THROTTLE_C : Fld := ⟨R.PD_THERMAL, 31, 24⟩
def F.PD_THERMAL_RELEASE_C : Fld := ⟨R.PD_THERMAL, 23, 16⟩
def F.PD_BRIDGE_PAIR1 : Fld := ⟨R.PD_BRIDGE, 31, 31⟩
def F.PD_BRIDGE_PAIR0 : Fld := ⟨R.PD_BRIDGE, 30, 30⟩
def F.PD_BRIDGE_DEAD : Fld := ⟨R.PD_BRIDGE, 23, 16⟩
def F.PD_STATUS_CRANK : Fld := ⟨R.PD_STATUS, 31, 31⟩
def F.PD_STATUS_LOW_SEEN : Fld := ⟨R.PD_STATUS, 30, 30⟩
def F.PD_STATUS_THROTTLING : Fld := ⟨R.PD_STATUS, 29, 29⟩
def F.PD_STATUS_CFG_REJECT : Fld := ⟨R.PD_STATUS, 28, 28⟩
def F.PD_STATUS_GRANTED_MW : Fld := ⟨R.PD_STATUS, 12, 0⟩
def F.PD_SENSE_VBAT : Fld := ⟨R.PD_SENSE, 31, 16⟩
def F.PD_SENSE_TEMP : Fld := ⟨R.PD_SENSE, 15, 8⟩
def F.PWM_BASE_ENABLE : Fld := ⟨R.PWM_BASE, 31, 31⟩
def F.PWM_BASE_PERIOD : Fld := ⟨R.PWM_BASE, 20, 0⟩
def F.CH_CFG_VALID : Fld := ⟨R.CH_CFG, 31, 31⟩
def F.CH_CFG_CLASS : Fld := ⟨R.CH_CFG, 30, 29⟩
def F.CH_CFG_SAFE : Fld := ⟨R.CH_CFG, 28, 27⟩
def F.CH_CFG_HOLD_SEL : Fld := ⟨R.CH_CFG, 26, 26⟩
def F.CH_CFG_PRIO : Fld := ⟨R.CH_CFG, 25, 22⟩
def F.CH_CFG_OWNER : Fld := ⟨R.CH_CFG, 21, 18⟩
def F.CH_CFG_HOST_EN : Fld := ⟨R.CH_CFG, 17, 17⟩
def F.CH_CFG_PROG_EN : Fld := ⟨R.CH_CFG, 16, 16⟩
def F.CH_CFG_RETRY : Fld := ⟨R.CH_CFG, 15, 13⟩
def F.CH_CFG_BASE : Fld := ⟨R.CH_CFG, 12, 11⟩
def F.CH_CFG_OFF_DIAG : Fld := ⟨R.CH_CFG, 10, 10⟩
def F.CH_LOAD_RATED_MA : Fld := ⟨R.CH_LOAD, 31, 16⟩
def F.CH_LOAD_EXTRA_MW : Fld := ⟨R.CH_LOAD, 15, 8⟩
def F.CH_LOAD_INRUSH : Fld := ⟨R.CH_LOAD, 7, 0⟩
def F.CH_PROT_OC_LIMIT : Fld := ⟨R.CH_PROT, 31, 23⟩
def F.CH_PROT_OC_TIME : Fld := ⟨R.CH_PROT, 22, 15⟩
def F.CH_PROT_OPEN_MA : Fld := ⟨R.CH_PROT, 14, 7⟩
def F.CH_PROT_BLANK : Fld := ⟨R.CH_PROT, 6, 0⟩
def F.CH_RETRY_RETRY_DELAY : Fld := ⟨R.CH_RETRY, 31, 16⟩
def F.CH_STATE_STATE : Fld := ⟨R.CH_STATE, 31, 29⟩
def F.CH_STATE_DUTY : Fld := ⟨R.CH_STATE, 27, 16⟩
def F.CH_STATE_PHASE : Fld := ⟨R.CH_STATE, 15, 8⟩
def F.CH_STATE_STATUS : Fld := ⟨R.CH_STATE, 7, 0⟩
def F.CH_CURRENT_PEAK : Fld := ⟨R.CH_CURRENT, 31, 16⟩
def F.CH_CURRENT_MEAN : Fld := ⟨R.CH_CURRENT, 15, 0⟩
def F.CH_ENERGY_RETRY_LEFT : Fld := ⟨R.CH_ENERGY, 31, 29⟩
def F.CH_ENERGY_ACCOUNT : Fld := ⟨R.CH_ENERGY, 23, 0⟩
def F.CH_CAL_GAIN : Fld := ⟨R.CH_CAL, 31, 16⟩
def F.CH_CAL_OFFSET : Fld := ⟨R.CH_CAL, 15, 0⟩
def F.IN_INFO_INPUTS : Fld := ⟨R.IN_INFO, 31, 24⟩
def F.IN_INFO_WAKE_INPUTS : Fld := ⟨R.IN_INFO, 23, 16⟩
def F.IN_DIE_WET_PERIOD : Fld := ⟨R.IN_DIE, 31, 30⟩
def F.IN_DIE_EVT_TENANT : Fld := ⟨R.IN_DIE, 29, 26⟩
def F.IN_DIE_STATIC1_EN : Fld := ⟨R.IN_DIE, 25, 25⟩
def F.IN_DIE_STATIC1 : Fld := ⟨R.IN_DIE, 24, 20⟩
def F.IN_DIE_STATIC0_EN : Fld := ⟨R.IN_DIE, 19, 19⟩
def F.IN_DIE_STATIC0 : Fld := ⟨R.IN_DIE, 18, 14⟩
def F.SW_STATE_CODE : Fld := ⟨R.SW_STATE, 31, 0⟩
def F.SW_CFG_VALID : Fld := ⟨R.SW_CFG, 31, 31⟩
def F.SW_CFG_PULL : Fld := ⟨R.SW_CFG, 30, 30⟩
def F.SW_CFG_INVERT : Fld := ⟨R.SW_CFG, 29, 29⟩
def F.SW_CFG_THR : Fld := ⟨R.SW_CFG, 28, 27⟩
def F.SW_CFG_WET : Fld := ⟨R.SW_CFG, 26, 25⟩
def F.SW_CFG_ROLE : Fld := ⟨R.SW_CFG, 24, 23⟩
def F.SW_CFG_NOTIFY : Fld := ⟨R.SW_CFG, 22, 22⟩
def F.SW_CFG_DEBOUNCE : Fld := ⟨R.SW_CFG, 21, 14⟩
def F.SW_GUARD_STUCK_T : Fld := ⟨R.SW_GUARD, 31, 16⟩
def F.SW_GUARD_CHAT_EDGES : Fld := ⟨R.SW_GUARD, 15, 8⟩
def F.SW_GUARD_CHAT_WIN : Fld := ⟨R.SW_GUARD, 7, 0⟩
def F.PARK_CFG_SLEEP_EN : Fld := ⟨R.PARK_CFG, 31, 31⟩
def F.PARK_CFG_MODE : Fld := ⟨R.PARK_CFG, 30, 30⟩
def F.PARK_CFG_OUT_CHECK : Fld := ⟨R.PARK_CFG, 29, 29⟩
def F.PARK_CFG_SV_WORD : Fld := ⟨R.PARK_CFG, 28, 16⟩
def F.PARK_CFG_WAKE_TENANT : Fld := ⟨R.PARK_CFG, 15, 12⟩
def F.PARK_GUARD_GUARD : Fld := ⟨R.PARK_GUARD, 10, 0⟩
def F.PARK_TIMER_TIMER_S : Fld := ⟨R.PARK_TIMER, 23, 0⟩
def F.PARK_FALSE_FALSE_WIN : Fld := ⟨R.PARK_FALSE, 31, 16⟩
def F.PARK_FALSE_FALSE_MAX : Fld := ⟨R.PARK_FALSE, 7, 0⟩
def F.PARK_STATUS_STATE : Fld := ⟨R.PARK_STATUS, 31, 30⟩
def F.PARK_STATUS_LAST_ABORT : Fld := ⟨R.PARK_STATUS, 23, 16⟩
def F.WAKE_FIRST_SOURCE : Fld := ⟨R.WAKE_FIRST, 31, 24⟩
def F.WAKE_FIRST_INDEX : Fld := ⟨R.WAKE_FIRST, 23, 16⟩
def F.WAKE_TIME_MS : Fld := ⟨R.WAKE_TIME, 31, 0⟩
def F.WAKE_IN_SW : Fld := ⟨R.WAKE_IN, 31, 0⟩
def F.WAKE_BUS_LIN : Fld := ⟨R.WAKE_BUS, 31, 16⟩
def F.WAKE_BUS_CANFEC : Fld := ⟨R.WAKE_BUS, 15, 8⟩
def F.WAKE_BUS_CAN : Fld := ⟨R.WAKE_BUS, 7, 0⟩
def F.WAKE_MISC_TIMER : Fld := ⟨R.WAKE_MISC, 0, 0⟩
def F.WAKE_DIS_IN_SW : Fld := ⟨R.WAKE_DIS_IN, 31, 0⟩
def F.WAKE_DIS_BUS_LIN : Fld := ⟨R.WAKE_DIS_BUS, 31, 16⟩
def F.WAKE_DIS_BUS_CANFEC : Fld := ⟨R.WAKE_DIS_BUS, 15, 8⟩
def F.WAKE_DIS_BUS_CAN : Fld := ⟨R.WAKE_DIS_BUS, 7, 0⟩
def F.SWK_CTL_WAKE_MODE : Fld := ⟨R.SWK_CTL, 31, 30⟩
def F.SWK_CTL_IDE : Fld := ⟨R.SWK_CTL, 29, 29⟩
def F.SWK_CTL_DATA_EN : Fld := ⟨R.SWK_CTL, 28, 28⟩
def F.SWK_CTL_FD_TOL : Fld := ⟨R.SWK_CTL, 27, 27⟩
def F.SWK_CTL_DLC : Fld := ⟨R.SWK_CTL, 26, 23⟩
def F.SWK_ID_ID : Fld := ⟨R.SWK_ID, 28, 0⟩
def F.SWK_MASK_MASK : Fld := ⟨R.SWK_MASK, 28, 0⟩
def F.SWK_DATA_LO_DATA : Fld := ⟨R.SWK_DATA_LO, 31, 0⟩
def F.SWK_DATA_HI_DATA : Fld := ⟨R.SWK_DATA_HI, 31, 0⟩
def F.SWK_FEC_FEC : Fld := ⟨R.SWK_FEC, 5, 0⟩
def F.LIN_WAKE_DETECT : Fld := ⟨R.LIN_WAKE, 31, 31⟩
def F.LIN_WAKE_SEND : Fld := ⟨R.LIN_WAKE, 30, 30⟩
def F.CQ_CFG_VALID : Fld := ⟨R.CQ_CFG, 31, 31⟩
def F.CQ_CFG_CLASS : Fld := ⟨R.CQ_CFG, 30, 29⟩
def F.CQ_CFG_PIPE : Fld := ⟨R.CQ_CFG, 28, 27⟩
def F.CQ_CFG_SIZE_LOG2 : Fld := ⟨R.CQ_CFG, 26, 22⟩
def F.CQ_CFG_CQ : Fld := ⟨R.CQ_CFG, 21, 16⟩
def F.CQ_CFG_FETCH_MAX : Fld := ⟨R.CQ_CFG, 15, 8⟩
def F.CQ_BASE_LO_BASE : Fld := ⟨R.CQ_BASE_LO, 31, 12⟩
def F.CQ_BASE_HI_BASE : Fld := ⟨R.CQ_BASE_HI, 31, 0⟩
def F.CQ_UNWRAP_VALID : Fld := ⟨R.CQ_UNWRAP, 31, 31⟩
def F.CQ_UNWRAP_LAST : Fld := ⟨R.CQ_UNWRAP, 24, 16⟩
def F.CQ_UNWRAP_FIRST : Fld := ⟨R.CQ_UNWRAP, 8, 0⟩
def F.TGRANT_SLOTS : Fld := ⟨R.TGRANT, 31, 0⟩
def F.EGRANT_SLOTS : Fld := ⟨R.EGRANT, 31, 0⟩
def F.SR_INFO_LIFECYCLE : Fld := ⟨R.SR_INFO, 31, 29⟩
def F.SR_INFO_SLOTS : Fld := ⟨R.SR_INFO, 9, 0⟩
def F.SR_ID_ID : Fld := ⟨R.SR_ID, 31, 0⟩
def F.SR_COUNTER_COUNT : Fld := ⟨R.SR_COUNTER, 31, 0⟩
def F.SR_PAIR_COUNTER_COUNT : Fld := ⟨R.SR_PAIR_COUNTER, 31, 0⟩
def F.SR_CMD_GO : Fld := ⟨R.SR_CMD, 31, 31⟩
def F.SR_CMD_LENGTH : Fld := ⟨R.SR_CMD, 24, 16⟩
def F.SR_CMD_PAIR : Fld := ⟨R.SR_CMD, 8, 8⟩
def F.SR_CMD_CMD : Fld := ⟨R.SR_CMD, 3, 0⟩
def F.SR_STATUS_BUSY : Fld := ⟨R.SR_STATUS, 31, 31⟩
def F.SR_STATUS_DONE : Fld := ⟨R.SR_STATUS, 30, 30⟩
def F.SR_STATUS_CODE : Fld := ⟨R.SR_STATUS, 23, 16⟩
def F.SR_STATUS_REASON : Fld := ⟨R.SR_STATUS, 15, 8⟩
def F.SR_STATUS_REPLY_LEN : Fld := ⟨R.SR_STATUS, 7, 0⟩
def F.SR_COMMIT_LO_ACCESSION : Fld := ⟨R.SR_COMMIT_LO, 31, 0⟩
def F.SR_COMMIT_HI_ACCESSION : Fld := ⟨R.SR_COMMIT_HI, 31, 0⟩
def F.SR_SLOT_SEL_SLOT : Fld := ⟨R.SR_SLOT_SEL, 8, 0⟩
def F.SR_SLOT_ATTR_TYPE : Fld := ⟨R.SR_SLOT_ATTR, 31, 24⟩
def F.SR_SLOT_ATTR_SFLAGS : Fld := ⟨R.SR_SLOT_ATTR, 23, 16⟩
def F.SR_SLOT_ATTR_USAGE : Fld := ⟨R.SR_SLOT_ATTR, 15, 0⟩
def F.SR_SLOT_GEN_GEN : Fld := ⟨R.SR_SLOT_GEN, 31, 0⟩
def F.SR_MSG_DATA : Fld := ⟨R.SR_MSG, 31, 0⟩
def F.SR_REPLY_DATA : Fld := ⟨R.SR_REPLY, 31, 0⟩
def F.SR_CFG_PORT_EN : Fld := ⟨R.SR_CFG, 31, 28⟩
def F.SR_CFG_EVT_TENANT : Fld := ⟨R.SR_CFG, 27, 24⟩
def F.SR_CFG_RETAIN : Fld := ⟨R.SR_CFG, 23, 14⟩
def F.SR_CFG_PAIR_KEK : Fld := ⟨R.SR_CFG, 8, 0⟩
def F.FAULT_CFG_WD_LIMIT : Fld := ⟨R.FAULT_CFG, 31, 28⟩
def F.FAULT_CFG_WD_WINDOW : Fld := ⟨R.FAULT_CFG, 27, 16⟩
def F.FAULT_CFG_FAULT_TENANT : Fld := ⟨R.FAULT_CFG, 15, 12⟩
def F.FAULT_CFG_NOTIFY : Fld := ⟨R.FAULT_CFG, 11, 6⟩
def F.FAULT_STATUS_STATE : Fld := ⟨R.FAULT_STATUS, 31, 30⟩
def F.FAULT_STATUS_ATTEMPTS : Fld := ⟨R.FAULT_STATUS, 29, 26⟩
def F.FAULT_STATUS_LAST_PART : Fld := ⟨R.FAULT_STATUS, 15, 8⟩
def F.FAULT_STATUS_LAST_CAUSE : Fld := ⟨R.FAULT_STATUS, 7, 0⟩
def F.FAULT_LAST_LO_ACC : Fld := ⟨R.FAULT_LAST_LO, 31, 0⟩
def F.FAULT_LAST_HI_ACC : Fld := ⟨R.FAULT_LAST_HI, 31, 0⟩
def F.FAULT_RESTART_RESTART_US : Fld := ⟨R.FAULT_RESTART, 15, 0⟩
def F.FAULT_TOTAL_WD_TOTAL : Fld := ⟨R.FAULT_TOTAL, 31, 0⟩
def F.FAULT_INJECT_GO : Fld := ⟨R.FAULT_INJECT, 31, 31⟩
def F.FAULT_INJECT_KIND : Fld := ⟨R.FAULT_INJECT, 30, 29⟩
def F.FAULT_INJECT_PART : Fld := ⟨R.FAULT_INJECT, 15, 8⟩
def F.PAIR_CFG_ENABLE : Fld := ⟨R.PAIR_CFG, 31, 31⟩
def F.PAIR_CFG_GAP_FILL : Fld := ⟨R.PAIR_CFG, 30, 30⟩
def F.PAIR_CFG_EVT_TENANT : Fld := ⟨R.PAIR_CFG, 29, 26⟩
def F.PAIR_CFG_SOLO_WAIT : Fld := ⟨R.PAIR_CFG, 25, 16⟩
def F.PAIR_STBY_TX_PORTS : Fld := ⟨R.PAIR_STBY_TX, 19, 0⟩
def F.PAIR_STATUS_STATE : Fld := ⟨R.PAIR_STATUS, 31, 29⟩
def F.PAIR_STATUS_DRIVE : Fld := ⟨R.PAIR_STATUS, 28, 28⟩
def F.PAIR_STATUS_SIDE : Fld := ⟨R.PAIR_STATUS, 27, 27⟩
def F.PAIR_STATUS_LINK_UP : Fld := ⟨R.PAIR_STATUS, 26, 26⟩
def F.PAIR_STATUS_HB_IN : Fld := ⟨R.PAIR_STATUS, 25, 24⟩
def F.PAIR_STATUS_HB_FAULT : Fld := ⟨R.PAIR_STATUS, 23, 23⟩
def F.PAIR_STATUS_BARRED : Fld := ⟨R.PAIR_STATUS, 22, 22⟩
def F.PAIR_STATUS_LAST_CHANGE : Fld := ⟨R.PAIR_STATUS, 15, 8⟩
def F.PAIR_PEER_ID_ID : Fld := ⟨R.PAIR_PEER_ID, 31, 0⟩
def F.PAIR_LINK_LANE0_OK : Fld := ⟨R.PAIR_LINK, 31, 31⟩
def F.PAIR_LINK_LANE1_OK : Fld := ⟨R.PAIR_LINK, 30, 30⟩
def F.PAIR_LINK_LATENCY_NS : Fld := ⟨R.PAIR_LINK, 15, 0⟩
def F.PAIR_DELTA_BYTES : Fld := ⟨R.PAIR_DELTA, 19, 0⟩
def F.PAIR_CAP_BYTES : Fld := ⟨R.PAIR_CAP, 19, 0⟩
def F.PAIR_TAKEOVER_LO_TRANSIT : Fld := ⟨R.PAIR_TAKEOVER_LO, 31, 0⟩
def F.PAIR_TAKEOVER_HI_TRANSIT : Fld := ⟨R.PAIR_TAKEOVER_HI, 31, 0⟩
def F.BRIDGE_HOLD_HOST_HOLD : Fld := ⟨R.BRIDGE_HOLD, 15, 8⟩
def F.BRIDGE_HOLD_INTERNAL_HOLD : Fld := ⟨R.BRIDGE_HOLD, 7, 0⟩
def F.BRIDGE_TIMER_DMA_LIMIT : Fld := ⟨R.BRIDGE_TIMER, 31, 16⟩
def F.BRIDGE_TIMER_COLLECT_LIMIT : Fld := ⟨R.BRIDGE_TIMER, 9, 0⟩
def F.GATE_SEL_PART : Fld := ⟨R.GATE_SEL, 7, 0⟩
def F.GATE_STATE_STATE : Fld := ⟨R.GATE_STATE, 31, 30⟩
def F.GATE_STATE_EPOCH : Fld := ⟨R.GATE_STATE, 23, 16⟩
def F.GATE_STATE_WAITING : Fld := ⟨R.GATE_STATE, 15, 0⟩
def F.BRIDGE_LAST_NEW : Fld := ⟨R.BRIDGE_LAST, 31, 31⟩
def F.BRIDGE_LAST_CODE : Fld := ⟨R.BRIDGE_LAST, 23, 16⟩
def F.BRIDGE_LAST_PART : Fld := ⟨R.BRIDGE_LAST, 15, 8⟩
def F.LS_CFG_EVT_TENANT : Fld := ⟨R.LS_CFG, 7, 4⟩
def F.LS_CFG_PORT_EN : Fld := ⟨R.LS_CFG, 3, 0⟩
def F.LS_CMD_GO : Fld := ⟨R.LS_CMD, 31, 31⟩
def F.LS_CMD_PAIR : Fld := ⟨R.LS_CMD, 30, 30⟩
def F.LS_CMD_CARRY : Fld := ⟨R.LS_CMD, 29, 29⟩
def F.LS_CMD_WITH_ALMANAC : Fld := ⟨R.LS_CMD, 28, 28⟩
def F.LS_CMD_TARGET : Fld := ⟨R.LS_CMD, 23, 16⟩
def F.LS_CMD_KIND : Fld := ⟨R.LS_CMD, 15, 8⟩
def F.LS_CMD_OP : Fld := ⟨R.LS_CMD, 3, 0⟩
def F.LS_LEN_BYTES : Fld := ⟨R.LS_LEN, 19, 0⟩
def F.LS_ADDR_LO_ADDR : Fld := ⟨R.LS_ADDR_LO, 31, 6⟩
def F.LS_ADDR_HI_ADDR : Fld := ⟨R.LS_ADDR_HI, 31, 0⟩
def F.LS_MOVE_VALID : Fld := ⟨R.LS_MOVE, 31, 31⟩
def F.LS_MOVE_SOURCE : Fld := ⟨R.LS_MOVE, 12, 8⟩
def F.LS_MOVE_DEST : Fld := ⟨R.LS_MOVE, 4, 0⟩
def F.LS_STATUS_BUSY : Fld := ⟨R.LS_STATUS, 31, 31⟩
def F.LS_STATUS_DONE : Fld := ⟨R.LS_STATUS, 30, 30⟩
def F.LS_STATUS_CODE : Fld := ⟨R.LS_STATUS, 23, 16⟩
def F.LS_STATUS_REASON : Fld := ⟨R.LS_STATUS, 15, 8⟩
def F.LS_APPLY_LO_TRANSIT : Fld := ⟨R.LS_APPLY_LO, 31, 0⟩
def F.LS_APPLY_HI_TRANSIT : Fld := ⟨R.LS_APPLY_HI, 31, 0⟩
def F.LS_SLOT_SEL_TARGET : Fld := ⟨R.LS_SLOT_SEL, 23, 16⟩
def F.LS_SLOT_SEL_KIND : Fld := ⟨R.LS_SLOT_SEL, 15, 8⟩
def F.LS_SLOT_INFO_ACTIVE : Fld := ⟨R.LS_SLOT_INFO, 31, 31⟩
def F.LS_SLOT_INFO_STANDBY_FULL : Fld := ⟨R.LS_SLOT_INFO, 30, 30⟩
def F.LS_SLOT_INFO_VERIFIED : Fld := ⟨R.LS_SLOT_INFO, 29, 29⟩
def F.LS_SLOT_INFO_SPARE : Fld := ⟨R.LS_SLOT_INFO, 28, 28⟩
def F.LS_SLOT_INFO_QUIESCED : Fld := ⟨R.LS_SLOT_INFO, 27, 27⟩
def F.LS_SLOT_VER0_VERSION : Fld := ⟨R.LS_SLOT_VER0, 31, 0⟩
def F.LS_SLOT_VER1_VERSION : Fld := ⟨R.LS_SLOT_VER1, 31, 0⟩
def F.SEAL_DROPS_COUNT : Fld := ⟨R.SEAL_DROPS, 31, 0⟩
def F.TS_LOST_COUNT : Fld := ⟨R.TS_LOST, 31, 0⟩
def F.TX_LATE_COUNT : Fld := ⟨R.TX_LATE, 31, 0⟩
def F.TX_LATE_DROP_COUNT : Fld := ⟨R.TX_LATE_DROP, 31, 0⟩
def F.TS_INSERT_DROP_COUNT : Fld := ⟨R.TS_INSERT_DROP, 31, 0⟩
def F.FEED_REJECT_TD_COUNT : Fld := ⟨R.FEED_REJECT_TD, 31, 0⟩
def F.JUMPS_REFUSED_COUNT : Fld := ⟨R.JUMPS_REFUSED, 31, 0⟩
def F.OCCULTATIONS_COUNT : Fld := ⟨R.OCCULTATIONS, 31, 0⟩
def F.STEPS_COUNT : Fld := ⟨R.STEPS, 31, 0⟩
def F.RING_STARVED_COUNT : Fld := ⟨R.RING_STARVED, 31, 0⟩
def F.EVT_LOST_COUNT : Fld := ⟨R.EVT_LOST, 31, 0⟩
def F.DB_FOREIGN_COUNT : Fld := ⟨R.DB_FOREIGN, 31, 0⟩
def F.WM_NOTICE_CROSSINGS : Fld := ⟨R.WM_NOTICE, 31, 16⟩
def F.WM_NOTICE_PEAK : Fld := ⟨R.WM_NOTICE, 15, 0⟩
def F.POOL_NOTICE_CROSSINGS : Fld := ⟨R.POOL_NOTICE, 31, 17⟩
def F.POOL_NOTICE_TROUGH : Fld := ⟨R.POOL_NOTICE, 16, 0⟩
def F.DROP_NOCELL_COUNT : Fld := ⟨R.DROP_NOCELL, 31, 0⟩
def F.DROP_QFULL_COUNT : Fld := ⟨R.DROP_QFULL, 31, 0⟩
def F.REC_LOST_COUNT : Fld := ⟨R.REC_LOST, 31, 0⟩
def F.MISS_COUNT : Fld := ⟨R.MISS, 31, 0⟩
def F.CLASS_DROP_COUNT : Fld := ⟨R.CLASS_DROP, 31, 0⟩
def F.SPREAD_NONE_COUNT : Fld := ⟨R.SPREAD_NONE, 31, 0⟩
def F.UNROUTED_COUNT : Fld := ⟨R.UNROUTED, 31, 0⟩
def F.ACT_FAIL_COUNT : Fld := ⟨R.ACT_FAIL, 31, 0⟩
def F.PROG_ERR_FE_COUNT : Fld := ⟨R.PROG_ERR_FE, 31, 0⟩
def F.TP_EXPIRED_COUNT : Fld := ⟨R.TP_EXPIRED, 31, 0⟩
def F.PROG_ERR_IS_COUNT : Fld := ⟨R.PROG_ERR_IS, 31, 0⟩
def F.CAN_QA_HEAD_WORD : Fld := ⟨R.CAN_QA_HEAD, 31, 0⟩
def F.CAN_QB_HEAD_WORD : Fld := ⟨R.CAN_QB_HEAD, 31, 0⟩
def F.CAN_RX_ERR_COUNT : Fld := ⟨R.CAN_RX_ERR, 31, 0⟩
def F.CAN_FILTERED_OUT_COUNT : Fld := ⟨R.CAN_FILTERED_OUT, 31, 0⟩
def F.CAN_QA_OVERRUN_COUNT : Fld := ⟨R.CAN_QA_OVERRUN, 31, 0⟩
def F.CAN_QB_OVERRUN_COUNT : Fld := ⟨R.CAN_QB_OVERRUN, 31, 0⟩
def F.CAN_XL_SKIP_COUNT : Fld := ⟨R.CAN_XL_SKIP, 31, 0⟩
def F.CAN_ARB_LOST_COUNT : Fld := ⟨R.CAN_ARB_LOST, 31, 0⟩
def F.CAN_COLLISIONS_COUNT : Fld := ⟨R.CAN_COLLISIONS, 31, 0⟩
def F.CAN_BUS_OFF_COUNT : Fld := ⟨R.CAN_BUS_OFF, 31, 0⟩
def F.CAN_CLAIM_UNKNOWN_COUNT : Fld := ⟨R.CAN_CLAIM_UNKNOWN, 31, 0⟩
def F.CAN_FEED_REJECT_COUNT : Fld := ⟨R.CAN_FEED_REJECT, 31, 0⟩
def F.LIN_NO_RESP_COUNT : Fld := ⟨R.LIN_NO_RESP, 31, 0⟩
def F.LIN_CHECKSUM_ERR_COUNT : Fld := ⟨R.LIN_CHECKSUM_ERR, 31, 0⟩
def F.LIN_PARITY_ERR_COUNT : Fld := ⟨R.LIN_PARITY_ERR, 31, 0⟩
def F.LIN_FRAMING_ERR_COUNT : Fld := ⟨R.LIN_FRAMING_ERR, 31, 0⟩
def F.LIN_BIT_ERR_COUNT : Fld := ⟨R.LIN_BIT_ERR, 31, 0⟩
def F.LIN_EVT_COLLISION_COUNT : Fld := ⟨R.LIN_EVT_COLLISION, 31, 0⟩
def F.LIN_SYNC_ERR_COUNT : Fld := ⟨R.LIN_SYNC_ERR, 31, 0⟩
def F.LIN_PUB_REJECT_COUNT : Fld := ⟨R.LIN_PUB_REJECT, 31, 0⟩
def F.RX_OK_COUNT : Fld := ⟨R.RX_OK, 31, 0⟩
def F.RX_FCS_ERR_COUNT : Fld := ⟨R.RX_FCS_ERR, 31, 0⟩
def F.RX_CODE_ERR_COUNT : Fld := ⟨R.RX_CODE_ERR, 31, 0⟩
def F.RX_RUNT_COUNT : Fld := ⟨R.RX_RUNT, 31, 0⟩
def F.RX_OVERSIZE_COUNT : Fld := ⟨R.RX_OVERSIZE, 31, 0⟩
def F.RX_ADDR_FILTERED_COUNT : Fld := ⟨R.RX_ADDR_FILTERED, 31, 0⟩
def F.RX_MAC_CONTROL_COUNT : Fld := ⟨R.RX_MAC_CONTROL, 31, 0⟩
def F.TX_OK_COUNT : Fld := ⟨R.TX_OK, 31, 0⟩
def F.TX_BAD_DROP_COUNT : Fld := ⟨R.TX_BAD_DROP, 31, 0⟩
def F.TX_TOO_LONG_COUNT : Fld := ⟨R.TX_TOO_LONG, 31, 0⟩
def F.TX_LINK_DOWN_COUNT : Fld := ⟨R.TX_LINK_DOWN, 31, 0⟩
def F.IN_OK_COUNT : Fld := ⟨R.IN_OK, 31, 0⟩
def F.IN_UNTAGGED_COUNT : Fld := ⟨R.IN_UNTAGGED, 31, 0⟩
def F.IN_NO_TAG_COUNT : Fld := ⟨R.IN_NO_TAG, 31, 0⟩
def F.IN_BAD_TAG_COUNT : Fld := ⟨R.IN_BAD_TAG, 31, 0⟩
def F.IN_NO_SCI_COUNT : Fld := ⟨R.IN_NO_SCI, 31, 0⟩
def F.IN_UNKNOWN_SCI_COUNT : Fld := ⟨R.IN_UNKNOWN_SCI, 31, 0⟩
def F.IN_NOT_USING_SA_COUNT : Fld := ⟨R.IN_NOT_USING_SA, 31, 0⟩
def F.IN_NOT_VALID_COUNT : Fld := ⟨R.IN_NOT_VALID, 31, 0⟩
def F.IN_INVALID_COUNT : Fld := ⟨R.IN_INVALID, 31, 0⟩
def F.IN_LATE_COUNT : Fld := ⟨R.IN_LATE, 31, 0⟩
def F.IN_DELAYED_COUNT : Fld := ⟨R.IN_DELAYED, 31, 0⟩
def F.IN_UNCHECKED_COUNT : Fld := ⟨R.IN_UNCHECKED, 31, 0⟩
def F.IN_KEY_WITHDRAWN_COUNT : Fld := ⟨R.IN_KEY_WITHDRAWN, 31, 0⟩
def F.OUT_PROTECTED_COUNT : Fld := ⟨R.OUT_PROTECTED, 31, 0⟩
def F.OUT_ENCRYPTED_COUNT : Fld := ⟨R.OUT_ENCRYPTED, 31, 0⟩
def F.OUT_UNTAGGED_COUNT : Fld := ⟨R.OUT_UNTAGGED, 31, 0⟩
def F.OUT_SA_NOT_IN_USE_COUNT : Fld := ⟨R.OUT_SA_NOT_IN_USE, 31, 0⟩
def F.OUT_KEY_WITHDRAWN_COUNT : Fld := ⟨R.OUT_KEY_WITHDRAWN, 31, 0⟩
def F.RX_OCTETS_LO_COUNT : Fld := ⟨R.RX_OCTETS_LO, 31, 0⟩
def F.RX_OCTETS_HI_COUNT : Fld := ⟨R.RX_OCTETS_HI, 31, 0⟩
def F.TX_OCTETS_LO_COUNT : Fld := ⟨R.TX_OCTETS_LO, 31, 0⟩
def F.TX_OCTETS_HI_COUNT : Fld := ⟨R.TX_OCTETS_HI, 31, 0⟩
def F.SF_PASSED_COUNT : Fld := ⟨R.SF_PASSED, 31, 0⟩
def F.SF_OVERSIZE_COUNT : Fld := ⟨R.SF_OVERSIZE, 31, 0⟩
def F.SF_YELLOW_DROP_COUNT : Fld := ⟨R.SF_YELLOW_DROP, 31, 0⟩
def F.SF_RED_DROP_COUNT : Fld := ⟨R.SF_RED_DROP, 31, 0⟩
def F.TRIPS_COUNT : Fld := ⟨R.TRIPS, 31, 0⟩
def F.LOCKOUTS_COUNT : Fld := ⟨R.LOCKOUTS, 31, 0⟩
def F.OPEN_LOAD_COUNT : Fld := ⟨R.OPEN_LOAD, 31, 0⟩
def F.CLAMP_EVENTS_COUNT : Fld := ⟨R.CLAMP_EVENTS, 31, 0⟩
def F.CMD_DELAYED_COUNT : Fld := ⟨R.CMD_DELAYED, 31, 0⟩
def F.CMD_REFUSED_BUDGET_COUNT : Fld := ⟨R.CMD_REFUSED_BUDGET, 31, 0⟩
def F.CMD_REFUSED_FULL_COUNT : Fld := ⟨R.CMD_REFUSED_FULL, 31, 0⟩
def F.CMD_REFUSED_POLICY_COUNT : Fld := ⟨R.CMD_REFUSED_POLICY, 31, 0⟩
def F.THROTTLE_STEPS_COUNT : Fld := ⟨R.THROTTLE_STEPS, 31, 0⟩
def F.HOLDS_COUNT : Fld := ⟨R.HOLDS, 31, 0⟩
def F.MISSED_COUNT : Fld := ⟨R.MISSED, 31, 0⟩
def F.STUCK_ENTRIES_COUNT : Fld := ⟨R.STUCK_ENTRIES, 31, 0⟩
def F.CHATTER_ENTRIES_COUNT : Fld := ⟨R.CHATTER_ENTRIES, 31, 0⟩
def F.SLEEP_AGREED_COUNT : Fld := ⟨R.SLEEP_AGREED, 31, 0⟩
def F.SLEEP_ABORTS_COUNT : Fld := ⟨R.SLEEP_ABORTS, 31, 0⟩
def F.PARK_FLUSHED_COUNT : Fld := ⟨R.PARK_FLUSHED, 31, 0⟩
def F.PARKS_COUNT : Fld := ⟨R.PARKS, 31, 0⟩
def F.WAKES_COUNT : Fld := ⟨R.WAKES, 31, 0⟩
def F.FALSE_WAKES_COUNT : Fld := ⟨R.FALSE_WAKES, 31, 0⟩
def F.OPS_OK_COUNT : Fld := ⟨R.OPS_OK, 31, 0⟩
def F.OPS_AUTH_FAIL_COUNT : Fld := ⟨R.OPS_AUTH_FAIL, 31, 0⟩
def F.OPS_REFUSED_COUNT : Fld := ⟨R.OPS_REFUSED, 31, 0⟩
def F.UNWRAPS_COUNT : Fld := ⟨R.UNWRAPS, 31, 0⟩
def F.OPS_KEY_WITHDRAWN_COUNT : Fld := ⟨R.OPS_KEY_WITHDRAWN, 31, 0⟩
def F.ENGINE_BLOCKS_COUNT : Fld := ⟨R.ENGINE_BLOCKS, 31, 0⟩
def F.TRAFFIC_BLOCKS_COUNT : Fld := ⟨R.TRAFFIC_BLOCKS, 31, 0⟩
def F.TENANT_BLOCKS_COUNT : Fld := ⟨R.TENANT_BLOCKS, 31, 0⟩
def F.SCHED_LOADS_COUNT : Fld := ⟨R.SCHED_LOADS, 31, 0⟩
def F.MSG_ACCEPTED_COUNT : Fld := ⟨R.MSG_ACCEPTED, 31, 0⟩
def F.MSG_REFUSED_COUNT : Fld := ⟨R.MSG_REFUSED, 31, 0⟩
def F.AUTH_FAILS_COUNT : Fld := ⟨R.AUTH_FAILS, 31, 0⟩
def F.BACKOFF_REFUSED_COUNT : Fld := ⟨R.BACKOFF_REFUSED, 31, 0⟩
def F.KEY_SCRUB_ABORTS_COUNT : Fld := ⟨R.KEY_SCRUB_ABORTS, 31, 0⟩
def F.MASKED_COUNT : Fld := ⟨R.MASKED, 31, 0⟩
def F.WITHDRAWALS_COUNT : Fld := ⟨R.WITHDRAWALS, 31, 0⟩
def F.ESCALATIONS_COUNT : Fld := ⟨R.ESCALATIONS, 31, 0⟩
def F.TAKEOVERS_COUNT : Fld := ⟨R.TAKEOVERS, 31, 0⟩
def F.LINK_LOSSES_COUNT : Fld := ⟨R.LINK_LOSSES, 31, 0⟩
def F.RETRANSMITS_COUNT : Fld := ⟨R.RETRANSMITS, 31, 0⟩
def F.DETACHES_COUNT : Fld := ⟨R.DETACHES, 31, 0⟩
def F.YIELDS_COUNT : Fld := ⟨R.YIELDS, 31, 0⟩
def F.GAP_FILLED_COUNT : Fld := ⟨R.GAP_FILLED, 31, 0⟩
def F.DRIVER_ONLY_COUNT : Fld := ⟨R.DRIVER_ONLY, 31, 0⟩
def F.STBY_SUPPRESSED_COUNT : Fld := ⟨R.STBY_SUPPRESSED, 31, 0⟩
def F.REJOINS_COUNT : Fld := ⟨R.REJOINS, 31, 0⟩
def F.GATE_ABSENT_COUNT : Fld := ⟨R.GATE_ABSENT, 31, 0⟩
def F.STALE_REPLY_COUNT : Fld := ⟨R.STALE_REPLY, 31, 0⟩
def F.COLLECT_TIMEOUT_COUNT : Fld := ⟨R.COLLECT_TIMEOUT, 31, 0⟩
def F.DMA_TIMEOUT_COUNT : Fld := ⟨R.DMA_TIMEOUT, 31, 0⟩
def F.INBOUND_UR_COUNT : Fld := ⟨R.INBOUND_UR, 31, 0⟩
def F.DRAIN_OVERRUN_COUNT : Fld := ⟨R.DRAIN_OVERRUN, 31, 0⟩
def F.ACTIVATIONS_COUNT : Fld := ⟨R.ACTIVATIONS, 31, 0⟩
def F.LS_REFUSED_COUNT : Fld := ⟨R.LS_REFUSED, 31, 0⟩
def F.VERIFY_FAILS_COUNT : Fld := ⟨R.VERIFY_FAILS, 31, 0⟩
def F.HELD_SERVED_COUNT : Fld := ⟨R.HELD_SERVED, 31, 0⟩
def F.HELD_REFUSED_COUNT : Fld := ⟨R.HELD_REFUSED, 31, 0⟩
def F.OUT_DELAYED_COUNT : Fld := ⟨R.OUT_DELAYED, 31, 0⟩
def F.OUT_BUDGET_COUNT : Fld := ⟨R.OUT_BUDGET, 31, 0⟩
def F.OUT_FULL_COUNT : Fld := ⟨R.OUT_FULL, 31, 0⟩
def F.OUT_POLICY_COUNT : Fld := ⟨R.OUT_POLICY, 31, 0⟩
def F.OUT_ABSENT_COUNT : Fld := ⟨R.OUT_ABSENT, 31, 0⟩

def regTable0 : List RegDef := [R.DEV_ID, R.DEV_ROM, R.BOOT_STATUS, R.BOOT_FALLBACK, R.RESET_LOG, R.SEAL, R.DEV_RESET, R.TRANSIT_CFG, R.TRANSIT_COUNT_LO, R.TRANSIT_COUNT_HI, R.TRANSIT_PHASE, R.ALMANAC_STATUS, R.ACC_NOW_LO, R.ACC_NOW_HI, R.LEDGER_INFO, R.LEDGER_NEWEST, R.LEDGER_SEL, R.LEDGER_CMD, R.LEDGER_STATUS, R.LEDGER_DATA]
def regTable1 : List RegDef := [R.TD_CFG, R.TD_PORTS, R.TD_STATE, R.TD_OFFSET, R.TD_NOW_SEC_LO, R.TD_NOW_SEC_HI, R.TD_NOW_NS, R.TD_NOW_SUB, R.TD_RATE, R.TD_KP, R.TD_KI, R.TD_STEP_AT, R.TD_JUMP_THR, R.TD_OCC, R.TD_SLEW, R.TD_DELTA, R.TD_SET_SEC_LO, R.TD_SET_SEC_HI, R.TD_SET_NS, R.TD_CMD]
def regTable2 : List RegDef := [R.PORT_LAT_RX, R.PORT_LAT_TX, R.TS_QSTAT, R.HOST_PORT, R.TENANT_CFG, R.TENANT_BUDGET, R.RING_SEL, R.RING_CFG_A, R.RING_CFG_B, R.RING_CFG_C, R.DOORBELL, R.DOORBELL_ARM, R.RING_BASE_LO, R.RING_BASE_HI, R.RING_CTL, R.CIPHER_DOORBELL, R.CIPHER_CTL, R.STACKS_INFO, R.STACKS_STATUS, R.POOL_WM]
def regTable3 : List RegDef := [R.QSEL, R.QCFG_A, R.QCFG_B, R.QCFG_C, R.QCFG_D, R.QSTAT, R.MEM_PART, R.REC_CFG, R.REC_SPAN, R.REC_TRIG_SW, R.REC_STATUS, R.REC_WRITE, R.REC_SRC, R.RESERVE, R.CLASSIFY_INFO, R.PARSE_CFG, R.PARSE_TPID, R.PARSE_PORTS, R.PARSE_EDGE, R.RES_PROFILE]
def regTable4 : List RegDef := [R.KP_CTL, R.KP_EXT, R.KP_SPREAD_LO, R.KP_SPREAD_HI, R.KP_DEFAULT_LO, R.KP_DEFAULT_HI, R.PM_SET, R.TBL_CMD, R.TBL_STATUS, R.TBL_DATA, R.SPREAD_KEY, R.INDIR, R.FLOW_INFO, R.FLOW_STATE, R.FLOW_VERSION, R.FLOW_LOAD, R.FLOW_PERR, R.FLOW_PERR_PC, R.FLOW_TP_USE, R.IOSEQ_INFO]
def regTable5 : List RegDef := [R.IOSEQ_STATE, R.IOSEQ_VERSION, R.IOSEQ_LOAD, R.IOSEQ_PERR, R.IOSEQ_PERR_PC, R.CAN_INFO, R.CAN_CFG, R.CAN_NBT, R.CAN_DBT, R.CAN_XBT, R.CAN_TDC, R.CAN_STATUS, R.CAN_ERR, R.CAN_CMD, R.CAN_QSTAT, R.FILT_MATCH, R.FILT_MASK, R.FOLIO_CFG, R.FOLIO_STAT, R.LIN_CFG]
def regTable6 : List RegDef := [R.LIN_SCHED, R.LIN_PUB, R.LIN_RESPERR, R.LIN_STATUS, R.LIN_TABLE, R.LIN_ENTRY, R.LIN_FRAME, R.PORT_INFO, R.PORT_CFG, R.PORT_MAXLEN, R.LINK_STATUS, R.ADDR_LO, R.ADDR_HI, R.TC_QUEUE, R.TC_SLOPE, R.PLCA_CFG, R.PLCA_BURST, R.SECY_CFG, R.SECY_WINDOW, R.SECY_EXEMPT]
def regTable7 : List RegDef := [R.TX_SCI_LO, R.TX_SCI_HI, R.TXSA_CTL, R.TXSA_PN_LO, R.TXSA_PN_HI, R.TXSA_SSCI, R.TXSA_SALT0, R.TXSA_SALT1, R.TXSA_SALT2, R.RXSA_CTL, R.RXSA_PN_LO, R.RXSA_PN_HI, R.RXSA_SSCI, R.RXSA_SALT0, R.RXSA_SALT1, R.RXSA_SALT2, R.RXSC_SCI_LO, R.RXSC_SCI_HI, R.RXSC_CTL, R.SF_CTL]
def regTable8 : List RegDef := [R.SF_MATCH, R.MTR_CIR, R.MTR_CBS, R.MTR_EIR, R.MTR_EBS, R.PD_INFO, R.PD_CFG, R.PD_BUDGET, R.PD_THERMAL, R.PD_BRIDGE, R.PD_STATUS, R.PD_SENSE, R.PWM_BASE, R.CH_CFG, R.CH_LOAD, R.CH_PROT, R.CH_RETRY, R.CH_STATE, R.CH_CURRENT, R.CH_ENERGY]
def regTable9 : List RegDef := [R.CH_CAL, R.IN_INFO, R.IN_DIE, R.SW_STATE, R.SW_CFG, R.SW_GUARD, R.PARK_CFG, R.PARK_GUARD, R.PARK_TIMER, R.PARK_FALSE, R.PARK_STATUS, R.WAKE_FIRST, R.WAKE_TIME, R.WAKE_IN, R.WAKE_BUS, R.WAKE_MISC, R.WAKE_DIS_IN, R.WAKE_DIS_BUS, R.SWK_CTL, R.SWK_ID]
def regTable10 : List RegDef := [R.SWK_MASK, R.SWK_DATA_LO, R.SWK_DATA_HI, R.SWK_FEC, R.LIN_WAKE, R.CQ_CFG, R.CQ_BASE_LO, R.CQ_BASE_HI, R.CQ_UNWRAP, R.TGRANT, R.EGRANT, R.SR_INFO, R.SR_ID, R.SR_COUNTER, R.SR_PAIR_COUNTER, R.SR_CMD, R.SR_STATUS, R.SR_COMMIT_LO, R.SR_COMMIT_HI, R.SR_SLOT_SEL]
def regTable11 : List RegDef := [R.SR_SLOT_ATTR, R.SR_SLOT_GEN, R.SR_MSG, R.SR_REPLY, R.SR_CFG, R.FAULT_CFG, R.FAULT_STATUS, R.FAULT_LAST_LO, R.FAULT_LAST_HI, R.FAULT_RESTART, R.FAULT_TOTAL, R.FAULT_INJECT, R.PAIR_CFG, R.PAIR_STBY_TX, R.PAIR_STATUS, R.PAIR_PEER_ID, R.PAIR_LINK, R.PAIR_DELTA, R.PAIR_CAP, R.PAIR_TAKEOVER_LO]
def regTable12 : List RegDef := [R.PAIR_TAKEOVER_HI, R.BRIDGE_HOLD, R.BRIDGE_TIMER, R.GATE_SEL, R.GATE_STATE, R.BRIDGE_LAST, R.LS_CFG, R.LS_CMD, R.LS_LEN, R.LS_ADDR_LO, R.LS_ADDR_HI, R.LS_MOVE, R.LS_STATUS, R.LS_APPLY_LO, R.LS_APPLY_HI, R.LS_SLOT_SEL, R.LS_SLOT_INFO, R.LS_SLOT_VER0, R.LS_SLOT_VER1, R.SEAL_DROPS]
def regTable13 : List RegDef := [R.TS_LOST, R.TX_LATE, R.TX_LATE_DROP, R.TS_INSERT_DROP, R.FEED_REJECT_TD, R.JUMPS_REFUSED, R.OCCULTATIONS, R.STEPS, R.RING_STARVED, R.EVT_LOST, R.DB_FOREIGN, R.WM_NOTICE, R.POOL_NOTICE, R.DROP_NOCELL, R.DROP_QFULL, R.REC_LOST, R.MISS, R.CLASS_DROP, R.SPREAD_NONE, R.UNROUTED]
def regTable14 : List RegDef := [R.ACT_FAIL, R.PROG_ERR_FE, R.TP_EXPIRED, R.PROG_ERR_IS, R.CAN_QA_HEAD, R.CAN_QB_HEAD, R.CAN_RX_ERR, R.CAN_FILTERED_OUT, R.CAN_QA_OVERRUN, R.CAN_QB_OVERRUN, R.CAN_XL_SKIP, R.CAN_ARB_LOST, R.CAN_COLLISIONS, R.CAN_BUS_OFF, R.CAN_CLAIM_UNKNOWN, R.CAN_FEED_REJECT, R.LIN_NO_RESP, R.LIN_CHECKSUM_ERR, R.LIN_PARITY_ERR, R.LIN_FRAMING_ERR]
def regTable15 : List RegDef := [R.LIN_BIT_ERR, R.LIN_EVT_COLLISION, R.LIN_SYNC_ERR, R.LIN_PUB_REJECT, R.RX_OK, R.RX_FCS_ERR, R.RX_CODE_ERR, R.RX_RUNT, R.RX_OVERSIZE, R.RX_ADDR_FILTERED, R.RX_MAC_CONTROL, R.TX_OK, R.TX_BAD_DROP, R.TX_TOO_LONG, R.TX_LINK_DOWN, R.IN_OK, R.IN_UNTAGGED, R.IN_NO_TAG, R.IN_BAD_TAG, R.IN_NO_SCI]
def regTable16 : List RegDef := [R.IN_UNKNOWN_SCI, R.IN_NOT_USING_SA, R.IN_NOT_VALID, R.IN_INVALID, R.IN_LATE, R.IN_DELAYED, R.IN_UNCHECKED, R.IN_KEY_WITHDRAWN, R.OUT_PROTECTED, R.OUT_ENCRYPTED, R.OUT_UNTAGGED, R.OUT_SA_NOT_IN_USE, R.OUT_KEY_WITHDRAWN, R.RX_OCTETS_LO, R.RX_OCTETS_HI, R.TX_OCTETS_LO, R.TX_OCTETS_HI, R.SF_PASSED, R.SF_OVERSIZE, R.SF_YELLOW_DROP]
def regTable17 : List RegDef := [R.SF_RED_DROP, R.TRIPS, R.LOCKOUTS, R.OPEN_LOAD, R.CLAMP_EVENTS, R.CMD_DELAYED, R.CMD_REFUSED_BUDGET, R.CMD_REFUSED_FULL, R.CMD_REFUSED_POLICY, R.THROTTLE_STEPS, R.HOLDS, R.MISSED, R.STUCK_ENTRIES, R.CHATTER_ENTRIES, R.SLEEP_AGREED, R.SLEEP_ABORTS, R.PARK_FLUSHED, R.PARKS, R.WAKES, R.FALSE_WAKES]
def regTable18 : List RegDef := [R.OPS_OK, R.OPS_AUTH_FAIL, R.OPS_REFUSED, R.UNWRAPS, R.OPS_KEY_WITHDRAWN, R.ENGINE_BLOCKS, R.TRAFFIC_BLOCKS, R.TENANT_BLOCKS, R.SCHED_LOADS, R.MSG_ACCEPTED, R.MSG_REFUSED, R.AUTH_FAILS, R.BACKOFF_REFUSED, R.KEY_SCRUB_ABORTS, R.MASKED, R.WITHDRAWALS, R.ESCALATIONS, R.TAKEOVERS, R.LINK_LOSSES, R.RETRANSMITS]
def regTable19 : List RegDef := [R.DETACHES, R.YIELDS, R.GAP_FILLED, R.DRIVER_ONLY, R.STBY_SUPPRESSED, R.REJOINS, R.GATE_ABSENT, R.STALE_REPLY, R.COLLECT_TIMEOUT, R.DMA_TIMEOUT, R.INBOUND_UR, R.DRAIN_OVERRUN, R.ACTIVATIONS, R.LS_REFUSED, R.VERIFY_FAILS, R.HELD_SERVED, R.HELD_REFUSED, R.OUT_DELAYED, R.OUT_BUDGET, R.OUT_FULL]
def regTable20 : List RegDef := [R.OUT_POLICY, R.OUT_ABSENT]
/-- Every register of the map, in the order of R739. -/
def regTable : List RegDef :=
  regTable0 ++ regTable1 ++ regTable2 ++ regTable3 ++ regTable4 ++ regTable5 ++ regTable6 ++ regTable7 ++ regTable8 ++ regTable9 ++ regTable10 ++ regTable11 ++ regTable12 ++ regTable13 ++ regTable14 ++ regTable15 ++ regTable16 ++ regTable17 ++ regTable18 ++ regTable19 ++ regTable20

end Sys2Proof
end

