-- ==== Sys2Proof/Machine/State.lean ====
section
/-! DEFINITION. The state of the block: everything the spec gives the device, as plain data. Registers of the setup
and side-effect windows stand in one sparse register file (`Kept.regs`, each word XOR its reset value, so that an
unlisted word is at reset); stores that are not registers have fields of their own. -/

namespace Sys2Proof.Machine

/-- What leaves the device: frames, host writes, replies and signals to the world. The trace is the model's own. -/
inductive Out
  | canFrame (ch : Nat) (f : CanFrame)
  /-- A break of `brk` bit times with its delimiter, the sync field and the protected identifier. -/
  | linHeader (ch pid brk : Nat)
  /-- A response with its checksum byte, at a measured bit time in ns or at the channel's own. -/
  | linData (ch : Nat) (data : List Byte) (sum : Nat) (bit : Option Nat)
  | linWake (ch : Nat)
  | ethFrame (port : Nat) (bytes : List Byte)
  | ethCut (port : Nat)
  | beacon (port : Nat)
  /-- The completion of an inbound read, by a host port or, 8 and 9, to SVA or SVB (R447, R455). -/
  | read (port : Nat) (words : List Word)
  /-- A completion with Unsupported Request status (R446). -/
  | unsupported (port : Nat)
  /-- A completion, and an event record, at the host address of its slot (R382, R397). -/
  | completion (tenant ring addr : Nat) (bytes : List Byte)
  | event (tenant addr : Nat) (bytes : List Byte)
  | hostWrite (tenant : Nat) (addr : Nat) (bytes : List Byte)
  /-- The write-back of a ring at its host address: the published index and the accession number of the last record (R382, R397). -/
  | writeBack (tenant ring addr published acc : Nat)
  | msix (port vector : Nat)
  | cfg (port : Nat) (retry : Bool) (value : Nat)
  | strobe (die transit : Nat)
  | link (f : LinkFrame)
  /-- `PAIR_HB_OUT` (R661): 0 low, 1 high, 2 that the unit which drives toggles it, at this boundary and halfway through the transit. -/
  | heartbeat (level : Nat)
  deriving DecidableEq, Repr, Inhabited

/-- What the device is doing as a whole: waiting for its supplies in a power-on reset, held in a reset, running,
restarting after a withdrawal, halted, or parked. -/
inductive Mode | bootHeld | resetHeld | run | restart | halted | park
  deriving DecidableEq, Repr, Inhabited

/-- The device apart from the Strongroom's persistent store. -/
structure Dev where
  mode    : Mode := .run
  kept    : Kept := {}
  mirror  : Kept := {}                 -- content at the last complete mirror delta (R630)
  cut     : Option Kept := none        -- content at the latch cut of the open transit (R486)
  sent    : Kept := {}                 -- content that the companion has by the lines sent to it (R670)
  rewrites : List Out := []            -- unpublished completions that a restart would write again in other slots (R398)
  cutBytes : Nat := 0                  -- bytes of the delta that the last latch cut closed
  recCtl  : RecCtl := {}               -- recorder control area (R122)
  now     : Nat := 0                   -- local counter, ns (R335)
  gradeF  : Bool := true               -- RVG-2460-F (R1, R3); false: RVG-2460-B
  fresh   : Nat := 0                   -- the model's own: draws of free values made so far
  out     : List Out := []
  -- tick and almanac
  tickStart : Nat := 0
  tickLen : Nat := 50000
  track   : Int := 0                   -- TD0 time that the last boundary tracks, in 2⁻¹⁶ ns (R35, R40)
  alm     : Option Almanac := none
  arrivals : Sparse (List Nat) := []   -- per ENTRY_ID: transits of the items in its sliding window (R61)
  -- Stacks
  packets : Sparse Packet := []
  queues  : Sparse Queue := []
  resHeld : Sparse Nat := []           -- cells held from its reserve, per writer (R78)
  shHeld  : Nat := 0                   -- cells held from the shared pool
  poolOff : Bool := false              -- pool notice disarmed (R94)
  poolNoticed : Bool := false
  memPart : Option Nat := none         -- MEM_PART in force (R105)
  toClassify : List Nat := []          -- committed packets that the pipeline has not finished
  buckets : List Moved := []           -- moved buckets (R169)
  -- recorder, in external memory
  recs    : List Rec := []             -- oldest first
  spans   : Sparse Span := []

  -- cores
  cores   : Sparse Core := []
  sharedPend : List (Nat × DWord) := []    -- stores of the open transit, in order (R214)
  body    : List Byte := []            -- body image (R218)
  -- host
  release : List Effect := []
  pendReads : List PendRead := []
  msix    : Sparse Word := []          -- MSI-X tables of the four ports, 1,024 words each (R376, R738)
  msixPend : List (Nat × Nat) := []    -- pending vectors, as the pending-bit arrays show them: port and vector
  octLatch : Sparse Nat := []          -- high words of octet counters as last latched (R332)
  -- accession desk
  acc     : Nat := 0                   -- next accession number (R625)
  -- time
  segs    : Sparse Seg := []           -- clocks of TD0–TD3
  pastSegs : List (Nat × Seg × Nat) := []  -- a domain's earlier segments with the instants they ended at, newest first (R336, R337)
  hist    : List (Nat × Seg) := [(0, default)] -- TD0 segments with the accession number each began at, newest first (R338)
  stamps  : List Stamp := []           -- stamp reports not yet posted
  -- ledger
  ledger  : Sparse LedgerEntry := []   -- ring entries 1–8191
  overflow : Overflow := {}
  recWait : List Rec := []             -- records that wait for a packet numbered earlier (R106)
  recMark : Option Rec := none         -- a restart's marker, before the first record after it (R110)
  recShort : Bool := false             -- the recorder's copies starve, as the last recording command said (R117)
  recGap  : Nat := 0                   -- records lost that no gap marker has told of yet (R117)
  -- output stage
  chans   : Sparse Chan := []          -- as the power dies hold them
  dies    : Sparse Die := []
  latch   : Sparse Latch := []         -- the open transit's latch sets, by channel
  latchNext : Sparse Latch := []       -- commands admitted after the cut
  cutDone : Bool := false              -- the latch cut of the open transit has passed
  deltaDone : Bool := false            -- the open transit's mirror delta is complete
  strobe  : Sparse Latch := []         -- the closed transit's latch sets, for the commit strobe at the boundary
  strobeDue : Bool := false            -- the delta was complete, so a strobe goes out
  arb     : List ArbCmd := []          -- carried commands
  arbUsed : Sparse Nat := []           -- places of each die's queue that commands of this transit, new and carried, have taken (R494)
  -- withdrawal
  wd      : Withdrawal := {}
  wdTimes : List Nat := []             -- instants of the withdrawals of the open window (R642)
  doorbells : List (Nat × Nat × Nat × Bool) := []   -- doorbell writes kept through a restart (R398)
  -- bridges
  gates   : Sparse Gate := []
  slips   : List Slip := []
  serials : Sparse Nat := []           -- next serial of each requester (R436)
  pcie    : Sparse Pcie := []          -- what the host has set in each port's function (R445)
  -- CAN and LIN
  can     : Sparse CanCh := []
  lin     : Sparse LinCh := []
  quiet   : Bool := false              -- the unit of a pair that does not drive (R265)
  -- Strongroom, apart from what it keeps
  inHand  : Option InHand := none
  blob    : Option BlobHand := none    -- a `PAIR` blob that waits for the companion (R588, R619)
  transfer : Option InHand := none     -- the companion's `PAIR` slots, which wait for the boundary (R590)
  srBackoff : Option Nat := none       -- end of the backoff after an AUTH_FAIL (R572)
  unwrapBackoff : Sparse Nat := []     -- per tenant (R621)
  superseded : List Superseded := []
  unwraps : List Unwrap := []
  commitAcc : Option Nat := none       -- first accession number of the open transit, kept for a key commit (R582)
  -- companion pairing
  linkTx  : Nat := 0                   -- SEQ of the next link frame sent (R663)
  linkRx  : Nat := 0                   -- SEQ expected next
  unacked : List (LinkFrame × Nat × Nat) := []   -- frames sent and not acknowledged: instant of the last sending, retransmissions
  proofDue : Option ProofDue := none
  -- Ethernet
  eth     : Sparse EthPort := []
  tookOver : Option Nat := none        -- transit that the last takeover boundary opened (R682)
  marks   : Sparse FreshLine := []     -- the freshness record in MRAM, by Catalogue index (R207)
  hostBytes : Sparse Nat := []         -- bytes read for each tenant in this transit (R393)
  inputs  : Sparse Input := []         -- switch inputs, as the power dies hold them
  park    : Park := {}                 -- the park controller, the always-on domains and the park record
  -- live service
  images  : Sparse ImgSlots := []      -- MRAM slots: 256 × kind + target
  live    : Option LiveOp := none
  -- registers that show a number, boot and pairing
  commitNo : Nat := 0                  -- accession number of the last Strongroom commit (R593)
  appliedAt : Nat := 0                 -- transit that the last apply boundary opened (R725)
  openDelta : Delta := {}              -- what the mirror delta of the open transit has gathered (R670)
  pair    : Pair := {}
  boot    : Boot := {}
  deriving DecidableEq, Repr, Inhabited

/-- The whole device: the Strongroom's persistent store stands apart, because only the Strongroom's own work writes it (R551). -/
structure State where
  dev     : Dev := {}
  sr      : Strongroom := {}
  pending : List Instr := []           -- the commands that wait, first in, first out
  deriving DecidableEq, Repr

/-- A stop of the machine. -/
inductive Fault
  | stopped   -- raised by no command: in every state each command has an effect, or is without effect; safe
  deriving DecidableEq, Repr

/-- A refusal of the model. -/
inductive Refusal
  | notModelled (mnemonic : String)    -- raised by an arm of `exec` whose command has no meaning yet; safe
  deriving DecidableEq, Repr

/-- The device at the release of a power-on reset, before its boot has run (R727, R729, R732): registers, counters and stores
are at their reset values, and PD-A drives the enables of the logic-die rails. Fuses and MRAM are those of a device as it
was made: lifecycle MANUFACTURE, no image and no key (DESIGN CHOICE, log entry 41) (DESIGN CHOICE, log entry 45). -/
def State.reset : State :=
  { dev := { mode := .bootHeld, boot := { lsOn := true } }
    sr := { root := (List.range 32).map Config.rootByte, identity := (List.range 16).map Config.identityByte } }

end Sys2Proof.Machine
end

