-- ==== Sys2Proof/Machine/Ops.lean ====
section
/-! DEFINITION. The named operations every meaning is built from: bit fields and byte strings, registers of the map,
counters, free values, accession numbers and time conversion. -/

namespace Sys2Proof.Machine

/-! ### Numbers, bits and bytes -/

/-- Bits `hi:lo` of a number (R5). -/
def bitsOf (w hi lo : Nat) : Nat := w / 2 ^ lo % 2 ^ (hi + 1 - lo)

/-- `w` with bits `hi:lo` replaced by `v`. -/
def insBits (w hi lo v : Nat) : Nat :=
  w - bitsOf w hi lo * 2 ^ lo + v % 2 ^ (hi + 1 - lo) * 2 ^ lo

/-- Bit `i` of a number. -/
def bitAt (w i : Nat) : Bool := w / 2 ^ i % 2 == 1

/-- The `k` low bytes of a number, least significant first (R6). -/
def leBytes : Nat → Nat → List Byte
  | 0, _ => []
  | k + 1, n => BitVec.ofNat 8 n :: leBytes k (n / 256)

/-- The number that little-endian bytes spell. -/
def ofLe : List Byte → Nat
  | [] => 0
  | b :: r => b.toNat + 256 * ofLe r

/-- The `k` low bytes of a number, most significant first. -/
def beBytes (k n : Nat) : List Byte := (leBytes k n).reverse

/-- The number that big-endian bytes spell. -/
def ofBe (l : List Byte) : Nat := ofLe l.reverse

/-- Byte `i` of a byte string, 0 beyond its end. -/
def byteAt (l : List Byte) (i : Nat) : Nat := (l.getD i 0).toNat

/-- Byte `i` of a little-endian number. -/
def nbyte (n i : Nat) : Nat := n / 256 ^ i % 256

/-- `k` bytes from offset `o`, with zeros beyond the end. -/
def slice (l : List Byte) (o k : Nat) : List Byte :=
  (List.range k).map fun i => l.getD (o + i) 0

/-- `l` with the bytes from `o` on replaced by `b`; bytes that would fall beyond the end are dropped. -/
def patch (l : List Byte) (o : Nat) (b : List Byte) : List Byte :=
  l.mapIdx fun i x => if o ≤ i ∧ i < o + b.length then b.getD (i - o) x else x

/-- Round up to a multiple of `m`. -/
def roundUp (n m : Nat) : Nat := (n + m - 1) / m * m

/-- `n / m` rounded up. -/
def cdiv (n m : Nat) : Nat := (n + m - 1) / m

/-- Two's complement of `k` bits. -/
def ofInt (k : Nat) (i : Int) : Nat := (i % (2 ^ k : Int)).toNat

/-- The integer that `k` bits of two's complement spell. -/
def toInt (k n : Nat) : Int := if n % 2 ^ k < 2 ^ (k - 1) then (n % 2 ^ k : Int) else (n % 2 ^ k : Int) - 2 ^ k

/-- Confine an integer to a range. -/
def clampI (i lo hi : Int) : Int := if i < lo then lo else if hi < i then hi else i

/-- Two's complement of 32 bits, saturating (the RO offsets of R373). -/
def sat32 (i : Int) : Nat := ofInt 32 (clampI i (-2147483648) 2147483647)

/-- Numbers ordered by serial arithmetic modulo 2⁴⁸ (R627): `a` is before `b`. -/
def accBefore (a b : Nat) : Bool :=
  let d := (b + 2 ^ 48 - a % 2 ^ 48) % 2 ^ 48
  0 < d && d < 2 ^ 47

/-! ### Registers -/

/-- The key of the register at the given indices. -/
def regKey (r : RegDef) (ix : List Nat) : Nat :=
  r.base + ((r.dims.zip ix).map fun p => p.1.1 * p.2).sum

/-- Reset value of a field, without what depends on the register's index. -/
def fieldReset (fs : List FieldDef) : Nat := (fs.map fun f => f.reset * 2 ^ f.lo).sum

/-- `OC_LIMIT` at reset, by the class of the local channel (R509, R22). -/
def ocReset (ch : Nat) : Nat := if ch < 16 then 0x78 else if ch < 32 then 0x26 else 0x96

/-- `PORT_INFO.TYPE` (R330): XG, MG, T1A, T1S. -/
def portType (p : Nat) : Nat := if p < 2 then 0 else if p < 6 then 1 else if p < 12 then 2 else 3

/-- The reset value of a register at its indices. -/
def regReset (r : RegDef) (ix : List Nat) : Nat :=
  let base := fieldReset r.fields
  match r.var with
  | .none => base
  | .recSrcReset => [0, 0, 0x55555555, 0x55, 0xAAAAAAAA, 0xAAAA, 0xAAAAAAAA, 0xA].getD (ix.getD 0 0) 0
  | .idxReset => base + ix.getD 0 0
  | .canInfoReset => (if ix.getD 0 0 < 8 then 0xC0000000 else 0) + ix.getD 0 0
  | .portInfoReset => portType (ix.getD 0 0) * 2 ^ 30 + ix.getD 0 0
  | .chProtReset => insBits base 31 23 (ocReset (ix.getD 1 0))
  | .inDieReset => insBits (insBits base 24 20 (16 * ix.getD 0 0)) 18 14 (16 * ix.getD 0 0)

/-- The word a register holds. -/
def regGet (m : Sparse Word) (r : RegDef) (ix : List Nat) : Nat :=
  (sget m (regKey r ix) ^^^ BitVec.ofNat 32 (regReset r ix)).toNat

/-- Put a word into a register. -/
def regPut (m : Sparse Word) (r : RegDef) (ix : List Nat) (v : Nat) : Sparse Word :=
  sput m (regKey r ix) (BitVec.ofNat 32 v ^^^ BitVec.ofNat 32 (regReset r ix))

/-- A field's value. -/
def fldGet (m : Sparse Word) (f : Fld) (ix : List Nat) : Nat := bitsOf (regGet m f.reg ix) f.hi f.lo

/-- Set a field. -/
def fldPut (m : Sparse Word) (f : Fld) (ix : List Nat) (v : Nat) : Sparse Word :=
  regPut m f.reg ix (insBits (regGet m f.reg ix) f.hi f.lo v)

/-- One field of a write of `v` with the enabled bits `mask` (R9, R447): RW and RWS fields take the written bits where the
result is a value that the field accepts, W1C bits clear, the others stay. -/
def writeField (v mask : Nat) (w : Nat) (f : FieldDef) : Nat :=
  let old := bitsOf w f.hi f.lo
  let m := bitsOf mask f.hi f.lo
  let x := bitsOf v f.hi f.lo
  match f.acc with
  | .rw | .rws =>
    let n := (old ^^^ (old &&& m)) ||| (x &&& m)
    match f.valid with
    | some (lo, hi) => if lo ≤ n ∧ n ≤ hi then insBits w f.hi f.lo n else w
    | none => insBits w f.hi f.lo n
  | .w1c => insBits w f.hi f.lo (old ^^^ (old &&& (x &&& m)))
  | .ro | .wo | .rc => w

/-- A write to a register, field by field. -/
def regWrite (m : Sparse Word) (r : RegDef) (ix : List Nat) (v mask : Nat) : Sparse Word :=
  regPut m r ix (r.fields.foldl (writeField v mask) (regGet m r ix))

/-- All 32 bits of a word enabled. -/
def allBits : Nat := 0xFFFFFFFF

/-- Change the kept stores. -/
def Dev.modK (d : Dev) (f : Kept → Kept) : Dev := { d with kept := f d.kept }

/-- Read a field of the map. -/
def Dev.rd (d : Dev) (f : Fld) (ix : List Nat := []) : Nat := fldGet d.kept.regs f ix

/-- Write a word to a register through the access codes of its fields. -/
def Dev.putWord (d : Dev) (r : RegDef) (ix : List Nat) (v : Nat) (mask : Nat := allBits) : Dev :=
  d.modK fun k => { k with regs := regWrite k.regs r ix v mask }

/-- Is a one-bit field set? -/
def Dev.on (d : Dev) (f : Fld) (ix : List Nat := []) : Bool := d.rd f ix != 0

/-- Set a field of the map, as the device itself does. -/
def Dev.wr (d : Dev) (f : Fld) (ix : List Nat) (v : Nat) : Dev :=
  d.modK fun k => { k with regs := fldPut k.regs f ix v }

/-- Note that `n` counts were added to the counter at `key` since any undelivered read of it (R10). -/
def noteAdded (key n : Nat) (l : List PendRead) : List PendRead :=
  l.map fun p => { p with words := p.words.map fun w => if w.key = key then { w with added := w.added + n } else w }

/-- Advance a side-effect counter by `n`, saturating (R10). -/
def Dev.bump (d : Dev) (f : Fld) (ix : List Nat := []) (n : Nat := 1) : Dev :=
  let m := 2 ^ (f.hi + 1 - f.lo) - 1
  { (d.wr f ix (min m (d.rd f ix + n))) with pendReads := noteAdded (regKey f.reg ix) n d.pendReads }

/-- An address of the side-effect window, which the map gives to the counters (R8, R10). -/
def sideWindow (a : Nat) : Bool := decide (0x400000 ≤ a ∧ a < 0x1000000)

/-- Set a read-only saturating count of a setup register to one more. -/
def Dev.incr (d : Dev) (f : Fld) (ix : List Nat := []) : Dev :=
  d.wr f ix (min (2 ^ (f.hi + 1 - f.lo) - 1) (d.rd f ix + 1))

/-! ### The trace, free values, accession numbers and time -/

/-- Something leaves the device. -/
def Dev.emit (d : Dev) (o : Out) : Dev := { d with out := d.out ++ [o] }

/-- Draw a free value (log entry 1). -/
def Dev.draw (d : Dev) : Nat × Dev := (Config.freeNat d.fresh, { d with fresh := d.fresh + 1 })

/-- Take the next accession number (R625, R627). -/
def Dev.number (d : Dev) : Nat × Dev := (d.acc, { d with acc := (d.acc + 1) % 2 ^ 48 })

/-- The instant of an event from outside: the local counter never runs back. -/
def Dev.atTime (d : Dev) (t : Nat) : Dev := { d with now := max d.now t }

/-- The transit length of a length code in ns (R40). -/
def lenNs : Nat → Nat
  | 0 => 25000
  | 1 => 50000
  | 2 => 100000
  | 3 => 125000
  | _ => 250000

/-- The nominal transit length in force, in ns. -/
def Dev.len (d : Dev) : Nat := lenNs (d.rd F.TRANSIT_CFG_LEN)

/-- One second in units of 2⁻¹⁶ ns. -/
def secUnits : Int := 65536000000000

/-- A clock's time at a local instant, in 2⁻¹⁶ ns (R335). -/
def Seg.timeAt (g : Seg) (loc : Nat) : Int :=
  let dt : Int := (loc : Int) - (g.loc0 : Int)
  g.t0 + dt * 65536 + dt * 65536 * g.rate / (4294967296 * 1000000000)

/-- The segment of domain `i` at a local instant: the present one, or the one that was in force then, as far back as it is kept
(R336, R337). -/
def Dev.segAt (d : Dev) (i loc : Nat) : Seg :=
  let g := sget d.segs i
  if g.loc0 ≤ loc then g
  else match d.pastSegs.find? fun e => e.1 == i && decide (e.2.1.loc0 ≤ loc) with
    | some e => e.2.1
    | none => g

/-- Domain `i`'s time at a local instant. -/
def Dev.timeAt (d : Dev) (i loc : Nat) : Int := (d.segAt i loc).timeAt loc

/-- The first local instant at which a clock shows a time or more. -/
def Seg.firstAt (g : Seg) (t : Int) : Nat :=
  ((g.loc0 : Int) - (g.t0 - t) * (4294967296 * 1000000000) / (65536 * (4294967296 * 1000000000 + g.rate))).toNat

/-- The newest segment of a domain that had begun at a time of its own. -/
def Dev.segWhen (d : Dev) (i : Nat) (t : Int) : Seg :=
  let past := (d.pastSegs.filter fun e => e.1 == i).map fun e => e.2.1
  ((sget d.segs i :: past).find? fun g => decide (g.t0 ≤ t)).getD (sget d.segs i)

/-- The first local instant from `loc` on at which TD0 has gone `ns` ns further: on the newest segment that had begun by then. -/
def Dev.afterTd0 (d : Dev) (loc ns : Nat) : Nat :=
  let goal := d.timeAt 0 loc + (ns : Int) * 65536
  max loc ((d.segWhen 0 goal).firstAt goal)

/-- Point `k`/1,024 of the open transit: so many whole nanoseconds of TD0 after the boundary that opened it (R788) (DESIGN CHOICE, log entry 152). -/
def Dev.point (d : Dev) (k : Nat) : Nat := d.afterTd0 d.tickStart (k * d.len / 1024)

/-- The tick takes the last multiple of L of TD0's time as the instant that its boundary tracks (R34, R36). -/
def Dev.realign (d : Dev) : Dev :=
  let l : Int := (d.tickLen : Int) * 65536
  { d with track := d.timeAt 0 d.now / l * l }

/-- Until the first activation after a reset the tick realigns at once when TD0 steps (R36): `old` is the device before it may have. -/
def Dev.followStep (d old : Dev) : Dev :=
  if d.boot.first.isNone && d.timeAt 0 d.now != old.timeAt 0 d.now then d.realign else d

/-- The instant of the next boundary (R34–R36): the TD0 instant one L on; from the first activation on, at least L × 63/64 and at
most L × 65/64 after the last boundary. -/
def Dev.nextTick (d : Dev) : Nat :=
  let goal := (sget d.segs 0).firstAt (d.track + (d.tickLen : Int) * 65536)
  let lo := d.tickStart + cdiv (d.tickLen * 63) 64
  let hi := d.tickStart + d.tickLen * 65 / 64
  if d.boot.first.isSome then max lo (min hi goal) else max (d.tickStart + 1) goal

/-- The transit counter advances at a boundary, which tracks the TD0 instant one L on (R35, R37). -/
def Dev.tick (d : Dev) (t : Nat) : Dev :=
  { d with kept := { d.kept with transit := d.kept.transit + 1 }, tickStart := t, track := d.track + (d.tickLen : Int) * 65536 }

/-- Seconds, nanoseconds and sub-nanoseconds of a time (R334). -/
def splitTime (t : Int) : Nat × Nat × Nat :=
  let u := ofInt 112 t
  let s := u / 65536000000000
  let r := u % 65536000000000
  (s, r / 65536, r % 65536)

/-- The TD0 stamp of a local instant, seconds and nanoseconds. -/
def Dev.stamp (d : Dev) (dom loc : Nat) : Nat × Nat :=
  let t := splitTime (d.timeAt dom loc)
  (t.1, t.2.1)

/-- Is the almanac active (R40)? -/
def Dev.active (d : Dev) : Bool := d.alm.isSome

/-- Does the block carry out work: it runs, and is neither restarting, held, halted nor parked? -/
def Dev.runs (d : Dev) : Bool := d.mode == .run

end Sys2Proof.Machine
end

