-- ==== Sys2Proof/Machine/Crc.lean ====
section
/-! DEFINITION. Cyclic redundancy checks: CRC-32 of IEEE 802.3 (R108, R220), CAN CRC-15, and the steps of `CRCB` (R197). -/

namespace Sys2Proof.Machine

/-- One bit of the reflected CRC-32. -/
def crc32Bit (c : BitVec 32) : BitVec 32 :=
  if c.getLsbD 0 then (c >>> 1) ^^^ 0xEDB88320#32 else c >>> 1

/-- One byte of the reflected CRC-32 register. -/
def crc32Byte (c : BitVec 32) (b : Byte) : BitVec 32 :=
  crc32Bit (crc32Bit (crc32Bit (crc32Bit (crc32Bit (crc32Bit (crc32Bit (crc32Bit (c ^^^ b.setWidth 32))))))))

/-- CRC-32 with the IEEE 802.3 polynomial over a byte string. -/
def crc32 (l : List Byte) : Nat := ((l.foldl crc32Byte 0xFFFFFFFF#32) ^^^ 0xFFFFFFFF#32).toNat

/-- One bit of the CAN CRC-15, polynomial 0x4599 (ISO 11898-1). -/
def crc15Bit (c : BitVec 15) (bit : Bool) : BitVec 15 :=
  if (c.getLsbD 14) != bit then (c <<< 1) ^^^ 0x4599#15 else c <<< 1

/-- One byte of the CAN CRC-15, most significant bit first. -/
def crc15Byte (c : BitVec 15) (b : Byte) : BitVec 15 :=
  [7, 6, 5, 4, 3, 2, 1, 0].foldl (fun c i => crc15Bit c (b.getLsbD i)) c

/-- One `CRCB` step (R197); the CRC-8 polynomial is open (log entry 5). -/
def crcStep (k : CrcKind) (c : Word) (b : Byte) : Word :=
  match k with
  | .crc8 => Config.crc8Step c b
  | .crc15 => (crc15Byte (c.setWidth 15) b).setWidth 32
  | .crc32 => crc32Byte c b

end Sys2Proof.Machine
end

