-- ==== Sys2Proof/Machine/Events.lean ====
section
/-! DEFINITION. Completion rings and event rings: writing completions and event records, the lost-record count, and
publication with interrupts (R385–R390, R396, R397, R404, R407, R408, R415–R419). -/

namespace Sys2Proof.Machine

/-- Ring number of a tenant's cipher queue in this model. -/
def cipherRing : Nat := 64

/-- A ring. -/
def Dev.ring (d : Dev) (t r : Nat) : Ring := sget d.kept.rings (65 * t + r)

/-- Change a ring. -/
def Dev.modRing (d : Dev) (t r : Nat) (f : Ring → Ring) : Dev :=
  d.modK fun k => { k with rings := smod k.rings (65 * t + r) f }

/-- Kind of a ring (R381); the cipher queue is a kind of its own, 8. -/
def Dev.ringKind (d : Dev) (t r : Nat) : Nat :=
  if r = cipherRing then (if d.on F.CQ_CFG_VALID [t] then 8 else 0) else d.rd F.RING_CFG_A_KIND [t, r]

/-- Slots of a ring (R382). -/
def Dev.ringSize (d : Dev) (t r : Nat) : Nat :=
  2 ^ (if r = cipherRing then d.rd F.CQ_CFG_SIZE_LOG2 [t] else d.rd F.RING_CFG_A_SIZE_LOG2 [t, r])

/-- Is a ring enabled? -/
def Dev.ringOn (d : Dev) (t r : Nat) : Bool :=
  if r = cipherRing then d.on F.CIPHER_CTL_ENABLE [t] else d.on F.RING_CTL_ENABLE [t, r]

/-- Is a ring stalled (R420)? -/
def Dev.ringStalled (d : Dev) (t r : Nat) : Bool :=
  if r = cipherRing then d.on F.CIPHER_CTL_STALLED [t] else d.on F.RING_CTL_STALLED [t, r]

/-- The completion ring that a ring names. -/
def Dev.ringCq (d : Dev) (t r : Nat) : Nat :=
  if r = cipherRing then d.rd F.CQ_CFG_CQ [t] else d.rd F.RING_CFG_A_CQ [t, r]

/-- The service class of a ring, as its two-bit code. -/
def Dev.ringClass (d : Dev) (t r : Nat) : Nat :=
  if r = cipherRing then d.rd F.CQ_CFG_CLASS [t] else d.rd F.RING_CFG_A_CLASS [t, r]

/-- Free slots of a completion or event ring: the device fills slots up to, but not including, consumer − 1 (R386). -/
def Dev.freeSlots (d : Dev) (t r : Nat) : Nat :=
  let n := d.ringSize t r
  (((d.ring t r).consumer + n) - (d.ring t r).write - 1) % n

/-- The host address of a ring, and of its slot `i` (R382, R425): the write-back location follows the last slot. -/
def Dev.ringBase (d : Dev) (t r : Nat) : Nat := d.rd F.RING_BASE_HI_BASE [t, r] * 4294967296 + d.rd F.RING_BASE_LO_BASE [t, r] * 4096
def Dev.slotAddr (d : Dev) (t r i : Nat) : Nat := d.ringBase t r + 32 * i

/-- Write one record into a completion or event ring's next slot (R397). -/
def Dev.putRecord (d : Dev) (t r acc : Nat) (irq : Bool) (out : Nat → Out) : Dev :=
  let n := d.ringSize t r
  let a := d.slotAddr t r (d.ring t r).write
  (d.modRing t r fun g =>
    { g with write := (g.write + 1) % n, unreported := g.unreported + 1, irqNow := g.irqNow + irq.toNat, lastAcc := acc }).emit (out a)

/-- `DRAINED` follows the count of items whose completion is not yet published (R423). -/
def Dev.syncDrained (d : Dev) (t r : Nat) : Dev :=
  let v := if (d.ring t r).open_ = 0 then 1 else 0
  if r = cipherRing then d.wr F.CIPHER_CTL_DRAINED [t] v else d.wr F.RING_CTL_DRAINED [t, r] v

/-- A completion stands in a slot: that of an item with effects to release is noted (R398). -/
def Ring.placed (g : Ring) (acc slot : Nat) : Ring :=
  { g with done_ := g.done_ + 1, unreleased := g.unreleased.map fun u => if u.ref.acc = acc then { u with slot := some slot } else u }

/-- A completion is discarded: the item counts as ended. -/
def Ring.discarded (g : Ring) (acc : Nat) : Ring :=
  { g with open_ := g.open_ - 1, void := g.void.filter (· != acc), unreleased := g.unreleased.filter fun u => u.ref.acc != acc }

/-- Write one completion of a submission ring: its reserved slot of the completion ring is used. Completions of items read before a host
port reset, and those for a ring that is disabled, are discarded (R422). -/
def Dev.putCompletion (d : Dev) (t r acc : Nat) (bytes : List Byte) (irq : Bool) : Dev :=
  let cq := d.ringCq t r
  let void := (d.ring t r).void.contains acc
  let d := d.modRing t cq fun g => { g with reserved := g.reserved - 1 }
  if d.ringOn t cq ∧ !void then
    (d.modRing t r fun g => g.placed acc (d.ring t cq).write).putRecord t cq acc irq fun a => .completion t cq a bytes
  else (d.modRing t r fun g => g.discarded acc).syncDrained t r

/-- Write the completions at the front of ring order that are ready (R404). -/
def Dev.drainOrder (t r : Nat) : List HostRef → Dev → Dev
  | [], d => d
  | h :: rest, d =>
    match (d.ring t r).waitC.find? fun w => w.1 == h.acc with
    | none => d
    | some w =>
      let d := d.modRing t r fun g =>
        { g with waitC := g.waitC.filter fun x => x.1 != h.acc, inflight := g.inflight.filter fun x => x.acc != h.acc }
      Dev.drainOrder t r rest (d.putCompletion t r h.acc w.2.1 w.2.2)

/-- The 32 bytes of a completion (R407, R408). -/
def completionBytes (h : HostRef) (status cflags delay : Nat) (result : List Byte) : List Byte :=
  leBytes 2 h.tag ++ leBytes 1 status ++ leBytes 1 cflags ++ leBytes 1 (h.ring % 64) ++ leBytes 1 delay ++
    leBytes 2 h.sqHead ++ leBytes 6 h.acc ++ [0, 0] ++
    (if result = [] then leBytes 4 h.transit ++ List.replicate 12 0 else slice result 0 16)

/-- PEER_HELD for what entered before the takeover boundary and completes after it (R683). -/
def Dev.peerHeld (d : Dev) (transit : Nat) : Nat :=
  match d.tookOver with | some t => if transit < t then 4 else 0 | none => 0

/-- `CFLAGS` of a record about a packet or a program's item: PEER_HELD, and FROM_COMPANION for a frame that came over GAP_FILL (R416, R683). -/
def Dev.itemFlags (d : Dev) (transit : Nat) (companion : Bool) : Nat := d.peerHeld transit + 8 * companion.toNat

/-- The completion of a host item; a cipher queue's names its completion ring (R611). The companion read the descriptor of every item that
entered before a takeover (R677, R683). -/
def Dev.completionOf (d : Dev) (h : HostRef) (status cflags delay : Nat) (result : List Byte) : List Byte :=
  let shown := if h.ring = cipherRing then { h with ring := d.ringCq h.tenant h.ring } else h
  completionBytes shown status (cflags + 3 * d.peerHeld h.transit) delay result

/-- A transit that never comes: what is `ready` at it waits for publication. -/
def untilPublished : Nat := 2 ^ 64

/-- A host item reaches its outcome: its completion is written as soon as it is decided, in ring order on command and output rings. Until a
cipher operation's is published, a restart ends it WITHDRAWN (R616). -/
def Dev.complete (d : Dev) (h : HostRef) (status : Nat) (cflags : Nat := 0) (delay : Nat := 0)
    (result : List Byte := []) : Dev :=
  let b := d.completionOf h status cflags delay result
  let k := d.ringKind h.tenant h.ring
  if k = 3 ∨ k = 4 then
    let d := d.modRing h.tenant h.ring fun g => { g with waitC := g.waitC ++ [(h.acc, b, h.irqNow)] }
    Dev.drainOrder h.tenant h.ring (d.ring h.tenant h.ring).inflight d
  else
    let d := d.modRing h.tenant h.ring fun g => { g with
      inflight := g.inflight.filter fun x => x.acc != h.acc
      unreleased := if k = 8 then g.unreleased ++ [{ ref := h, ready := untilPublished }] else g.unreleased }
    d.putCompletion h.tenant h.ring h.acc b h.irqNow

/-- The transit from which what a host item does shows outside the device: the boundary that ends the present transit releases it, or the
next one where the latch cut has passed (R396, R671). -/
def Dev.releaseTransit (d : Dev) : Nat := d.kept.transit + 1 + d.cutDone.toNat

/-- A host item reaches its outcome while its effects wait for a boundary (R396, R398). -/
def Dev.completeHeld (d : Dev) (h : HostRef) (status : Nat) (cflags : Nat := 0) (delay : Nat := 0) : Dev :=
  let d := if status ≤ 1 then d.modRing h.tenant h.ring fun g => { g with unreleased := g.unreleased ++ [{ ref := h, ready := d.releaseTransit }] }
    else d
  d.complete h status cflags delay

/-- An item whose effects will not be released ends WITHDRAWN after all: its completion, which no write-back has published, is written
again (R398, R487). -/
def Dev.withdrawItem (t r : Nat) (d : Dev) (u : Unreleased) : Dev :=
  let b := d.completionOf u.ref 0x60 0 0 []
  let cq := d.ringCq t r
  let d := d.modRing t r fun g => { g with
    unreleased := g.unreleased.filter fun x => x.ref.acc != u.ref.acc
    waitC := g.waitC.map fun x => if x.1 = u.ref.acc then (x.1, b, x.2.2) else x }
  match u.slot with
  | some w => if d.ringOn t cq then d.emit (.completion t cq (d.slotAddr t cq w) b) else d
  | none => d

/-- Complete an item if it came from a host. -/
def Dev.completeOpt (d : Dev) (h : Option HostRef) (status : Nat) (cflags : Nat := 0) (delay : Nat := 0) : Dev :=
  match h with
  | none => d
  | some h => d.complete h status cflags delay

/-- The event ring of a tenant, where it has one (R415). -/
def Dev.eventRing (d : Dev) (t : Nat) : Option Nat :=
  let r := d.rd F.TENANT_CFG_EVENT_RING [t]
  if d.ringKind t r = 6 ∧ d.ringOn t r then some r else none

/-- The 32 bytes of an event record (R416): `detail` holds bytes 14–31. -/
def eventBytes (code status cflags source acc : Nat) (extra : Nat) (detail : List Byte) : List Byte :=
  leBytes 2 code ++ leBytes 1 status ++ leBytes 1 cflags ++ leBytes 2 source ++ leBytes 1 extra ++ [0] ++
    leBytes 6 acc ++ slice detail 0 18

/-- Count an event record that does not fit (R418). -/
def Dev.loseEvent (d : Dev) (t : Nat) (ring : Option Nat) (acc : Nat) : Dev :=
  let d := d.bump F.EVT_LOST_COUNT [t]
  match ring with
  | none => d
  | some r => d.modRing t r fun g =>
      { g with lost := g.lost + 1, lostFirst := if g.lost = 0 then acc else g.lostFirst }

/-- Does an ordinary record fit the tenant's event ring (R418)? -/
def Dev.eventRoom (d : Dev) (t : Nat) : Bool :=
  match d.eventRing t with
  | none => false
  | some r => (d.ring t r).lost == 0 && decide (2 ≤ d.freeSlots t r)

/-- Post one event record with a given accession number. -/
def Dev.eventAt (d : Dev) (acc t code status source : Nat) (detail : List Byte := []) (extra : Nat := 0)
    (cflags : Nat := 0) : Dev :=
  match d.eventRing t with
  | none => d.loseEvent t none acc
  | some r =>
    if d.eventRoom t then
      d.putRecord t r acc false fun a => .event t a (eventBytes code status cflags source acc extra detail)
    else d.loseEvent t (some r) acc

/-- Post one event record; the event takes its accession number here. -/
def Dev.event (d : Dev) (t code status source : Nat) (detail : List Byte := []) (cflags : Nat := 0) : Dev :=
  let (a, d) := d.number
  d.eventAt a t code status source detail 0 cflags

/-- Bytes 14 and 15 are reserved in most records; the detail of R417 starts at byte 16. -/
def detail16 (b : List Byte) : List Byte := [0, 0] ++ b

/-- A slot of the event ring has freed: the `EVENTS_LOST` record goes before any later record, into the last free slot where there is
no other (R418). -/
def Dev.flushLost (d : Dev) (t r : Nat) : Dev :=
  let g := d.ring t r
  if g.lost ≠ 0 ∧ 1 ≤ d.freeSlots t r then
    let d := d.putRecord t r g.lostFirst false fun a =>
      .event t a (eventBytes 0x0003 0 0 r g.lostFirst 0 (detail16 (leBytes 4 g.lost ++ leBytes 6 g.lostFirst)))
    d.modRing t r fun g => { g with lost := 0, lostFirst := 0 }
  else d

/-- Has an enabled completion ring a slot to reserve (R390)? -/
def Dev.canReserve (d : Dev) (t cq : Nat) : Bool :=
  d.ringOn t cq && decide ((d.ring t cq).reserved < d.freeSlots t cq)

/-- Reserve one completion slot for an item of a ring (R390); the first time none is free, `CQ_FULL` is posted (R418). -/
def Dev.reserve (d : Dev) (t cq : Nat) : Bool × Dev :=
  if d.canReserve t cq then
    (true, d.modRing t cq fun g => { g with reserved := g.reserved + 1, cqFull := false })
  else if (d.ring t cq).cqFull ∨ !d.ringOn t cq then (false, d)
  else (false, (d.modRing t cq fun g => { g with cqFull := true }).event t 0x0004 0 cq)

/-- Post to every tenant that holds a right (R380). -/
def Dev.eventToRight (d : Dev) (bit code status source : Nat) (detail : List Byte) : Dev :=
  (List.range 16).foldl (fun d t =>
    if d.on F.TENANT_CFG_ENABLE [t] && bitAt (d.rd F.TENANT_CFG_RIGHTS [t]) bit
    then d.event t code status source detail else d) d

/-- The host port a tenant is bound to (R379). -/
def Dev.portOf (d : Dev) (t : Nat) : Nat := d.rd F.TENANT_CFG_PORT [t]

/-- The pieces of a transfer of bytes to an address, cut at every multiple of `m` (R443). The first argument bounds their number (DEDUCED, log entry 169). -/
def cutAt (m : Nat) : Nat → Nat → List Byte → List (Nat × List Byte)
  | 0, _, _ => []
  | k + 1, a, b =>
    if b = [] then []
    else
      let n := m - a % m
      (a, b.take n) :: cutAt m k (a + n) (b.drop n)

/-- Max_Payload_Size and Max_Read_Request_Size that the host has set on a port, in bytes (R445). -/
def Pcie.payload (p : Pcie) : Nat := min 512 (128 * 2 ^ p.mps)
def Pcie.readRequest (p : Pcie) : Nat := min 4096 (128 * 2 ^ p.mrrs.getD 2)

/-- Has the host assigned the BARs of a port? Until then the port answers no memory request (R737). -/
def Pcie.assigned (p : Pcie) : Bool := p.bar0.isSome && p.bar2.isSome && p.bar4.isSome
def Dev.barsOn (d : Dev) (port : Nat) : Bool := (sget d.pcie port).assigned

/-- Completions and event records, which stand in the slots of rings. -/
def Out.isRecord : Out → Bool
  | .completion .. | .event .. => true
  | _ => false

/-- What a boundary releases with a complete delta acts on the kept stores, and on what a withdrawal would return to: it is released, and stays
so (R398, R702). Records that stand elsewhere in that content are noted: a restart writes them again. -/
def Dev.both (d : Dev) (f : Dev → Dev) : Dev :=
  let m := f { d with kept := { d.mirror with transit := d.kept.transit }, out := [] }
  let n := f d
  { n with mirror := m.kept, rewrites := n.rewrites ++ m.out.filter Out.isRecord }

/-- Bytes go to a tenant's host memory as posted writes, in ascending address order: no piece carries more than 256 bytes or crosses a
boundary of 4 KiB or of the Max_Payload_Size that the host has set (R443, R444). -/
def Dev.writeHost (d : Dev) (t addr : Nat) (b : List Byte) : Dev :=
  let m := min 256 (sget d.pcie (d.portOf t)).payload
  (cutAt m (b.length / m + 2) addr b).foldl (fun d p => d.emit (.hostWrite t p.1 p.2)) d

end Sys2Proof.Machine
end

