-- ==== Sys2Proof/Machine/Ledger.lean ====
section
/-! DEFINITION. The ledger: writing an entry, pinning, flushing, its overflow entry, and the commands of
`LEDGER_CMD` (R634, R645–R650, R654). -/

namespace Sys2Proof.Machine

/-- An entry is pinned while either bit is set (R647). -/
def LedgerEntry.held (e : LedgerEntry) : Bool := e.pinned || e.autoPin

/-- The oldest ring entry that is not pinned. -/
def oldestFree (l : Sparse LedgerEntry) : Option (Nat × LedgerEntry) :=
  l.foldl (fun best e =>
    if e.2.held then best
    else match best with
      | none => some e
      | some b => if accBefore e.2.acc b.2.acc then some e else some b) none

/-- The ring position of a new entry (R646): the ring fills in order, then the oldest entry that is not pinned is taken. -/
def ringSlot (l : Sparse LedgerEntry) (newest : Nat) : Nat :=
  if newest < 8191 ∧ !(sget l (newest + 1)).used then newest + 1
  else match oldestFree l with
    | some e => e.1
    | none => 1

/-- The withdrawal causes that stand pinned: uncorrectable entries that no other cause's restart covers (R637, R647). -/
def pinnedCauses (l : Sparse LedgerEntry) : List (Nat × LedgerEntry) :=
  (l.filter fun e => e.2.cls == 2 && e.2.autoPin && !e.2.covered)

/-- When a 17th withdrawal cause is pinned, the oldest cause and its RESTART entry lose `AUTO_PIN` (R647). -/
def dropOldCause (l : Sparse LedgerEntry) : Sparse LedgerEntry :=
  let cs := pinnedCauses l
  if cs.length ≤ 16 then l
  else
    match cs.foldl (fun (best : Option LedgerEntry) e =>
        match best with
        | none => some e.2
        | some b => if accBefore e.2.acc b.acc then some e.2 else some b) none with
    | none => l
    | some o => smap (fun _ e =>
        if e.acc = o.acc ∨ (e.cls = 5 ∧ e.related = o.acc) then { e with autoPin := false } else e) l

/-- Count the loss of an entry that is overwritten before it was flushed (R646). -/
def Dev.loseEntry (d : Dev) (e : LedgerEntry) : Dev :=
  let first := d.overflow.lost == 0
  let d := { d with overflow :=
    { acc := if first then e.acc else d.overflow.acc, lost := min (2 ^ 32 - 1) (d.overflow.lost + 1),
      transit := d.kept.transit % 2 ^ 32, last := e.acc } }
  if first then d.event (d.rd F.FAULT_CFG_FAULT_TENANT) 0x0302 0 0xFFFF (detail16 (leBytes 4 1)) else d

/-- Write one ledger entry with a given accession number. -/
def Dev.logAt (d : Dev) (acc cls part cause inst location related code : Nat) (escalated covered : Bool := false) : Dev :=
  let newest := d.rd F.LEDGER_NEWEST_INDEX
  let p := ringSlot d.ledger newest
  let old := sget d.ledger p
  let e : LedgerEntry :=
    { used := true, acc, cls, autoPin := cls == 1 || cls == 2 || cls == 5, escalated, covered, part, cause, inst,
      transit := d.kept.transit % 2 ^ 32, location, related, code }
  let d := { d with ledger := dropOldCause (sput d.ledger p e) }
  let d := d.wr F.LEDGER_NEWEST_INDEX [] p
  if old.used && !old.flushed then d.loseEntry old else d

/-- Number an event and enter it in the ledger; answers its accession number. -/
def Dev.log (d : Dev) (cls part cause inst : Nat) (location related code : Nat := 0) : Nat × Dev :=
  let (a, d) := d.number
  (a, d.logAt a cls part cause inst location related code)

/-- A NOTICE entry of another chapter (cause 0x0B). -/
def Dev.noticeEntry (d : Dev) (part inst code : Nat) : Dev := (d.log 4 part 0x0B inst 0 0 code).2

/-- The entry of the open repair of a part, where one is open (R634): a MASKED entry not yet HANDLED. -/
def Dev.openRepair (d : Dev) (part : Nat) : Option LedgerEntry :=
  (d.ledger.find? fun e => e.2.cls == 1 && !e.2.handled && e.2.part == part).map Prod.snd

/-- The open repair with the lowest accession number, with its ring position (R634). -/
def Dev.firstRepair (d : Dev) : Option (Nat × LedgerEntry) :=
  d.ledger.foldl (fun best e =>
    if e.2.cls == 1 && !e.2.handled then
      match best with
      | none => some e
      | some b => if accBefore e.2.acc b.2.acc then some e else some b
    else best) none

/-- Mark an entry HANDLED: its automatic pin ends (R634, R647). -/
def Dev.markHandled (d : Dev) (p : Nat) : Dev :=
  { d with ledger := smod d.ledger p fun e => { e with handled := true, autoPin := false } }

/-- Entries pinned by the driver. -/
def Dev.pinnedByDriver (d : Dev) : Nat := (d.ledger.filter fun e => e.2.pinned).length

/-- The 32 bytes of a ring entry (R645). -/
def LedgerEntry.bytes (e : LedgerEntry) : List Byte :=
  let f := e.pinned.toNat + 2 * e.autoPin.toNat + 4 * e.handled.toNat + 8 * e.escalated.toNat + 16 * e.flushed.toNat
  leBytes 6 e.acc ++ leBytes 1 e.cls ++ leBytes 1 f ++ leBytes 1 e.part ++ leBytes 1 e.cause ++ leBytes 2 e.inst ++
    leBytes 4 e.transit ++ leBytes 8 e.location ++ leBytes 6 e.related ++ leBytes 1 e.code ++ [0]

/-- The 32 bytes of the overflow entry (R646). -/
def Overflow.bytes (o : Overflow) : List Byte :=
  if o.lost = 0 then List.replicate 32 0
  else leBytes 6 o.acc ++ [6, 0] ++ leBytes 4 o.lost ++ leBytes 4 o.transit ++ leBytes 6 o.last ++ List.replicate 10 0

/-- The entry at a ledger index, as bytes (R654). -/
def Dev.entryBytes (d : Dev) (i : Nat) : List Byte :=
  if i = 0 then d.overflow.bytes
  else if (sget d.ledger i).used then (sget d.ledger i).bytes else List.replicate 32 0

/-- Is the port one through which `LEDGER_SEL` and `LEDGER_CMD` are served (R654)? -/
def Dev.diagPort (d : Dev) (port : Nat) : Bool := d.barsOn port && d.on F.HOST_PORT_DIAG [port]

/-- Perform a ledger command: `OP` is stored, and `CODE` reports (R654). -/
def Dev.ledgerCmd (d : Dev) (port op : Nat) (f : Dev → Nat → Nat × Dev) : Dev :=
  if d.diagPort port then
    let d := d.wr F.LEDGER_CMD_OP [] op
    let (code, d) := f d (d.rd F.LEDGER_SEL_INDEX)
    d.wr F.LEDGER_STATUS_CODE [] code
  else d

/-- Pin the selected entry (R647, R654) (DEDUCED, log entry 36). -/
def ledgerPin (d : Dev) (i : Nat) : Nat × Dev :=
  if i = 0 ∨ !(sget d.ledger i).used then (0x12, d)
  else if (sget d.ledger i).pinned then (0, d)
  else if 1024 ≤ d.pinnedByDriver then (0x11, d)
  else
    let d := { d with ledger := smod d.ledger i fun e => { e with pinned := true } }
    (0, d.wr F.LEDGER_INFO_PINNED [] d.pinnedByDriver)

/-- Unpin the selected entry: an unhandled MASKED entry is refused (R654). -/
def ledgerUnpin (d : Dev) (i : Nat) : Nat × Dev :=
  let e := sget d.ledger i
  if e.cls = 1 ∧ !e.handled then (0x12, d)
  else
    let d := { d with ledger := smod d.ledger i fun e => { e with pinned := false, autoPin := false } }
    (0, d.wr F.LEDGER_INFO_PINNED [] d.pinnedByDriver)

/-- Clear the overflow entry (R646). -/
def ledgerClear (d : Dev) (_ : Nat) : Nat × Dev := (0, { d with overflow := {} })

end Sys2Proof.Machine
end

