-- ==== Sys2Proof/Machine/Link.lean ====
section
/-! DEFINITION. The Denren link and the roles of a pair: sending link frames, and which unit drives (R658–R668). -/

namespace Sys2Proof.Machine

/-- Pair states (R667); 0 is SOLO. -/
def psSolo : Nat := 0
def psSeeking : Nat := 1
def psLone : Nat := 2
def psSending : Nat := 3
def psReceiving : Nat := 4
def psSynced : Nat := 5
def psDetached : Nat := 6

def Dev.pairState (d : Dev) : Nat := d.rd F.PAIR_STATUS_STATE
/-- Is the unit one of a pair: with `PAIR_CFG.ENABLE` at 1 in effect (R659, R786)? -/
def Dev.pairOn (d : Dev) : Bool := d.pair.on
def Dev.linkUp (d : Dev) : Bool := d.on F.PAIR_STATUS_LINK_UP
def Dev.synced (d : Dev) : Bool := d.pairOn && d.pairState == psSynced

/-- Does the unit drive: SOLO, or with the DRIVE role (R659)? -/
def Dev.drives (d : Dev) : Bool := !d.pairOn || d.on F.PAIR_STATUS_DRIVE

/-- Is the unit the SHADOW of a synchronised pair? -/
def Dev.shadow (d : Dev) : Bool := d.synced && !d.on F.PAIR_STATUS_DRIVE

/-- Does the unit send mirror deltas: it drives, and its companion is receiving or synchronised (R670)? -/
def Dev.mirrors (d : Dev) : Bool :=
  d.pairOn && d.on F.PAIR_STATUS_DRIVE && (d.pairState == psSending || d.pairState == psSynced)

/-- Does the unit follow its companion's deltas? -/
def Dev.follows (d : Dev) : Bool :=
  d.pairOn && !d.on F.PAIR_STATUS_DRIVE && (d.pairState == psReceiving || d.pairState == psSynced)

/-- Does the block do the work of an active almanac (R734)? -/
def Dev.routes (d : Dev) : Bool := d.runs && d.active

/-- `CHANNEL` of a payload (R664). -/
def linkChannel : LinkPayload → Nat
  | .control | .hello _ | .notice .. | .state .. | .liveCommand .. | .liveVerdict _ | .liveGo => 1
  | .part c => c
  | .timeSample .. => 2
  | .departure .. => 3
  | .mirror _ => 4
  | .srMessage _ | .srVerdict _ | .srGo | .srSlots .. | .srBlob .. | .srBlobVerdict _ | .srBlobGo => 5
  | .doorbell .. => 6
  | .ledger .. => 7
  | .gapFill .. => 8
  | .snapshot .. => 9

/-- The 16 header bytes of a link frame whose payload has `len` bytes (R663). -/
def linkHeader (f : LinkFrame) (len : Nat) : List Byte :=
  leBytes 1 (linkChannel f.payload) ++ leBytes 1 (f.last.toNat + 2 * f.ackOnly.toNat) ++ leBytes 2 len ++ leBytes 4 f.seq ++ leBytes 4 f.acked ++
    leBytes 4 f.transit

/-- The highest `SEQ` that has come in order, as `ACKED` gives it (R663). -/
def Dev.ackedNow (d : Dev) : Nat := (d.linkRx + 2 ^ 32 - 1) % 2 ^ 32

/-- A frame goes onto the link (R663): it is kept until it is acknowledged (R665). -/
def Dev.putLink (d : Dev) (p : LinkPayload) (last : Bool := false) : Dev :=
  let f : LinkFrame := { last, seq := d.linkTx, acked := d.ackedNow, transit := d.kept.transit % 2 ^ 32, payload := p }
  { (d.emit (.link f)) with linkTx := (d.linkTx + 1) % 2 ^ 32, unacked := d.unacked ++ [(f, d.now, 0)] }

/-- Send a link frame: after a refused HELLO the link carries nothing but HELLO (R669). -/
def Dev.sendLink (d : Dev) (p : LinkPayload) (last : Bool := false) : Dev :=
  if d.linkUp ∧ !d.on F.PAIR_STATUS_BARRED then d.putLink p last else d

/-- Acknowledge what has come (R665). -/
def Dev.ackLink (d : Dev) : Dev :=
  if d.on F.PAIR_STATUS_BARRED then d
  else d.emit (.link { ackOnly := true, seq := d.linkTx, acked := d.ackedNow, transit := d.kept.transit % 2 ^ 32 })

/-- A frame of CONTROL that has a command of its own, a HELLO or a notice, has come in order: it is acknowledged. -/
def Dev.tookControl (d : Dev) : Dev := ({ d with linkRx := (d.linkRx + 1) % 2 ^ 32 }).ackLink

/-- The DRIVE unit reports a frame that left a queue to the unit that takes its deltas (R675). -/
def Dev.departed (d : Dev) (q tally : Nat) : Dev := if d.mirrors then d.sendLink (.departure q tally) else d

/-- A change of pair state, with `LAST_CHANGE` and event record 0x0310 (R667, R692, R693) (DEDUCED, log entry 85). A unit that leaves the
DRIVE role holds its heartbeat low (R661), and one that seeks begins to wait (R668). -/
def Dev.setPair (d : Dev) (st : Nat) (drive : Bool) (cause : Nat) : Dev :=
  let d := if d.on F.PAIR_STATUS_DRIVE ∧ !drive then d.emit (.heartbeat 0) else d
  let d := if drive ∧ !d.on F.PAIR_STATUS_DRIVE ∧ d.now = d.tickStart then d.emit (.heartbeat 2) else d
  let d := if st = psSeeking then { d with pair := { d.pair with alone := d.now } } else d
  let d := (d.wr F.PAIR_STATUS_STATE [] st).wr F.PAIR_STATUS_DRIVE [] drive.toNat
  let d := { (d.wr F.PAIR_STATUS_LAST_CHANGE [] cause) with quiet := d.pairOn && !drive }
  let d := d.sendLink (.state st drive false)
  d.event (d.rd F.PAIR_CFG_EVT_TENANT) 0x0310 0 0xFFFF (detail16 (leBytes 1 st ++ leBytes 1 drive.toNat ++ leBytes 1 cause))

/-- A boot takes up `PAIR_CFG.ENABLE`: a change by a write or a configuration image acts only here (R786). Pairing begins SEEKING
without the DRIVE role (R667) (DEDUCED, log entry 90). -/
def Dev.pairBoot (d : Dev) : Dev :=
  let on := d.on F.PAIR_CFG_ENABLE
  let d := { d with pair := { d.pair with on } }
  if on then d.setPair psSeeking false 0 else d

/-- The companion's identity, from its last HELLO (R693). -/
def Dev.peerId (d : Dev) : List Byte := ([0, 1, 2, 3].map fun w => leBytes 4 (d.rd F.PAIR_PEER_ID_ID [w])).flatten

end Sys2Proof.Machine
end

