-- ==== Sys2Proof/Machine/Stacks.lean ====
section
/-! DEFINITION. Stacks: cells and reserves, handles, commit and release, queues with watermark notices and spilling
(R71–R105). -/

namespace Sys2Proof.Machine

/-- Cells in Stacks, and handles (R71). -/
def cellCount : Nat := 122880
def handleCount : Nat := 65536

/-- Cells that `n` bytes fill, at least one (R71, R79). -/
def cellsFor (n : Nat) : Nat := max 1 (cdiv n 128)

/-- The sum of all reserves (R80). -/
def Dev.reserveSum (d : Dev) : Nat := ((List.range 128).map fun c => d.rd F.RESERVE_CELLS [c]).sum

/-- Cells held from reserves. -/
def Dev.heldFromReserves (d : Dev) : Nat := (d.resHeld.map Prod.snd).sum

/-- Free cells: all that no packet and no builder holds. -/
def Dev.freeCells (d : Dev) : Nat := cellCount - d.shHeld - d.heldFromReserves

/-- Cells that a writer can take from its own reserve, and from the shared pool (R78). -/
def Dev.ownFree (d : Dev) (w : Nat) : Nat := if w < 128 then d.rd F.RESERVE_CELLS [w] - sget d.resHeld w else 0
def Dev.sharedFree (d : Dev) : Nat := cellCount - d.reserveSum - d.shHeld

/-- Cells that a writer can have: no more than are free, which a reserve raised while shared cells are held may exceed. -/
def Dev.cellsLeft (d : Dev) (w : Nat) : Nat := min d.freeCells (d.ownFree w + d.sharedFree)

/-- The record of a pool notice, to every tenant with the Stacks diagnostic right (R94). -/
def Dev.tellPool (d : Dev) : Dev := d.eventToRight 3 0x0012 0 0xFFFF []

/-- The pool notice after the count of free cells changed (R94). -/
def Dev.poolNotice (d : Dev) : Dev :=
  let f := d.freeCells
  let low := d.rd F.POOL_WM_LOW_FREE
  let d := d.wr F.STACKS_STATUS_FREE_CELLS [] f
  let d := d.wr F.POOL_NOTICE_TROUGH [] (min f (d.rd F.POOL_NOTICE_TROUGH))
  if d.poolOff then { d with poolOff := decide (f < 2 * low) }
  else if f < low then
    let first := d.rd F.POOL_NOTICE_CROSSINGS == 0 && !d.poolNoticed
    let d := { (d.bump F.POOL_NOTICE_CROSSINGS) with poolOff := true }
    if first then { d.tellPool with poolNoticed := true } else d
  else d

/-- Take `n` cells for a writer: from its reserve first, then from the shared pool. Answers the number taken from the
reserve, or nothing where the cells cannot be had (R78, R79). -/
def Dev.takeCells (d : Dev) (w n : Nat) : Option (Nat × Dev) :=
  let own := min n (d.ownFree w)
  if n ≤ d.cellsLeft w then
    let d := { d with resHeld := smod d.resHeld w (· + own), shHeld := d.shHeld + (n - own) }
    some (own, d.poolNotice)
  else none

/-- Return cells to where they came from (R75, R77). Which held cells are those above a lowered reserve the spec leaves open: a
release gives back the cells of the reserve first (DESIGN CHOICE, log entry 117). -/
def Dev.returnCells (d : Dev) (w own shared : Nat) : Dev :=
  let mine := sget d.resHeld w
  -- cells above a lowered reserve already count as shared (R78)
  let o := min own mine
  let d := { d with resHeld := smod d.resHeld w (· - o), shHeld := d.shHeld - (shared + (own - o)) }
  d.poolNotice

/-- After a write of `RESERVE` the held cells above it count as shared (R78). -/
def Dev.reserveLowered (d : Dev) (w : Nat) : Dev :=
  let r := d.rd F.RESERVE_CELLS [w]
  let h := sget d.resHeld w
  if r < h then { d with resHeld := sput d.resHeld w r, shHeld := d.shHeld + (h - r) } else d

/-- A free handle of the 65,536 (R71, R79). They are numbered from 1: an item context holds 0 for an item without a packet (R192). -/
def Dev.freeHandle (d : Dev) : Option Nat :=
  (List.range (d.packets.length + 1)).map (· + 1) |>.find? fun h => h ≤ handleCount && !(sget d.packets h).used

/-- A packet. -/
def Dev.pkt (d : Dev) (h : Nat) : Packet := sget d.packets h

/-- Change a packet. -/
def Dev.modPkt (d : Dev) (h : Nat) (f : Packet → Packet) : Dev := { d with packets := smod d.packets h f }

/-- Free a packet's handle and cells. -/
def Dev.freePkt (d : Dev) (h : Nat) : Dev :=
  let p := d.pkt h
  let d := { d with packets := sput d.packets h default, toClassify := d.toClassify.filter (· != h) }
  d.returnCells p.writer p.fromRes (p.cells - p.fromRes)

/-- Release one reference to a packet; the last frees it (R77). -/
def Dev.unref (d : Dev) (h : Nat) : Dev :=
  if (d.pkt h).used = false then d
  else if (d.pkt h).refs ≤ 1 then d.freePkt h
  else d.modPkt h fun p => { p with refs := p.refs - 1 }

/-- Store a packet: handle, cells and one reference, keeping the fields given (R79, R166). -/
def Dev.storePkt (d : Dev) (p : Packet) : Option (Nat × Dev) :=
  match d.freeHandle with
  | none => none
  | some h =>
    let n := cellsFor p.data.length
    match d.takeCells p.writer n with
    | none => none
    | some (own, d) =>
      some (h, { d with packets := sput d.packets h { p with used := true, refs := 1, cells := n, fromRes := own } })

/-- A packet's tally (R673). -/
def tallyOf (p : Packet) : Nat := crc32 (leBytes 1 p.res ++ p.data)

/-- A medium's resource code (R43). -/
def isMedium (r : Nat) : Bool := decide (0x20 ≤ r ∧ r < 0x70)

/-- A committed packet enters the ingress log of the DRIVE unit's delta, or the SHADOW unit's twin hold (R670, R674). -/
def Dev.noteIngress (d : Dev) (h : Nat) : Dev :=
  let p := d.pkt h
  if !isMedium p.res then d
  else if d.mirrors then
    { d with openDelta := { d.openDelta with log := d.openDelta.log ++ [{ res := p.res, tally := tallyOf p, flags := p.bad }] } }
  else if d.follows then
    let d := { d with packets := smod d.packets h fun p => { p with refs := p.refs + 1 } }
    { d with pair := { d.pair with hold := d.pair.hold ++ [{ handle := h, res := p.res, tally := tallyOf p, transit := p.transit }] } }
  else d

/-- A record of a result that leaves by a queue or a folio (R670): the bytes go with it where they were built. -/
def Dev.noteEgress (d : Dev) (q : Nat) (p : Packet) (item : Option HostRef := none) : Dev :=
  if d.mirrors then
    { d with openDelta := { d.openDelta with egress := d.openDelta.egress ++
      [{ queue := q, tally := tallyOf p, built := if p.asIs then none else some (p.kind, p.data), item }] } }
  else d

/-- The transit of a result that a unit makes beside its DRIVE unit (R674), or while it is DETACHED (R668). -/
def Dev.ownMark (d : Dev) : Option Nat := if d.follows ∨ d.pairState = psDetached then some d.kept.transit else none

/-- Commit a packet: handle, accession number and entry transit together; it then passes the classifier (R24, R74,
R128). -/
def Dev.commit (d : Dev) (p : Packet) : Option (Nat × Dev) :=
  let (a, d') := d.number
  match d'.storePkt { p with acc := a, transit := d.kept.transit, born := d.now, asIs := isMedium p.res } with
  | none => none
  | some (h, d') => some (h, { d'.noteIngress h with toClassify := d'.toClassify ++ [h] })

/-! ### Queues -/

/-- A queue. -/
def Dev.queue (d : Dev) (q : Nat) : Queue := sget d.queues q

/-- Replace a queue. -/
def Dev.setQueue (d : Dev) (q : Nat) (g : Queue) : Dev := { d with queues := sput d.queues q g }

/-- Packets of a queue, on chip and in the extension (DEDUCED, log entry 32). -/
def Queue.depth (g : Queue) : Nat := g.items.length + g.ext.length

/-- Does a queue's extension lie outside a deep-queue region of so many 256 MiB units? -/
def Dev.extOutside (d : Dev) (q units : Nat) : Bool :=
  d.on F.QCFG_A_SPILL_EN [q] && decide (units * 256 < d.rd F.QCFG_D_EXT_BASE [q] + d.rd F.QCFG_D_EXT_SIZE [q])

/-- Does the queue spill (R98, R102)? Not where its extension lies outside the region that `MEM_PART` has in force, as it may since
that took effect, or since a withdrawal that returned an older `QCFG_D`. -/
def Dev.spills (d : Dev) (q : Nat) : Bool :=
  d.rd F.QCFG_A_CLASS [q] == 2 && d.on F.QCFG_A_SPILL_EN [q] && d.rd F.QCFG_D_EXT_SIZE [q] != 0 && !d.memPart.any (d.extOutside q)

/-- The record of a watermark notice (R93). -/
def Dev.tellWatermark (d : Dev) (q : Nat) : Dev := d.event (d.rd F.QCFG_A_OWNER [q]) 0x0011 0 q

/-- Watermark notice and depth registers after a queue changed (R89–R93). -/
def Dev.wmCheck (d : Dev) (q : Nat) : Dev :=
  let g := d.queue q
  let n := g.depth
  let low := d.rd F.QCFG_B_LOW_WM [q]
  let high := d.rd F.QCFG_B_HIGH_WM [q]
  let d := d.wr F.QSTAT_DEPTH [q] g.items.length
  let d := d.wr F.QSTAT_EXT_DEPTH [q] (min 65535 g.ext.length)
  let d := d.wr F.WM_NOTICE_PEAK [q] (max n (d.rd F.WM_NOTICE_PEAK [q]))
  if n ≤ low then { d with queues := smod d.queues q fun g => { g with disarmed := false } }
  else if !g.disarmed && high < n && low < high then
    let first := d.rd F.WM_NOTICE_CROSSINGS [q] == 0 && !g.noticed
    let d := d.bump F.WM_NOTICE_CROSSINGS [q]
    let d := { d with queues := smod d.queues q fun g => { g with disarmed := true, noticed := g.noticed || first } }
    if first then d.tellWatermark q else d
  else d

/-- Queue entries that refer to a packet (R77) (DEDUCED, log entry 91). -/
def Dev.entriesOf (d : Dev) (h : Nat) : Nat := (d.queues.map fun e => (e.2.items.filter fun x => x.handle == h).length).sum

/-- Push a reference to a packet: OK, REFUSED_POLICY for an invalid queue, REFUSED_FULL for a full queue or a 65th
reference (R77, R84, R87, R88, R99, R101) (DEDUCED, log entry 33). -/
def Dev.enqueue (d : Dev) (q : Nat) (e : QEntry) : Nat × Dev :=
  let g := d.queue q
  let p := d.pkt e.handle
  let e := { e with pushed := d.now, own := d.ownMark, tally := tallyOf p }
  if !d.on F.QCFG_A_VALID [q] then (0x12, d)
  else if 64 ≤ d.entriesOf e.handle then (0x11, d)
  else if d.rd F.QCFG_A_LIMIT [q] ≤ g.depth then (0x11, d)
  else if d.spills q && (d.rd F.QCFG_C_SPILL_AT [q] ≤ g.items.length || !g.ext.isEmpty) then
    if d.rd F.QCFG_D_EXT_SIZE [q] * 1048576 < g.extBytes + p.data.length then (0x11, d)
    else
      let d := d.setQueue q { g with ext := g.ext ++ [(p, e)], extBytes := g.extBytes + p.data.length }
      (0, (d.noteEgress q p).wmCheck q)
  else
    let d := d.modPkt e.handle fun p => { p with refs := p.refs + 1 }
    let d := d.setQueue q { g with items := g.items ++ [e] }
    (0, (d.noteEgress q p).wmCheck q)

/-- The entry at the head of a queue's on-chip part that may be popped now (R86, R100, R396). -/
def Dev.front (d : Dev) (q : Nat) : Option QEntry :=
  match (d.queue q).items with
  | [] => none
  | e :: _ => if e.ready ≤ d.kept.transit then some e else none

/-- Take the head off a queue; its reference passes to the taker. -/
def Dev.pop (d : Dev) (q : Nat) : Dev :=
  let g := d.queue q
  let d := d.setQueue q { g with items := g.items.drop 1 }
  d.wmCheck q

/-- Pop the head and release its reference. -/
def Dev.popDrop (d : Dev) (q : Nat) : Dev :=
  match (d.queue q).items with
  | [] => d
  | e :: _ => (d.pop q).unref e.handle

/-- A committed frame's reference that a full queue refuses: `DROP_QFULL` of its ingress resource advances (R88). -/
def Dev.dropFull (d : Dev) (res : Nat) : Dev := if res < 128 then d.bump F.DROP_QFULL_COUNT [res] else d

/-- A packet rewound after it had taken `n` cells, which it returns (R75). -/
def Dev.rewindCells (d : Dev) (w n : Nat) : Dev :=
  match d.freeHandle with
  | none => d
  | some _ =>
    match d.takeCells w n with
    | none => d
    | some (own, d) => d.returnCells w own (n - own)

/-- A packet rewound for want of a cell: it had taken every cell its writer could have. What its word buffer still holds as it ends is
judged then (R79) (DESIGN CHOICE, log entry 116). -/
def Dev.rewound (d : Dev) (w : Nat) : Dev := d.rewindCells w (d.cellsLeft w)

/-- A frame rewound for lack of a cell or a handle (R79). -/
def Dev.dropNoCell (d : Dev) (res : Nat) : Dev :=
  let d := d.rewound res
  if res < 128 then d.bump F.DROP_NOCELL_COUNT [res] else d

/-- A frame of `n` bytes is rewound: at its end, or before it, for want of a cell or of a handle, where its words filled the word buffer of
512 bytes first (R75, R79). -/
def Dev.rewindPacket (d : Dev) (w n : Nat) : Dev :=
  if 128 * d.cellsLeft w + 512 < n ∨ (512 < n ∧ d.freeHandle.isNone) then d.dropNoCell w
  else d.rewindCells w (min (cellsFor n) (d.cellsLeft w))

/-- Refill the on-chip part from the extension, oldest first, while its depth is below SPILL_AT/2 and cells can be had
(R100, R103). The packet keeps its ingress resource as writer, so its cells come first from that one's reserve (DESIGN CHOICE, log
entry 118). Recursion is on a copy of the extension (DESIGN CHOICE, log entry 118). -/
def Dev.refillFrom (q : Nat) : List (Packet × QEntry) → Dev → Dev
  | [], d => d
  | (p, e) :: rest, d =>
    if (d.queue q).items.length * 2 < d.rd F.QCFG_C_SPILL_AT [q] then
      match d.storePkt p with
      | none => d
      | some (h, d) =>
        let d := { d with queues := smod d.queues q fun g =>
          { g with items := g.items ++ [{ e with handle := h }], ext := g.ext.drop 1,
                   extBytes := g.extBytes - p.data.length } }
        Dev.refillFrom q rest (d.wmCheck q)
    else d

/-- When `MEM_PART` takes effect, queues whose extension lies outside the region do not spill (R102, R105). -/
def Dev.fixPartition (d : Dev) : Dev :=
  match d.memPart with
  | some _ => d
  | none =>
    let units := d.rd F.MEM_PART_DEEP_UNITS
    let d := { d with memPart := some units }
    if (List.range 4096).any fun q => d.extOutside q units then d.wr F.STACKS_STATUS_EXT_REJECT [] 1 else d

/-- May a queue's extension lie where a write of `QCFG_A` or `QCFG_D` would put it (R102)? A queue whose `SPILL_EN` the device ignores,
and an extension of size 0, are judged like the others (DESIGN CHOICE, log entry 119). -/
def Dev.extOk (d : Dev) (q : Nat) : Bool :=
  if d.on F.QCFG_A_SPILL_EN [q] then
    let units := d.memPart.getD (d.rd F.MEM_PART_DEEP_UNITS)
    let b := d.rd F.QCFG_D_EXT_BASE [q]
    let n := d.rd F.QCFG_D_EXT_SIZE [q]
    decide (b + n ≤ units * 256) &&
      (List.range 4096).all fun k => k == q || !(d.on F.QCFG_A_SPILL_EN [k]) ||
        decide (b + n ≤ d.rd F.QCFG_D_EXT_BASE [k]) ||
        decide (d.rd F.QCFG_D_EXT_BASE [k] + d.rd F.QCFG_D_EXT_SIZE [k] ≤ b)
  else true

end Sys2Proof.Machine
end

