-- ==== Sys2Proof/Machine/Gate.lean ====
section
/-! DEFINITION. The internal bridges: call slips and serials, quiesce gates, and how a request that meets a gate that is
not open ends (R427–R459). -/

namespace Sys2Proof.Machine

/-- Parts of R427. -/
def isPart (p : Nat) : Bool :=
  p ≤ 0x13 || (0x20 ≤ p && p ≤ 0x33) || (0x40 ≤ p && p ≤ 0x57) || (0x60 ≤ p && p ≤ 0x6F) || p == 0x70 || p == 0x71 ||
    p == 0x78 || p == 0x7C || p == 0x7E || (0x80 ≤ p && p ≤ 0x83) || p == 0x88 || p == 0x89 || p == 0x8A ||
    (0x8C ≤ p && p ≤ 0x92) || p == 0x94 || p == 0x95 || p == 0x96

/-- Parts with a quiesce gate (R427). -/
def isGated (p : Nat) : Bool :=
  p ≤ 0x13 || (0x20 ≤ p && p ≤ 0x33) || (0x40 ≤ p && p ≤ 0x57) || (0x60 ≤ p && p ≤ 0x6F) || p == 0x70 || p == 0x71 ||
    p == 0x78 || (0x80 ≤ p && p ≤ 0x83)

/-- A gate; an ungated part's is open in every state (R448, R458). -/
def Dev.gate (d : Dev) (p : Nat) : Gate := sget d.gates p
def Dev.modGate (d : Dev) (p : Nat) (f : Gate → Gate) : Dev := { d with gates := smod d.gates p f }

/-- Does a part's gate let a request pass? -/
def Dev.gateOpen (d : Dev) (p : Nat) : Bool := (d.gate p).st == 0

/-- Is a serial of a requester free (R439)? -/
def Dev.serialFree (d : Dev) (req s : Nat) : Bool := !(d.slips.any fun x => x.requester == req && x.serial == s)

/-- Issue a split request of so many pieces: its serial is the requester's next one that is not in use (R436, R439, R444); none where
all are. -/
def Dev.issue (d : Dev) (req tgt pieces : Nat) : Option (Nat × Dev) :=
  let n := sget d.serials req
  match (List.range (d.slips.length + 1)).find? fun k => d.serialFree req ((n + k) % 16777216) with
  | none => none
  | some k =>
    let s := (n + k) % 16777216
    let x : Slip := { requester := req, reqEpoch := (d.gate req).epoch, target := tgt, targetEpoch := (d.gate tgt).epoch, serial := s }
    some (s, { d with serials := sput d.serials req ((s + 1) % 16777216),
                      slips := d.slips ++ (List.range pieces).map fun i => { x with piece := i } })

/-- A request reaches a part that answers it at once, or a gate that is not open and completes it at once PART_ABSENT: its serial returns
to use, or stays in use for its time (R436, R439, R450). The pieces of a cut transfer share it (R444). -/
def Dev.ask (d : Dev) (req tgt : Nat) (pieces : Nat := 1) : Dev :=
  match d.issue req tgt pieces with
  | none => d
  | some (s, d) =>
    { d with slips := if d.gateOpen tgt then d.slips.filter fun x => !(x.requester == req && x.serial == s)
                      else d.slips.map fun x => if x.requester = req ∧ x.serial = s then { x with ended := some d.now } else x }

/-- In how many pieces a transfer of `len` bytes from an address on is cut at every multiple of `m` (R443). -/
def pieces (m a len : Nat) : Nat := cdiv (a % m + len) m

/-- A host port reads host memory: the read is cut at every 4 KiB and every Max_Read_Request_Size, and no piece carries more than 256 bytes
(R443, R444). Host memory is no part of R427: the slip's target is the port itself (PRESUMED, log entry 168). -/
def Dev.readHost (d : Dev) (p a len : Nat) : Dev :=
  if len = 0 then d else d.ask (0x80 + p) (0x80 + p) (pieces (min 256 (sget d.pcie p).readRequest) a len)

/-- A request passes its gate: its slip takes the target's epoch (R436). -/
def Dev.passGate (d : Dev) (req s p : Nat) : Dev :=
  { d with slips := d.slips.map fun x => if x.requester = req ∧ x.serial = s then { x with targetEpoch := (d.gate p).epoch } else x }

/-- A host port accepts 32 inbound split requests at once (R435). -/
def Dev.portAccepts (d : Dev) (port : Nat) : Bool :=
  4 ≤ port || decide ((d.slips.filter fun x => x.requester == 0x80 + port && x.piece == 0 && x.ended.isNone).length < 32)

/-- The slip of a serial. -/
def Dev.slipOf (d : Dev) (req s : Nat) : Option Slip := d.slips.find? fun x => x.requester == req && x.serial == s

/-- A reply is collected or discarded: its serial is free (R439). -/
def Dev.collect (d : Dev) (req s : Nat) : Dev :=
  { d with slips := d.slips.filter fun x => !(x.requester == req && x.serial == s) }

/-- A request completes TIMED_OUT or PART_ABSENT before its reply: its serial stays in use (R439). -/
def Dev.endSlip (d : Dev) (req s : Nat) : Dev :=
  { d with slips := d.slips.map fun x => if x.requester = req ∧ x.serial = s then { x with ended := some d.now } else x }

/-- `BRIDGE_LAST` of a port records the latest host request that ended PART_ABSENT or TIMED_OUT (R442, R451, R458). -/
def Dev.bridgeLast (d : Dev) (port code part : Nat) : Dev :=
  ((d.wr F.BRIDGE_LAST_NEW [port] 1).wr F.BRIDGE_LAST_CODE [port] code).wr F.BRIDGE_LAST_PART [port] part

/-- A request with a hold limit of 0 meets a gate that is not open: PART_ABSENT, and `GATE_ABSENT` advances (R198, R450). -/
def Dev.absent (d : Dev) (p : Nat) : Dev := d.bump F.GATE_ABSENT_COUNT [p]

/-- A gate leaves OPEN (R448). -/
def Dev.drain (d : Dev) (p : Nat) : Dev :=
  if isGated p && d.gateOpen p then d.modGate p fun g => { g with st := 1, since := d.now } else d

/-- A side-effect read ends without its reply delivered: it changes nothing (R456). -/
def Dev.dropRead (d : Dev) (port s : Nat) : Dev :=
  { d with pendReads := d.pendReads.filter fun r => !(r.port == port && r.id == s) }

/-- Has a waiting request's hold limit passed: so many transit boundaries, by its requester, since its arrival (R39, R450)? Where the gate
opens at the boundary at which the limit ends, the request passes (R452): the limit has passed once that boundary lies behind. -/
def Dev.holdOver (d : Dev) (r : GateReq) : Bool :=
  let host := match r.port with | some p => decide (p < 4) | none => false
  let last := r.arrived + (if host then d.rd F.BRIDGE_HOLD_HOST_HOLD else d.rd F.BRIDGE_HOLD_INTERNAL_HOLD)
  decide (last < d.kept.transit) || (last == d.kept.transit && decide (d.tickStart < d.now))

/-- A request's hold limit passes at a gate: a split request completes PART_ABSENT and a posted write is discarded; a host read returns
ones in every word (R450, R451). -/
def Dev.reqAbsent (p : Nat) (r : GateReq) (d : Dev) : Dev :=
  let d := d.absent p
  let d := if r.write = [] then d.endSlip r.requester r.serial else d
  let d := match r.effect with
    | some e => let d := d.complete e.ref 0x20; if e.handle = 0 then d else d.unref e.handle
    | none => d
  match r.port with
  | none => d
  | some port =>
    let d := if port < 4 then d.bridgeLast port 0x20 p else d
    if r.write = [] then d.emit (.read port (r.words.map fun _ => 0xFFFFFFFF#32)) else d

/-- A requester's epoch has advanced: its requests that wait at a gate are removed without effect and without a count (R452). -/
def Dev.forgetRequests (d : Dev) (req : Nat) : Dev :=
  let at_ := (d.gates.map fun e => e.2.waiting.filter fun w => w.requester == req).flatten
  let d := { d with gates := smap (fun _ g => { g with waiting := g.waiting.filter fun w => w.requester != req }) d.gates }
  at_.foldl (fun d w =>
    let d := if w.write = [] then d.collect w.requester w.serial else d
    -- the host item behind it ends without effect; its completion is one that the reset discards (R422)
    match w.effect with
    | some e => let d := d.complete e.ref 0x60; if e.handle = 0 then d else d.unref e.handle
    | none => d) d

/-- A draining gate enters CLOSED: every admitted request still unanswered completes PART_ABSENT, and the epoch advances
(R437, R449). `late` names the unanswered ones by requester and serial, of the reads that the part performs behind its gate (R428);
while there are such, the gate waits for the first boundary (R39, R448). -/
def closeGate (p : Nat) (late : List (Nat × Nat)) (d : Dev) : Dev :=
  let hit (x : Slip) : Bool := x.target == p && x.piece == 0 && x.ended.isNone && late.contains (x.requester, x.serial) &&
    d.pendReads.any fun r => r.behind && r.id == x.serial && 0x80 + r.port == x.requester
  let gone := d.slips.filter hit
  if (d.gate p).st ≠ 1 ∨ (gone ≠ [] ∧ d.tickStart ≤ (d.gate p).since) then d
  else
    let d := d.modGate p fun g => { g with st := 2, epoch := (g.epoch + 1) % 256 }
    let d := if 0x80 ≤ p ∧ p ≤ 0x83 then d.forgetRequests p else d
    if gone.isEmpty then d
    else
      let d := gone.foldl (fun d x =>
        let words := (d.slips.filter fun y => y.requester == x.requester && y.serial == x.serial).length
        let d := d.endSlip x.requester x.serial
        let port := x.requester - 0x80
        let d := d.dropRead port x.serial
        (if port < 4 then d.bridgeLast port 0x20 p else d).emit (.read port (List.replicate words 0xFFFFFFFF#32))) d
      (d.noticeEntry p 0 0x20).bump F.DRAIN_OVERRUN_COUNT [p]

/-- At a boundary the gate of a host port that has closed opens again, where its link is up (R439, R448) (DEDUCED, log entry 61). -/
def Dev.reopenPorts (d : Dev) : Dev :=
  [0, 1, 2, 3].foldl (fun d p =>
    if (d.gate (0x80 + p)).st = 2 ∧ !(d.gate (0x80 + p)).quiesced ∧ d.on F.HOST_PORT_LINK_UP [p] then d.modGate (0x80 + p) fun g => { g with st := 0 }
    else d) d

/-- A waiting request's hold limit passes (R450): the oldest whose limit has passed ends. -/
def holdExpired (p : Nat) (d : Dev) : Dev :=
  match (d.gate p).waiting.find? d.holdOver with
  | none => d
  | some r => Dev.reqAbsent p r (d.modGate p fun g => { g with waiting := g.waiting.filter (· != r) })

/-- A reply is discarded where its epochs or its serial are not those of an outstanding request (R438). -/
def Dev.isStale (d : Dev) (x : Slip) : Bool :=
  (d.gate x.target).epoch != x.targetEpoch || (d.gate x.requester).epoch != x.reqEpoch ||
    !(d.slips.any fun y => y.requester == x.requester && y.serial == x.serial && y.ended.isNone)

/-- A stale reply delivers nothing; `STALE_REPLY` of the replying part advances (R438), and the serial of a request that it was to
answer is free. A late reply to a request that has ended frees nothing: its serial stays in use for its time (R439). -/
def staleReply (x : Slip) (d : Dev) : Dev :=
  if !d.isStale x then d
  else
    let d := if isPart x.target then d.bump F.STALE_REPLY_COUNT [x.target] else d
    if d.slips.contains { x with ended := none } then (d.dropRead (x.requester - 0x80) x.serial).collect x.requester x.serial else d

/-- 100 ms after its TIMED_OUT or PART_ABSENT a serial returns to use (R439). -/
def serialRelease (req s : Nat) (d : Dev) : Dev :=
  { d with slips := d.slips.filter fun x =>
      !(x.requester == req && x.serial == s && (match x.ended with | some t => decide (t + 100000000 ≤ d.now) | none => false)) }

/-- A reply to a host read is not collected within `COLLECT_LIMIT` of its arrival (R442): TIMED_OUT, and nothing of it acts. -/
def collectTimeout (port s : Nat) (d : Dev) : Dev :=
  match d.slipOf (0x80 + port) s with
  | none => d
  | some x =>
    let due := d.pendReads.any fun r => r.port == port && r.id == s && decide (r.since + d.rd F.BRIDGE_TIMER_COLLECT_LIMIT * 1000 ≤ d.now)
    if x.ended.isSome ∨ !due then d
    else (((d.dropRead port s).endSlip (0x80 + port) s).bump F.COLLECT_TIMEOUT_COUNT [port]).bridgeLast port 0x21 x.target

end Sys2Proof.Machine
end

