-- ==== Sys2Proof/Machine/Parse.lean ====
section
/-! DEFINITION. The parse graph, payload matching, keys, lookup, header edits and hash spreading of the classifier, as
functions of a packet and the tables (R128–R168). -/

namespace Sys2Proof.Machine

/-! ### Header kinds (R130) -/

def hkEth : Nat := 0x01
def hkTag : Nat := 0x02
def hkSecTag : Nat := 0x03
def hkIpv4 : Nat := 0x04
def hkIpv6 : Nat := 0x05
def hkIpv6Ext : Nat := 0x06
def hkUdp : Nat := 0x07
def hkTcp : Nat := 0x08
def hkPtp : Nat := 0x09
def hkAvtp : Nat := 0x0A
def hkAcf : Nat := 0x0B
def hkDoip : Nat := 0x0C
def hkDiag : Nat := 0x0D
def hkCan : Nat := 0x0E
def hkLin : Nat := 0x0F
def hkPayload : Nat := 0x10

/-- Parse flags (R149). -/
def pfHdrLimit : Nat := 0x01
def pfTagDepth : Nat := 0x02
def pfTunnelDepth : Nat := 0x04
def pfMalformed : Nat := 0x08
def pfEncrypted : Nat := 0x10
def pfMultiAcf : Nat := 0x20
def pfFragment : Nat := 0x40
def pfBad : Nat := 0x80

/-- The limits and settings of the parser (R132–R134). -/
structure ParseCfg where
  maxBytes : Nat := 192
  maxHeaders : Nat := 16
  tpid0 : Nat := 0
  tpid1 : Nat := 0
  avtpUdp : Nat := 0
  doip : Nat := 0
  edges : List (Nat × Nat × Nat) := []      -- FROM, value, TO of each valid added edge
  deriving DecidableEq, Repr, Inhabited

/-- The parser's settings as the registers hold them. -/
def Dev.parseCfg (d : Dev) : ParseCfg :=
  { maxBytes := 16 * d.rd F.PARSE_CFG_MAX_BYTES, maxHeaders := d.rd F.PARSE_CFG_MAX_HEADERS,
    tpid0 := d.rd F.PARSE_TPID_TPID0, tpid1 := d.rd F.PARSE_TPID_TPID1,
    avtpUdp := d.rd F.PARSE_PORTS_AVTP_UDP, doip := d.rd F.PARSE_PORTS_DOIP,
    edges := ((List.range 32).filter fun k => d.on F.PARSE_EDGE_VALID [k]).map fun k =>
      (d.rd F.PARSE_EDGE_FROM [k], d.rd F.PARSE_EDGE_VALUE [k], d.rd F.PARSE_EDGE_TO [k]) }

/-- CAN DLC that covers a data length: the smallest code (R165). -/
def dlcFor (n : Nat) : Nat :=
  if n ≤ 8 then n else if n ≤ 12 then 9 else if n ≤ 16 then 10 else if n ≤ 20 then 11
  else if n ≤ 24 then 12 else if n ≤ 32 then 13 else if n ≤ 48 then 14 else 15

/-- Data bytes of a DLC in a CAN FD frame. -/
def dlcLen (c : Nat) : Nat := [0, 1, 2, 3, 4, 5, 6, 7, 8, 12, 16, 20, 24, 32, 48, 64].getD c 64

/-- LIN protected identifier: the identifier with its two parity bits (ISO 17987). -/
def linPid (id : Nat) : Nat :=
  let b (i : Nat) : Nat := (bitAt id i).toNat
  let p0 := (b 0 + b 1 + b 2 + b 4) % 2
  let p1 := (b 1 + b 3 + b 4 + b 5 + 1) % 2
  id % 64 + 64 * p0 + 128 * p1

/-- The pseudo-header of a CAN frame (R109, R131). -/
def pseudoOf (f : CanFrame) : List Byte :=
  let fl := f.ide.toNat + 2 * f.rtr.toNat + 4 * f.fdf.toNat + 8 * f.brs.toNat + 16 * f.esi.toNat + 32 * f.xlf.toNat
  leBytes 4 f.id ++ leBytes 1 fl ++ leBytes 1 f.dlc ++ leBytes 2 f.len ++
    (if f.xlf then leBytes 1 f.sdt ++ leBytes 1 f.sec.toNat ++ leBytes 1 f.vcid ++ [0] ++ leBytes 4 f.af else [])

/-- A CAN frame read back from pseudo-header and data. -/
def canOfBytes (b : List Byte) : CanFrame :=
  let fl := byteAt b 4
  let xl := bitAt fl 5
  { id := ofLe (slice b 0 4), ide := bitAt fl 0, rtr := bitAt fl 1, fdf := bitAt fl 2, brs := bitAt fl 3, esi := bitAt fl 4,
    xlf := xl, dlc := byteAt b 5, len := ofLe (slice b 6 2),
    sdt := if xl then byteAt b 8 else 0, sec := xl && bitAt (byteAt b 9) 0, vcid := if xl then byteAt b 10 else 0,
    af := if xl then ofLe (slice b 12 4) else 0, data := b.drop (if xl then 16 else 8) }

/-- ACF message header length, by message type: FlexRay, CAN, CAN brief, LIN, MOST, GPC, serial, parallel, sensor, sensor brief, AECP,
ancillary, and the two bytes of type and length for the others (IEEE 1722; PRESUMED, log entry 8). -/
def acfHdrLen (ty : Nat) : Nat := [16, 16, 8, 12, 20, 8, 4, 4, 12, 4, 12, 12].getD ty 2

/-- Message type and length in bytes of the ACF message at an offset. -/
def acfType (b : List Byte) (o : Nat) : Nat := byteAt b o / 2
def acfLen (b : List Byte) (o : Nat) : Nat := 4 * ((byteAt b o % 2) * 256 + byteAt b (o + 1))

/-- The CAN or LIN packet that an ACF message carries (R165): `none` for another message type. -/
def acfPacket (b : List Byte) (o : Nat) : Option (PktKind × List Byte) :=
  let ty := acfType b o
  let pad := byteAt b (o + 2) / 64
  let hl := acfHdrLen ty
  let n := acfLen b o - hl - pad
  let data := slice b (o + hl) n
  if ty = 1 ∨ ty = 2 then
    let f := byteAt b (o + 2)
    let idw := ofBe (slice b (o + (if ty = 1 then 12 else 4)) 4) % 2 ^ 29
    let cf : CanFrame := { id := idw, ide := bitAt f 3, rtr := bitAt f 4, fdf := bitAt f 1, brs := bitAt f 2, esi := bitAt f 0, dlc := dlcFor n, len := n }
    some (.can, pseudoOf cf ++ data)
  else if ty = 3 then
    some (.lin, leBytes 1 (linPid (byteAt b (o + 3) % 64)) ++ leBytes 1 n ++ [0, 0] ++ data)
  else none

/-- The parser's running state. -/
structure PState where
  hdrs  : List Hdr := []
  flags : Nat := 0
  built : List Byte := []
  tags  : Nat := 0
  level : Nat := 0
  pos   : Nat := 0
  deriving DecidableEq, Repr, Inhabited

/-- Where the parse goes on after a header: the next kind with its offset and level, or the end. -/
inductive PNext
  | go (kind off level proto : Nat)
  | build (acf level : Nat)
  | stop (flag : Nat)
  deriving Repr

/-- The next header's kind after `value` was read from a header of kind `frm`, added edges first (R132, R133). -/
def nextKind (c : ParseCfg) (frm value : Nat) : Nat :=
  match c.edges.find? fun e => e.1 == frm && e.2.1 == value with
  | some e => e.2.2
  | none =>
    if frm = hkEth ∨ frm = hkTag then
      if value = 0x8100 ∨ value = 0x88A8 ∨ (value ≠ 0 ∧ (value = c.tpid0 ∨ value = c.tpid1)) then hkTag
      else if value = 0x0800 then hkIpv4 else if value = 0x86DD then hkIpv6 else if value = 0x22F0 then hkAvtp
      else if value = 0x88F7 then hkPtp else if value = 0x88E5 then hkSecTag else hkPayload
    else if frm = hkIpv4 ∨ frm = hkIpv6 ∨ frm = hkIpv6Ext then
      if value = 17 then hkUdp else if value = 6 then hkTcp
      else if frm ≠ hkIpv4 ∧ (value = 0 ∨ value = 43 ∨ value = 44 ∨ value = 60) then hkIpv6Ext else hkPayload
    else hkPayload

/-- The length of the header at `o`, or `none` where its own length field is below the minimum (R130, R137). An AVTP header of another
subtype, which an added edge can follow, has the 12 bytes of an NTSCF header (DEDUCED, log entry 81). -/
def hdrLen (b : List Byte) (kind o proto : Nat) : Option Nat :=
  if kind = hkEth then some 14
  else if kind = hkTag then some 4
  else if kind = hkSecTag then some (if bitAt (byteAt b (o + 2)) 5 then 16 else 8)
  else if kind = hkIpv4 then (let n := byteAt b o % 16 * 4; if n < 20 then none else some n)
  else if kind = hkIpv6 then some 40
  else if kind = hkIpv6Ext then some (if proto = 44 then 8 else 8 * (byteAt b (o + 1) + 1))
  else if kind = hkUdp then some 8
  else if kind = hkTcp then (let n := byteAt b (o + 12) / 16 * 4; if n < 20 then none else some n)
  else if kind = hkPtp then some 34
  else if kind = hkAvtp then some (if byteAt b o = 0x05 then 24 else 12)
  else if kind = hkAcf then some (acfHdrLen (acfType b o))
  else if kind = hkDoip then some 8
  else if kind = hkDiag then some 4
  else if kind = hkCan then some (if bitAt (byteAt b 4) 5 then 16 else 8)
  else if kind = hkLin then some 4
  else some 0

/-- The least length of a header of each kind (R130). -/
def hdrMin (kind : Nat) : Nat :=
  if kind = hkEth then 14 else if kind = hkIpv4 ∨ kind = hkTcp then 20 else if kind = hkIpv6 then 40
  else if kind = hkPtp then 34 else if kind = hkAvtp then 12 else if kind = hkAcf then 2
  else if kind = hkTag ∨ kind = hkDiag ∨ kind = hkLin then 4 else 8

/-- Where a header's length field says that the header and what it holds end, counted from the header's start, with the least value it
may have; `n` is the header's own length (R137). A header without such a field ends with itself. -/
def hdrSpan (b : List Byte) (kind o n : Nat) : Nat × Nat :=
  if kind = hkIpv4 then (ofBe (slice b (o + 2) 2), n)
  else if kind = hkIpv6 then (n + ofBe (slice b (o + 4) 2), n)
  else if kind = hkUdp then (ofBe (slice b (o + 4) 2), n)
  else if kind = hkPtp then (ofBe (slice b (o + 2) 2), n)
  else if kind = hkAvtp ∧ byteAt b o = 0x82 then (n + ofBe (slice b (o + 1) 2) % 2048, n)
  else if kind = hkAvtp ∧ byteAt b o = 0x05 then (n + ofBe (slice b (o + 20) 2), n)
  else if kind = hkAcf then (acfLen b o, n)
  else if kind = hkDoip then (n + ofBe (slice b (o + 4) 4), n)
  else if kind = hkCan then (n + ofLe (slice b 6 2), n)
  else if kind = hkLin then (n + byteAt b 1, n)
  else (n, n)

/-- Does the header at `o` break a rule of its length field (R137)? -/
def spanBad (b : List Byte) (kind o n : Nat) : Bool :=
  let (len, least) := hdrSpan b kind o n
  decide (len < least) || decide (b.length < o + len)

/-- UDP and TCP: the edge that the ports select (R132) (DESIGN CHOICE, log entry 155), the default ones in this order (DESIGN CHOICE, log entry 185). -/
def portEdge (c : ParseCfg) (frm src dst : Nat) : Nat :=
  match c.edges.find? fun e => e.1 == frm && (e.2.1 == dst || (frm == hkTcp && e.2.1 == src)) with
  | some e => e.2.2
  | none =>
    if frm = hkUdp ∧ (dst = 319 ∨ dst = 320) then hkPtp
    else if frm = hkUdp ∧ dst = c.avtpUdp then hkAvtp
    else if src = c.doip ∨ dst = c.doip then hkDoip
    else hkPayload

/-- The added edge that a field's value of a header selects (R133) (DESIGN CHOICE, log entry 156). -/
def addedEdge (c : ParseCfg) (frm value : Nat) : Option Nat := (c.edges.find? fun e => e.1 == frm && e.2.1 == value).map fun e => e.2.2

/-- Does the AVTP header lead to an ACF message (R132)? -/
def isAcfPdu (subtype : Nat) : Bool := subtype == 0x82 || subtype == 0x05

/-- What follows a header that was parsed at `o` with `n` bytes (R132, R133, R138–R140). -/
def pnext (c : ParseCfg) (b : List Byte) (kind o n level proto : Nat) : PNext :=
  let go (k off : Nat) : PNext := .go k off level 0
  if kind = hkEth ∨ kind = hkTag then
    -- the EtherType stands after the last tag; a tag and a SecTAG begin with it
    let e := if kind = hkEth then 12 else o + 4
    let k := nextKind c kind (ofBe (slice b e 2))
    if k = hkTag ∨ k = hkSecTag then go k e else go k (e + 2)
  else if kind = hkSecTag then .stop pfEncrypted
  else if kind = hkIpv4 then
    if ofBe (slice b (o + 6) 2) % 8192 ≠ 0 then .stop pfFragment
    else .go (nextKind c kind (byteAt b (o + 9))) (o + n) level (byteAt b (o + 9))
  else if kind = hkIpv6 then .go (nextKind c kind (byteAt b (o + 6))) (o + n) level (byteAt b (o + 6))
  else if kind = hkIpv6Ext then
    if proto = 44 ∧ ofBe (slice b (o + 2) 2) / 8 ≠ 0 then .stop pfFragment
    else .go (nextKind c kind (byteAt b o)) (o + n) level (byteAt b o)
  else if kind = hkUdp ∨ kind = hkTcp then
    let k := portEdge c kind (ofBe (slice b o 2)) (ofBe (slice b (o + 2) 2))
    -- AVTP over UDP follows a 4-byte encapsulation field and opens a tunnel level (R132, R136)
    if k = hkAvtp ∧ kind = hkUdp then .go k (o + n + 4) (level + 1) 0 else go k (o + n)
  else if kind = hkAvtp then go ((addedEdge c kind (byteAt b o)).getD hkAcf) (o + n)
  else if kind = hkAcf then
    if let some k := addedEdge c kind (acfType b o) then go k (o + n)
    else if acfType b o = 1 ∨ acfType b o = 2 ∨ acfType b o = 3 then .build o (level + 1) else .stop 0
  else if kind = hkDoip then
    if let some k := addedEdge c kind (ofBe (slice b (o + 2) 2)) then go k (o + n)
    else if ofBe (slice b (o + 2) 2) = 0x8001 then .go hkDiag (o + n) (level + 1) 0 else .stop 0
  else .stop 0

/-- The number of parsed headers of a kind. -/
def instOf (hs : List Hdr) (kind : Nat) : Nat := (hs.filter fun h => h.kind == kind).length

/-- Do further ACF messages follow the first one of the PDU, whose AVTP header stands at `avtp` (R139)? -/
def multiAcf (b : List Byte) (avtp acf : Nat) : Bool :=
  let n := if byteAt b avtp = 0x05 then ofBe (slice b (avtp + 20) 2) else ofBe (slice b (avtp + 1) 2) % 2048
  decide (acfLen b acf < n)

/-- The offset of the last parsed header of a kind. -/
def lastOff (hs : List Hdr) (kind : Nat) : Option Nat := ((hs.filter fun h => h.kind == kind).getLast?).bind (·.off)

/-- Is the header at `o` an AVTP header that no edge leads on from? It is then no header of R130. -/
def deadAvtp (c : ParseCfg) (b : List Byte) (kind o : Nat) : Bool :=
  kind == hkAvtp && decide (o < min b.length c.maxBytes) && !isAcfPdu (byteAt b o) && (addedEdge c hkAvtp (byteAt b o)).isNone

/-- The outcome of a header's checks, in their order: the flag that the parser stops with, or the header's length (R134–R137). A header
that cannot fit by its least length is judged before its bytes are read, and none is read beyond the byte limit (DESIGN CHOICE, log entry 157). The depths come before the number of headers (DESIGN CHOICE, log entry 186). -/
def judgeHdr (c : ParseCfg) (b : List Byte) (kind o level proto : Nat) (s : PState) : Nat ⊕ Nat :=
  if kind = hkTag ∧ s.tags = 4 then .inl pfTagDepth
  else if 2 < level then .inl pfTunnelDepth
  else if c.maxHeaders ≤ s.hdrs.length then .inl pfHdrLimit
  else if b.length < o + hdrMin kind then .inl pfMalformed
  else if c.maxBytes < o + hdrMin kind then .inl pfHdrLimit
  else
    match hdrLen b kind o proto with
    | none => .inl pfMalformed
    | some n =>
      if b.length < o + n then .inl pfMalformed
      else if c.maxBytes < o + n then .inl pfHdrLimit
      else if spanBad b kind o n then .inl pfMalformed
      else .inr n

/-- Walk the parse graph, one header a step (R134–R141). `s.pos` is where PAYLOAD begins if the next header is not parsed: right after
the last one. -/
def parseWalk (c : ParseCfg) (b : List Byte) : Nat → Nat → Nat → Nat → Nat → PState → PState
  | 0, _, _, _, _, s => { s with flags := s.flags ||| pfHdrLimit }
  | fuel + 1, kind, o, level, proto, s =>
    if kind = hkPayload ∨ deadAvtp c b kind o then s
    else
      match judgeHdr c b kind o level proto s with
      | .inl f => { s with flags := s.flags ||| f }
      | .inr n =>
        let h : Hdr := { kind, inst := instOf s.hdrs kind, level, off := some o, len := n }
        let s := { s with hdrs := s.hdrs ++ [h], tags := s.tags + (kind == hkTag).toNat, level := max s.level level, pos := o + n }
        let s := if kind = hkAcf ∧ multiAcf b ((lastOff s.hdrs hkAvtp).getD 0) o then { s with flags := s.flags ||| pfMultiAcf } else s
        match pnext c b kind o n level proto with
        | .stop f => { s with flags := s.flags ||| f }
        | .go k off lv pr => parseWalk c b fuel k off lv pr (if kind = hkUdp then s else { s with pos := off })
        | .build acf lv =>
          if 2 < lv then { s with flags := s.flags ||| pfTunnelDepth }
          else if c.maxHeaders ≤ s.hdrs.length then { s with flags := s.flags ||| pfHdrLimit }
          else
            match acfPacket b acf with
            | none => s
            | some (k, p) =>
              let kk := if k = .can then hkCan else hkLin
              let hl := if k = .can then 8 else 4
              { s with hdrs := s.hdrs ++ [{ kind := kk, inst := instOf s.hdrs kk, level := lv, off := none, len := hl }],
                       built := p.take hl, level := max s.level lv }

/-- Parse a packet's bytes (R128). The parser starts at the kind its medium gives (DEDUCED, log entry 81). -/
def parseBytes (c : ParseCfg) (kind : PktKind) (b : List Byte) : PState :=
  parseWalk c b 40 (match kind with | .eth => hkEth | .can => hkCan | .lin => hkLin) 0 0 0 {}

/-- The parsed header that a selector names: instance 15 is the last one (R150, R161) (DESIGN CHOICE, log entry 161). -/
def findHdr (hs : List Hdr) (kind inst level : Nat) : Option Hdr :=
  let l := hs.filter fun h => h.kind == kind && h.level == level
  if inst = 15 then l.getLast? else l.find? fun h => h.inst == inst

/-! ### Payload matching (R143–R145) -/

/-- Does a pattern match at a position of the packet? -/
def patAt (pat : Nat) (b : List Byte) (p len : Nat) : Bool :=
  (List.range len).all fun i => !bitAt (pat / 2 ^ 576) i || nbyte pat i == byteAt b (p + i)

/-- Does a pattern entry match a packet (R144)? (DESIGN CHOICE, log entry 158) (DESIGN CHOICE, log entry 159). -/
def patMatches (pat : Nat) (b : List Byte) (s : PState) : Bool :=
  let len := nbyte pat 68
  let ws := nbyte pat 64 + 256 * nbyte pat 65
  let we := nbyte pat 66 + 256 * nbyte pat 67
  let kind := nbyte pat 69
  let sel := nbyte pat 70
  if !bitAt sel 7 then false
  else if kind = 0 then
    let lim := min we (min b.length 1536)
    (List.range (lim + 1)).any fun p => decide (ws ≤ p) && decide (p + len ≤ lim) && patAt pat b p len
  else
    let at_ := if kind = hkPayload then some s.pos else (findHdr s.hdrs kind (sel % 16) (sel / 16 % 4)).bind (·.off)
    match at_ with
    | none => false
    | some o => decide (o + ws + len ≤ min b.length 1536) && patAt pat b (o + ws) len

/-- The match result of a pattern set: bits 11:0 index, bit 15 hit (R145, R149). -/
def Dev.matchSet (d : Dev) (set : Nat) (b : List Byte) (s : PState) : Nat :=
  if !d.gradeF ∨ set = 0xFF ∨ !d.on F.PM_SET_VALID [set] then 0
  else
    let first := d.rd F.PM_SET_FIRST [set]
    match (List.range (d.rd F.PM_SET_COUNT [set])).find? fun i => patMatches (sget d.kept.patterns (first + i)) b s with
    | some i => 0x8000 + (first + i)
    | none => 0

/-! ### Keys and lookup (R149–R156) -/

/-- One extract: its bytes, or `none` where it is not present (R150, R151) (DESIGN CHOICE, log entry 160). -/
def Dev.extract (d : Dev) (prof j : Nat) (b : List Byte) (s : PState) : Option (List Byte) × Nat :=
  let ix := [prof, j]
  let n := d.rd F.KP_EXT_LENGTH ix
  let kind := d.rd F.KP_EXT_KIND ix
  let off := d.rd F.KP_EXT_OFFSET ix
  if !d.on F.KP_EXT_VALID ix ∨ n = 0 then (none, 0)
  else if kind = hkPayload then
    let o := s.pos + off
    (if o + n ≤ b.length ∧ o + n ≤ 16 * d.rd F.PARSE_CFG_MAX_BYTES then some (slice b o n) else none, n)
  else
    match findHdr s.hdrs kind (d.rd F.KP_EXT_INSTANCE ix) (d.rd F.KP_EXT_LEVEL ix) with
    | none => (none, n)
    | some h =>
      match h.off with
      | none => (if off + n ≤ s.built.length then some (slice s.built off n) else none, n)
      | some o =>
        (if o + off + n ≤ b.length ∧ o + off + n ≤ 16 * d.rd F.PARSE_CFG_MAX_BYTES then some (slice b (o + off) n) else none, n)

/-- The 40-byte key of a packet (R149). -/
def Dev.keyOf (d : Dev) (p : Packet) (prof pm : Nat) (s : PState) : List Byte :=
  let ex := (List.range 8).map fun j => d.extract prof j p.data s
  let body := (ex.map fun e => e.1.getD (List.replicate e.2 0)).flatten
  let present := (ex.mapIdx fun j e => if e.1.isSome then 2 ^ j else 0).sum
  let host := decide (0x80 ≤ p.res)
  let meta_ := (if host then p.tenant % 16 + 16 else 0) + 32 * s.level
  leBytes 1 p.res ++ leBytes 1 (prof + 16 * s.tags) ++ leBytes 1 (s.flags + (if p.bad ≠ 0 then pfBad else 0)) ++ [0] ++
    leBytes 2 pm ++ leBytes 1 meta_ ++ leBytes 1 present ++ slice body 0 32

/-- The lowest matching valid TCAM entry (R153). -/
def tcamHit (t : Sparse TcamEntry) (key : Nat) : Option Nat :=
  (t.find? fun e => e.2.valid && (key ^^^ e.2.value) &&& e.2.mask == 0).map fun e => e.2.result

/-- The exact entry with a key (R152, R154). -/
def exactHit (t : Sparse ExactEntry) (key : Nat) : Option Nat :=
  (t.find? fun e => e.2.valid && e.2.key == key).map fun e => e.2.result

/-- The exact key: key bytes 0 and 1, then 16 bytes from `EXACT_OFF` (R152). -/
def exactKey (key : List Byte) (off : Nat) : Nat := ofLe (key.take 2 ++ slice key off 16)

/-- The chosen result and whether it is a miss (R155). -/
def Dev.lookup (d : Dev) (prof : Nat) (key : List Byte) : Nat × Bool :=
  let t := if d.on F.KP_CTL_TCAM_EN [prof] then tcamHit d.kept.tcam (ofLe key) else none
  let x := if d.on F.KP_CTL_EXACT_EN [prof] then exactHit d.kept.exact (exactKey key (d.rd F.KP_CTL_EXACT_OFF [prof])) else none
  match t, x with
  | some r, some y => if bitAt r 48 then (r, false) else (y, false)
  | some r, none => (r, false)
  | none, some y => (y, false)
  | none, none => (d.rd F.KP_DEFAULT_LO_RESULT [prof] + 2 ^ 32 * d.rd F.KP_DEFAULT_HI_RESULT [prof], true)

/-! ### Header edits (R161–R165) -/

/-- Byte `i` of operation `k` of a 64-byte action entry. -/
def opByte (act k i : Nat) : Nat := nbyte act (16 * k + i)

/-- The ACF message that carries a CAN or LIN packet, padded to whole quadlets (R164); `none` for a CAN XL frame. -/
def acfMessage (kind : PktKind) (b : List Byte) (bus : Nat) (ts : Nat) : Option (List Byte) :=
  match kind with
  | .eth => none
  | .can =>
    let f := canOfBytes b
    if f.xlf then none
    else
      let pad := roundUp f.data.length 4 - f.data.length
      let q := (16 + f.data.length + pad) / 4
      let fl := pad * 64 + 32 + 16 * f.rtr.toNat + 8 * f.ide.toNat + 4 * f.brs.toNat + 2 * f.fdf.toNat + f.esi.toNat
      some (leBytes 1 (2 + q / 256) ++ leBytes 1 (q % 256) ++ leBytes 1 fl ++ leBytes 1 bus ++ beBytes 8 ts ++
        beBytes 4 f.id ++ f.data ++ List.replicate pad 0)
  | .lin =>
    let data := b.drop 4
    let pad := roundUp data.length 4 - data.length
    let q := (12 + data.length + pad) / 4
    some (leBytes 1 (6 + q / 256) ++ leBytes 1 (q % 256) ++ leBytes 1 (pad * 64 + 32 + bus) ++
      leBytes 1 (byteAt b 0 % 64) ++ beBytes 8 ts ++ data ++ List.replicate pad 0)

/-- PUSH_TUNNEL's frame from a template (R164); none from a template that does not fit the packet (DESIGN CHOICE, log entry 189). -/
def pushTunnel (tmpl : Nat) (kind : PktKind) (b : List Byte) (ts : Nat) : Option (List Byte) :=
  let n := nbyte tmpl 0
  let form := nbyte tmpl 1
  if n < 26 ∨ 96 < n ∨ !((form = 1 ∧ kind = .can) ∨ (form = 2 ∧ kind = .lin)) then none
  else
    match acfMessage kind b (nbyte tmpl 3 % 32) ts with
    | none => none
    | some m =>
      let hdr := (List.range n).map fun i => BitVec.ofNat 8 (nbyte tmpl (32 + i))
      let o := n - 12
      let hdr := patch hdr (o + 1) [BitVec.ofNat 8 (byteAt hdr (o + 1) / 8 * 8 + m.length / 256), BitVec.ofNat 8 (m.length % 256),
        BitVec.ofNat 8 (nbyte tmpl 2)]
      some (hdr ++ m)

/-- What an edit works on. -/
structure EditState where
  kind : PktKind := .eth
  data : List Byte := []
  templates : Sparse Nat := []
  deriving DecidableEq, Repr, Inhabited

/-- One operation (R162): `none` where it fails (R163). `op` gives its 16 bytes (DESIGN CHOICE, log entry 162) (DESIGN CHOICE, log entry 163). Only
REWRITE reads `KIND` and `SEL` (DESIGN CHOICE, log entry 188). -/
def editOp (c : ParseCfg) (ts : Nat) (op : Nat → Nat) (e : EditState) : Option EditState :=
  let code := op 0
  let s := parseBytes c e.kind e.data
  let fits (x : EditState) : Option EditState := if 9216 < x.data.length then none else some x
  if code = 0 then (if op 4 = 0 then some e else none)
  else if code = 1 then
    let n := op 4
    match findHdr s.hdrs (op 1) (op 2 % 16) (op 2 / 16 % 4) with
    | none => none
    | some h =>
      match h.off with
      | none => none
      | some o =>
        if n = 0 ∨ 4 < n ∨ h.len < op 3 + n then none
        else
          let nb := (List.range n).map fun i =>
            let b := byteAt e.data (o + op 3 + i)
            let m := op (12 + i)
            BitVec.ofNat 8 ((b &&& (255 - m)) ||| (op (8 + i) &&& m))
          some { e with data := patch e.data (o + op 3) nb }
  else if op 4 ≠ 0 then none
  else if code = 2 then
    if e.kind ≠ .eth ∨ (findHdr s.hdrs hkEth 0 0).isNone ∨ 4 ≤ s.tags then none
    else fits { e with data := e.data.take 12 ++ (List.range 4).map (fun i => BitVec.ofNat 8 (op (8 + i))) ++ e.data.drop 12 }
  else if code = 3 then
    if e.kind ≠ .eth ∨ (findHdr s.hdrs hkEth 0 0).isNone ∨ s.tags = 0 then none
    else some { e with data := e.data.take 12 ++ e.data.drop 16 }
  else if code = 4 then
    match lastOff s.hdrs hkAcf, s.built with
    | _, [] => none
    | none, _ => none
    | some o, _ =>
      match acfPacket e.data o with
      | none => none
      | some (k, p) => some { e with kind := k, data := p }
  else if code = 5 then
    let t := sget e.templates (op 5)
    match pushTunnel t e.kind e.data ts with
    | none => none
    | some b =>
      let t' := insBits t 23 16 (nbyte t 2 + 1)
      fits { kind := .eth, data := b, templates := sput e.templates (op 5) t' }
  else none

/-- The four operations of an action, in order (R161): whether all of them took effect, and what the edit then works on. A template
used before a later operation fails has been used (R164). -/
def editAll (c : ParseCfg) (ts act : Nat) (e : EditState) : Bool × EditState :=
  [0, 1, 2, 3].foldl (fun (ok, e) k =>
    if ok then (match editOp c ts (opByte act k) e with | some e' => (true, e') | none => (false, e)) else (ok, e)) (true, e)

/-! ### Hash spreading (R167) -/

/-- One input bit of the Toeplitz hash: `key` holds the secret's bits from the most significant, `pos` counts input bits. -/
def toeplitzBits (key : Nat) (bits : Nat) : List Bool → Nat → BitVec 32 → BitVec 32
  | [], _, h => h
  | b :: r, pos, h =>
    toeplitzBits key bits r (pos + 1)
      (if b then h ^^^ BitVec.ofNat 32 (key / 2 ^ (bits - 32 - pos)) else h)

/-- The Toeplitz hash of some bytes under a 44-byte secret (R167). -/
def toeplitz (secret input : List Byte) : Nat :=
  let bits := (input.map fun b => [7, 6, 5, 4, 3, 2, 1, 0].map fun i => b.getLsbD i).flatten
  (toeplitzBits (ofBe secret) (8 * secret.length) bits 0 0#32).toNat

/-- The spreading hash of a key for a tenant and profile. -/
def Dev.spreadHash (d : Dev) (prof tenant : Nat) (key : List Byte) : Nat :=
  let mask := d.rd F.KP_SPREAD_LO_MASK [prof] + 2 ^ 32 * d.rd F.KP_SPREAD_HI_MASK [prof]
  let input := ((List.range 40).filter fun i => bitAt mask i).map fun i => key.getD i 0
  let secret := ((List.range 11).map fun w => leBytes 4 (d.rd F.SPREAD_KEY_KEY [tenant, w])).flatten
  if input = [] then 0 else toeplitz secret input

/-- Indirection entry `i` of a tenant (R168). -/
def Dev.indirEntry (d : Dev) (t i : Nat) : Nat := nbyte (d.rd F.INDIR_ENTRIES [t, i / 4]) (i % 4)

end Sys2Proof.Machine
end

