-- ==== Sys2Proof/Machine/Folio.lean ====
section
/-! DEFINITION. Transmit folios of the CAN channels: what a folio holds, how a queue feeds one, and the push onto a queue (R245, R246,
R257). -/

namespace Sys2Proof.Machine

/-- Resource code and part number of a CAN channel (R43, R427). -/
def canPart (ch : Nat) : Nat := 0x40 + ch

def Dev.canCh (d : Dev) (ch : Nat) : CanCh := sget d.can ch
def Dev.modCan (d : Dev) (ch : Nat) (f : CanCh → CanCh) : Dev := { d with can := smod d.can ch f }
def Dev.folio (d : Dev) (ch k : Nat) : Folio := sget (d.canCh ch).folios k
def Dev.modFolio (d : Dev) (ch k : Nat) (f : Folio → Folio) : Dev :=
  d.modCan ch fun c => { c with folios := smod c.folios k f }

/-- `CAN_STATUS.STATE`: 0 error-active, 1 error-passive, 2 bus-off, 3 integrating or disabled. -/
def Dev.canState (d : Dev) (ch : Nat) : Nat := d.rd F.CAN_STATUS_STATE [ch]

/-- Can the channel carry the frame's format (R226, R234)? -/
def Dev.canFormat (d : Dev) (ch : Nat) (f : CanFrame) : Bool :=
  if f.xlf then decide (ch < 8) && d.on F.CAN_CFG_XL_EN [ch] else !f.fdf || d.on F.CAN_CFG_FD_EN [ch]

/-- Data bytes a folio holds. -/
def folioCap (ch k : Nat) : Nat := if ch < 8 ∧ k < 8 then 2048 else 64

/-- Does the pseudo-header agree with itself and with its bytes (R246)? -/
def pseudoAgrees (b : List Byte) : Bool :=
  let f := canOfBytes b
  decide ((if f.xlf then 16 else 8) ≤ b.length) && decide (f.len = f.data.length) &&
    (if f.xlf then decide (1 ≤ f.len) && decide (f.len ≤ 2048)
     else if f.rtr then f.len == 0 && decide (f.dlc ≤ 15)
     else if f.fdf then f.dlc == dlcFor f.len && dlcLen f.dlc == f.len
     else decide (f.len ≤ 8) && (f.dlc == f.len || (f.len == 8 && decide (f.dlc ≤ 15) && decide (8 ≤ f.dlc))))

/-- Can a folio hold a packet (R246)? -/
def Dev.folioHolds (d : Dev) (ch k : Nat) (kind : PktKind) (b : List Byte) : Bool :=
  kind == .can && pseudoAgrees b && d.canFormat ch (canOfBytes b) && decide ((canOfBytes b).data.length ≤ folioCap ch k)

/-- Place a frame that comes from a queue: its departure is the queue's (R675). -/
def Dev.feedPlace (d : Dev) (ch k q tally : Nat) (b : List Byte) (acc : Nat) : Dev :=
  d.modFolio ch k fun f =>
    { st := 1, data := b, coll := 0, last := f.last, born := d.kept.transit, acc, tally, queue := some q }

/-- A queue-fed folio that is empty takes the next packet of its queue, or releases it where it cannot hold it and goes on to
the one behind it, through at most as many packets as the number given (R245, R246, R257); none after the commit of sleep, which releases
what is queued (R540). -/
def Dev.feedFolio (ch k : Nat) : Nat → Dev → Dev
  | 0, d => d
  | n + 1, d =>
  if d.on F.FOLIO_CFG_VALID [ch, k] && d.rd F.FOLIO_CFG_SOURCE [ch, k] == 2 && (d.folio ch k).st == 0 &&
      d.canState ch != 2 && d.gateOpen (canPart ch) && !d.quiet && !d.park.committed then
    let q := d.rd F.FOLIO_CFG_SRC_ID [ch, k]
    match d.front q with
    | none => d
    | some e =>
      let p := d.pkt e.handle
      let d := (d.pop q).unref e.handle
      if d.folioHolds ch k p.kind p.data then d.feedPlace ch k q e.tally p.data p.acc
      else Dev.feedFolio ch k n (d.bump F.CAN_FEED_REJECT_COUNT [ch])
  else d

/-- Every queue-fed folio of a channel, in order of its number. -/
def feedFolios (ch : Nat) (d : Dev) : Dev :=
  (List.range 64).foldl (fun d k => Dev.feedFolio ch k ((d.queue (d.rd F.FOLIO_CFG_SRC_ID [ch, k])).items.length) d) d

/-- A folio that has become empty takes the next packet of its queue. -/
def Dev.refeed (d : Dev) (ch k : Nat) : Dev := Dev.feedFolio ch k (d.queue (d.rd F.FOLIO_CFG_SRC_ID [ch, k])).items.length d

/-- The queue-fed folios that registers name, with their queues. -/
def Dev.fedFolios (d : Dev) : List (Nat × Nat × Nat) :=
  d.kept.regs.filterMap fun e =>
    let (a, w) := (e.1, e.2.toNat)
    let off := a % 0x2000
    if 0x180000 ≤ a ∧ a < 0x1B0000 ∧ 0x600 ≤ off ∧ off < 0x700 ∧ bitAt w 31 ∧ bitsOf w 30 29 = 2 then
      some ((a - 0x180000) / 0x2000, (off - 0x600) / 4, bitsOf w 27 16)
    else none

/-- Feed the folios of some queues. -/
def Dev.feedWhere (d : Dev) (p : Nat → Bool) : Dev :=
  (d.fedFolios.filter fun x => p x.2.2).foldl (fun d x => Dev.feedFolio x.1 x.2.1 (d.queue x.2.2).items.length d) d

/-- Push a reference to a packet; an empty folio that the queue feeds takes it (R245). -/
def Dev.pushFed (d : Dev) (q : Nat) (e : QEntry) : Nat × Dev :=
  let (code, d) := d.enqueue q e
  (code, if code = 0 then d.feedWhere (· == q) else d)

end Sys2Proof.Machine
end

