-- ==== Sys2Proof/Machine/Time.lean ====
section
/-! DEFINITION. Time domains: the four clocks, the servo, the jump guard, occultation and the partner, set and
accept-step (R334–R358, R370–R373). -/

namespace Sys2Proof.Machine

/-- States of a domain (R341). -/
def tdOff : Nat := 0
def tdFree : Nat := 1
def tdLocked : Nat := 2
def tdHoldover : Nat := 3
def tdFollowing : Nat := 4
def tdMaster : Nat := 5
def tdDerived : Nat := 6

/-- 1 ns, and 1 ppb, in the units of times and rates. -/
def nsUnit : Int := 65536
def ppbUnit : Int := 4294967296

def Dev.tdState (d : Dev) (i : Nat) : Nat := d.rd F.TD_STATE_STATE [i]
def Dev.setTd (d : Dev) (i st : Nat) : Dev := d.wr F.TD_STATE_STATE [i] st
def Dev.servo (d : Dev) (i : Nat) : Servo := sget d.kept.servos i
def Dev.modServo (d : Dev) (i : Nat) (f : Servo → Servo) : Dev :=
  d.modK fun k => { k with servos := smod k.servos i f }

/-- Does a domain run (its time can be read)? -/
def Dev.tdRuns (d : Dev) (i : Nat) : Bool := d.tdState i != tdOff

/-- Put a domain on a new segment from now on; TD0's segments are kept with the accession number each begins at (R338). -/
def Dev.setSeg (d : Dev) (i : Nat) (t rate : Int) : Dev :=
  let g : Seg := { loc0 := d.now, t0 := t, rate }
  let old := sget d.segs i
  let d := { d with segs := sput d.segs i g,
                    pastSegs := if old.loc0 < d.now then (i, old, d.now) :: d.pastSegs else d.pastSegs }
  if i = 0 then { d with hist := (d.acc, g) :: d.hist } else d

/-- Change a domain's rate from now on, without a step (R335). -/
def Dev.setRate (d : Dev) (i : Nat) (rate : Int) : Dev :=
  if (sget d.segs i).rate = rate then d else d.setSeg i (d.timeAt i d.now) rate

/-- The TD0 segment in force at an accession number, among those of the last 2 s (R338, R346). -/
def histAt (h : List (Nat × Seg)) (acc : Nat) : Option Seg :=
  (h.find? fun e => e.1 == acc || accBefore e.1 acc).map Prod.snd

/-- Drop TD0 history that ended more than 2 s ago (R338). -/
def pruneHist (now : Nat) : List (Nat × Seg) → List (Nat × Seg)
  | [] => []
  | e :: r => if e.2.loc0 + 2000000000 < now then [e] else e :: pruneHist now r

/-- Is a domain a valid source of a derived master: a running slave or free master (R340)? -/
def Dev.validSource (d : Dev) (j : Nat) : Bool :=
  d.tdRuns j && d.rd F.TD_CFG_ROLE [j] != 2

/-- The bound of every rate correction: 500 ppm (R335, R347). -/
def rateLimit : Int := 500000 * ppbUnit

/-- A domain runs at a rate correction from now on, within the bound of R335. -/
def Dev.runAt (d : Dev) (i : Nat) (rate : Int) : Dev :=
  let r := clampI rate (-rateLimit) rateLimit
  (d.modServo i fun s => { s with rate := r }).setRate i r

/-- A derived master takes its source's rate (R339, R340). -/
def Dev.takeRate (d : Dev) (i j : Nat) : Dev :=
  let r := (sget d.segs j).rate
  (d.modServo i fun s => { s with srcRate := r }).runAt i r

/-- The rate that a FOLLOWING domain adds to its partner's, which takes its offset `delta` towards 0 (R354): `SLEW`, and so much
less where the offset would pass 0 within a transit (DEDUCED, log entry 132). -/
def Dev.convergence (d : Dev) (i : Nat) (delta : Int) : Int :=
  let slew := (d.rd F.TD_SLEW_SLEW [i] : Int) * ppbUnit
  if d.on F.TD_CFG_CONVERGE [i] then clampI (-(delta * (ppbUnit * 1000000000) / (65536 * (d.tickLen : Int)))) (-slew) slew else 0

/-- Does domain `i` take its rate from domain `j` as its source (R340), as its partner (R354)? -/
def Dev.derivesFrom (d : Dev) (i j : Nat) : Bool :=
  d.tdState i == tdDerived && d.rd F.TD_CFG_SOURCE [i] == j && d.validSource j && !d.on F.TD_STATE_SRC_BAD [i]
def Dev.followsPartner (d : Dev) (i j : Nat) : Bool :=
  d.tdState i == tdFollowing && d.rd F.TD_CFG_PARTNER [i] == j && (d.servo i).reverted.isNone

/-- Let the domains that take their rate from domain `j` follow it, and those that take theirs from one of them, as deep as a chain
of domains can be (R339, R354). -/
def Dev.followDown (j : Nat) : Nat → Dev → Dev
  | 0, d => d
  | deep + 1, d => (List.range 4).foldl (fun d i =>
      if i = j then d
      else if d.derivesFrom i j then (d.takeRate i j).followDown i deep
      else if d.followsPartner i j then
        let delta := d.timeAt i d.now - d.timeAt j d.now
        ((d.modServo i fun s => { s with deltaS := delta }).runAt i ((sget d.segs j).rate + d.convergence i delta)).followDown i deep
      else d) d

def Dev.followRate (d : Dev) (j : Nat) : Dev := d.followDown j 3

/-- Change the rate of a domain that others may follow. -/
def Dev.newRate (d : Dev) (i : Nat) (rate : Int) : Dev := (d.runAt i rate).followRate i

/-- Enter a domain's state at enabling, by its role (R339–R341). `SRC_BAD` is a derived master's alone. -/
def Dev.enableTd (d : Dev) (i : Nat) : Dev :=
  match d.rd F.TD_CFG_ROLE [i] with
  | 0 =>
    ((d.wr F.TD_STATE_SRC_BAD [i] 0).modServo i fun s =>
      { s with gm := none, good := 0, lost := false, revert := 0, revertGm := none, reverted := none }).setTd i tdFree
  | 1 => ((d.wr F.TD_STATE_SRC_BAD [i] 0).setTd i tdMaster).newRate i 0
  | _ =>
    let j := d.rd F.TD_CFG_SOURCE [i]
    let d := d.setTd i tdDerived
    if d.validSource j then
      let off := d.timeAt i d.now - d.timeAt j d.now
      ((d.modServo i fun s => { s with derOff := off }).wr F.TD_STATE_SRC_BAD [i] 0).takeRate i j
    else
      (d.wr F.TD_STATE_SRC_BAD [i] 1).runAt i (d.servo i).srcRate

/-- After a write of `TD_CFG`: enabling, disabling and a change of role (R341). A derived master that gets another source keeps the time
it shows (DEDUCED, log entry 133). -/
def Dev.tdCfgWritten (d old : Dev) (i : Nat) : Dev :=
  let same (f : Fld) : Bool := old.rd f [i] == d.rd f [i]
  if !d.on F.TD_CFG_ENABLE [i] then (d.setTd i tdOff).wr F.TD_STATE_SRC_BAD [i] 0
  else if !old.on F.TD_CFG_ENABLE [i] ∨ !same F.TD_CFG_ROLE ∨ (d.tdState i = tdDerived ∧ !same F.TD_CFG_SOURCE) then d.enableTd i
  else d

/-- A step is refused (R350): offset `e`. -/
def Dev.refuseStep (d : Dev) (i : Nat) (e : Int) : Dev :=
  let d := d.modServo i fun s => { s with refused := e, good := 0 }
  let d := (d.setTd i tdHoldover).wr F.TD_STATE_JUMP_HELD [i] 1
  let d := (d.wr F.TD_STATE_JUMP_REFUSED [i] 1).bump F.JUMPS_REFUSED_COUNT [i]
  let d := d.event (d.rd F.TD_CFG_OWNER [i]) 0x001A 0 i (detail16 (leBytes 8 (ofInt 64 (e / nsUnit))))
  d.noticeEntry 0x91 i 0

/-- A step that the servo asks for passes the jump guard; it acts at the next boundary (R337, R349) (DEDUCED, log entry 29). -/
def Dev.askStep (d : Dev) (i : Nat) (e : Int) : Dev :=
  if !d.on F.TD_STATE_GUARD_ARMED [i] then d.modServo i fun s => { s with stepPend := some (-e), good := 0 }
  else if e.natAbs ≤ d.rd F.TD_JUMP_THR_JUMP_THR [i] * 65536 then
    (d.modServo i fun s => { s with stepPend := some (-e), good := 0 }).bump F.STEPS_COUNT [i]
  else d.refuseStep i e

/-- The servo's rate for an offset (R347). -/
def Dev.servoRate (d : Dev) (i : Nat) (e : Int) : Dev :=
  let s := d.servo i
  let int := clampI (s.integral + (d.rd F.TD_KI_KI [i] : Int) * e) (-rateLimit) rateLimit
  let rate := clampI (-((d.rd F.TD_KP_KP [i] : Int) * e + int)) (-rateLimit) rateLimit
  let slew := (d.rd F.TD_SLEW_SLEW [i] : Int) * ppbUnit
  let rate := match s.reverted with | none => rate | some r0 => clampI rate (r0 - slew) (r0 + slew)
  (d.modServo i fun s => { s with integral := int }).newRate i rate

/-- Four consecutive accepted feeds of at most 100 ns lock a domain; reversion ends at the first (R341, R357). -/
def Dev.countGood (d : Dev) (i : Nat) (e : Int) : Dev :=
  let ok := decide (e.natAbs ≤ 100 * 65536)
  let d := d.modServo i fun s => { s with good := if ok then s.good + 1 else 0 }
  let st := d.tdState i
  let rev := (d.servo i).reverted.isSome
  if (rev && ok) || ((st == tdFree || st == tdHoldover) && decide (4 ≤ (d.servo i).good)) then
    ((d.modServo i fun s => { s with reverted := none }).setTd i tdLocked).wr F.TD_STATE_GUARD_ARMED [i] 1
  else d

/-- The servo takes an accepted offset measurement `e` of the current grandmaster (R347). While a step is held, a feed beyond the
threshold is refused again, and its offset is then the last refused one (R351) (DEDUCED, log entry 96). -/
def Dev.onFeed (d : Dev) (i : Nat) (e : Int) : Dev :=
  let held := d.tdState i == tdHoldover && d.on F.TD_STATE_JUMP_HELD [i]
  if held && decide (d.rd F.TD_JUMP_THR_JUMP_THR [i] * 65536 < e.natAbs) then d.modServo i fun s => { s with refused := e, good := 0 }
  else
    let d := if held then d.wr F.TD_STATE_JUMP_HELD [i] 0 else d
    if (d.servo i).reverted.isNone && decide (d.rd F.TD_STEP_AT_STEP_AT [i] * 65536 < e.natAbs) then d.askStep i e
    else (d.servoRate i e).countGood i e

/-- An accepted feed to a FOLLOWING domain that has not reverted: counted; with `REVERT` it may revert (R357). -/
def Dev.followFeed (d : Dev) (i gm : Nat) (e : Int) : Dev :=
  let s := d.servo i
  let near := decide (e.natAbs ≤ d.rd F.TD_JUMP_THR_JUMP_THR [i] * 65536)
  let n := if near then (if s.revertGm = some gm then s.revert + 1 else 1) else 0
  let d := d.modServo i fun s => { s with revert := n, revertGm := if near then some gm else none }
  if d.on F.TD_CFG_REVERT [i] ∧ n ≠ 0 ∧ d.rd F.TD_OCC_REVERT_COUNT [i] ≤ n then
    let d := d.modServo i fun s =>
      { s with gm := some gm, reverted := some s.rate, revert := 0, revertGm := none, lastFeed := d.now, lost := false, good := 0 }
    d.onFeed i e
  else d

/-- An offset measurement, its time already taken apart (R345–R347): `e` in 2⁻¹⁶ ns. -/
def Dev.offsetFeed (d : Dev) (i gm : Nat) (e : Int) : Dev :=
  let d := d.wr F.TD_OFFSET_OFFSET [i] (sat32 (e / nsUnit))
  let s := d.servo i
  let st := d.tdState i
  if st = tdFollowing ∧ s.reverted = none then d.followFeed i gm e
  else if s.gm = none then
    (d.modServo i fun s => { s with gm := some gm, lastFeed := d.now, lost := false }).onFeed i e
  else if s.gm = some gm then (d.modServo i fun s => { s with lastFeed := d.now }).onFeed i e
  else d.modServo i fun s => { s with lost := true, good := 0 }

/-- `SYNC_FEED` with the fields of its feed block (R345, R346): answers the status code (DEDUCED, log entry 135). -/
def Dev.syncFeed (d : Dev) (blk : List Byte) : Nat × Dev :=
  let i := byteAt blk 0 % 4
  let kind := byteAt blk 1
  let gm := ofBe (slice blk 32 8)
  if (kind ≠ 1 ∧ kind ≠ 2) ∨ d.rd F.TD_CFG_ROLE [i] ≠ 0 ∨ !d.tdRuns i then (0x12, d.bump F.FEED_REJECT_TD_COUNT [i])
  else if kind = 2 then (0, d.modServo i fun s => { s with lost := true })
  else
    let acc := ofLe (slice blk 4 6)
    match if accBefore acc d.acc then histAt d.hist acc else none with
    | none => (0x12, d.bump F.FEED_REJECT_TD_COUNT [i])
    | some g =>
      -- the second nearest to the segment's own that has these low bits
      let sec0 := (splitTime g.t0).1
      let sec : Int := (sec0 : Int) + toInt 32 (ofLe (slice blk 16 4) + 2 ^ 32 - sec0 % 2 ^ 32)
      let ing : Int := sec * secUnits + (ofLe (slice blk 12 4) : Int) * nsUnit
      let master : Int := (ofLe (slice blk 20 6) : Int) * secUnits + (ofLe (slice blk 28 4) : Int) * nsUnit + ofLe (slice blk 26 2)
      (0, d.offsetFeed i gm (d.timeAt i (g.firstAt ing) - master))

/-- Let the domains that take their time from domain `j` take a step of `x` with it, and those that take theirs from one of them: a
FOLLOWING domain is partner + Δs (R354), and a derived master keeps its offset (R339). -/
def Dev.stepDown (x : Int) (j : Nat) : Nat → Dev → Dev
  | 0, d => d
  | deep + 1, d => (List.range 4).foldl (fun d k =>
      if k ≠ j ∧ (d.followsPartner k j ∨ d.derivesFrom k j) then
        (d.setSeg k (d.timeAt k d.now + x) (sget d.segs k).rate).stepDown x k deep
      else d) d

/-- A domain's phase becomes `t` at this boundary, under an accession number (R337). -/
def Dev.stepTd (d : Dev) (i : Nat) (t : Int) : Dev :=
  (d.number.2.setSeg i t (sget d.segs i).rate).stepDown (t - d.timeAt i d.now) i 3

/-- Apply what waits for a boundary in one domain: a step, a set command, an accepted step (R337, R351, R352). -/
def Dev.tdApply (d : Dev) (i : Nat) : Dev :=
  let s := d.servo i
  let d := match s.stepPend with
    | none => d
    | some x => d.stepTd i (d.timeAt i d.now + x)
  let d := if s.accept then (d.stepTd i (d.timeAt i d.now - s.refused)).wr F.TD_STATE_JUMP_HELD [i] 0 else d
  let d := match s.setPend with
    | none => d
    | some (sec, ns) =>
      let t : Int := (sec : Int) * secUnits + (ns : Int) * nsUnit
      let d := (d.stepTd i t).wr F.TD_STATE_JUMP_HELD [i] 0
      d.modServo i fun s => { s with derOff := t - d.timeAt (d.rd F.TD_CFG_SOURCE [i]) d.now }
  d.modServo i fun s => { s with stepPend := none, accept := false, setPend := none }

/-- A derived master's source at a boundary (R340), and a follower's convergence (R354). -/
def Dev.tdFollow (d : Dev) (i : Nat) : Dev :=
  if d.tdState i = tdDerived then
    let j := d.rd F.TD_CFG_SOURCE [i]
    if d.validSource j then
      if d.on F.TD_STATE_SRC_BAD [i] then
        let off := d.timeAt i d.now - d.timeAt j d.now
        ((d.modServo i fun s => { s with derOff := off }).wr F.TD_STATE_SRC_BAD [i] 0).takeRate i j
      else if d.timeAt i d.now - d.timeAt j d.now = (d.servo i).derOff then d.takeRate i j
      else (d.setSeg i (d.timeAt j d.now + (d.servo i).derOff) (sget d.segs j).rate).takeRate i j
    else d.wr F.TD_STATE_SRC_BAD [i] 1
  else if d.followsPartner i (d.rd F.TD_CFG_PARTNER [i]) then d.followRate (d.rd F.TD_CFG_PARTNER [i])
  else d

/-- A FOLLOWING domain whose partner has left LOCKED, or is no longer in use, enters HOLDOVER at the rate it has (R341, R356). -/
def Dev.losePartner (d : Dev) (i : Nat) : Dev :=
  let j := d.rd F.TD_CFG_PARTNER [i]
  if d.followsPartner i j && (!d.on F.TD_CFG_PARTNER_EN [i] || d.tdState j != tdLocked) then d.setTd i tdHoldover else d

def Dev.losePartners (d : Dev) : Dev := (List.range 4).foldl (fun d i => d.losePartner i) d

/-- The work of the time unit at a transit boundary. -/
def timeBoundary (d : Dev) : Dev :=
  let old := d
  let d := (List.range 4).foldl (fun d i => d.tdApply i) d
  let d := ((List.range 4).foldl (fun d i => d.tdFollow i) d.losePartners).followStep old
  { d with hist := pruneHist d.now d.hist, pastSegs := d.pastSegs.filter fun e => decide (d.now ≤ e.2.2 + 2000000000) }

/-- Does an occultation of a domain's grandmaster hold at this boundary (R353)? -/
def Dev.occulted (d : Dev) (i : Nat) : Bool :=
  d.tdState i == tdLocked &&
    ((d.servo i).lost || decide ((d.servo i).lastFeed + d.rd F.TD_OCC_OCC_TIMEOUT [i] * 1000000 ≤ d.now))

/-- An occultation (R353–R356, R358). A domain that follows the occulted one loses its partner first, at the rate it has. The identity of the
lost grandmaster is no longer recorded (DEDUCED, log entry 12). -/
def occultDomain (i : Nat) (d : Dev) : Dev :=
  if d.occulted i then
    let j := d.rd F.TD_CFG_PARTNER [i]
    let d := (d.wr F.TD_STATE_OCCULTED [i] 1).bump F.OCCULTATIONS_COUNT [i]
    let d := d.modServo i fun s => { s with gm := none, good := 0, lost := false, revert := 0, revertGm := none, reverted := none }
    let d := if d.on F.TD_CFG_PARTNER_EN [i] && d.tdState j == tdLocked && j != i then
        let delta := d.timeAt i d.now - d.timeAt j d.now
        ((d.setTd i tdFollowing).modServo i fun s => { s with deltaS := delta }).losePartners.followRate j
      else ((d.setTd i tdHoldover).losePartners.newRate i (-(d.servo i).integral))
    d.event (d.rd F.TD_CFG_OWNER [i]) 0x0019 0 i (detail16 (leBytes 1 (d.tdState i)))
  else if (d.servo i).lost ∧ (d.tdState i = tdFree ∨ d.tdState i = tdHoldover) then
    d.modServo i fun s => { s with gm := none, lost := false }
  else d.losePartner i

/-- Give the set command (R352). -/
def Dev.giveSet (d : Dev) (i sec ns : Nat) : Dev :=
  (d.modServo i fun s => { s with setPend := some (sec, ns) }).noticeEntry 0x91 i 0

/-- Give the accept-step command (R351). -/
def Dev.giveAccept (d : Dev) (i : Nat) : Dev := d.modServo i fun s => { s with accept := true }

/-- `TD_DELTA` (R373): domain minus partner, 0 without a partner. -/
def Dev.tdDelta (d : Dev) (i : Nat) : Nat :=
  if d.on F.TD_CFG_PARTNER_EN [i] then
    sat32 ((d.timeAt i d.now - d.timeAt (d.rd F.TD_CFG_PARTNER [i]) d.now) / nsUnit) else 0

end Sys2Proof.Machine
end

