-- ==== Sys2Proof/Machine/Ports.lean ====
section
/-! DEFINITION. Ethernet ports: rates and medium times, the queues that feed them, windows, timing blocks and the stamp
queue (R284, R297–R305, R359–R369). -/

namespace Sys2Proof.Machine

/-- Resource code and part number of an Ethernet port (R43, R427). -/
def ethPart (n : Nat) : Nat := 0x20 + n

def Dev.port (d : Dev) (n : Nat) : EthPort := sget d.eth n
def Dev.modPort (d : Dev) (n : Nat) (f : EthPort → EthPort) : Dev := { d with eth := smod d.eth n f }
def Dev.modTc (d : Dev) (n k : Nat) (f : TcState → TcState) : Dev :=
  d.modPort n fun p => { p with tc := smod p.tc k f }

/-- The rates that a mode of a port type can run (R284, `PORT_CFG`): 0 is the top rate of the port, which SGMII cannot run. -/
def rateOk (ty mode rate : Nat) : Bool :=
  match ty, mode with
  | 0, 0 => rate == 0
  | 0, _ => decide (rate ≤ 5)
  | 1, 0 => rate == 0 || rate == 2
  | 1, _ => decide (3 ≤ rate ∧ rate ≤ 5)
  | 2, _ => rate == 0 || rate == 4
  | _, _ => rate == 0 || rate == 5

/-- The rate of a code in Mbit/s. A mode whose field holds a rate that it cannot run, as after a change of the mode alone, runs its
own top rate (DESIGN CHOICE, log entry 130). -/
def mbpsOf (ty mode rate : Nat) : Nat :=
  if rateOk ty mode rate then
    (match rate with
    | 1 => 5000
    | 2 => 2500
    | 3 => 1000
    | 4 => 100
    | 5 => 10
    | _ => [10000, 2500, 100, 10].getD ty 10)
  else if ty = 1 ∧ mode ≠ 0 then 1000 else [10000, 2500, 100, 10].getD ty 10

/-- Line rate in Mbit/s: the configured rate (R284, R286, R330). -/
def Dev.portMbps (d : Dev) (n : Nat) : Nat := mbpsOf (portType n) (d.rd F.PORT_CFG_MODE [n]) (d.rd F.PORT_CFG_RATE [n])

/-- Nanoseconds of `b` bytes on the medium, rounded up. -/
def Dev.byteTime (d : Dev) (n b : Nat) : Nat := cdiv (8000 * b) (d.portMbps n)

/-- Bytes of a frame of `len` bytes on the medium after its delimiter: padding, FCS and inter-frame gap (R300, R303). -/
def wireBytes (len : Nat) : Nat := max 60 len + 4 + 12

/-- Is a port on, and its link up? -/
def Dev.portOn (d : Dev) (n : Nat) : Bool := d.on F.PORT_CFG_ENABLE [n]
def Dev.portUp (d : Dev) (n : Nat) : Bool := d.on F.LINK_STATUS_UP [n]

/-- The port and the traffic class that a queue feeds (R298). -/
def Dev.feeds (d : Dev) (q : Nat) : Option (Nat × Nat) :=
  ((List.range 160).find? fun i => d.on F.TC_QUEUE_VALID [i / 8, i % 8] && d.rd F.TC_QUEUE_QUEUE [i / 8, i % 8] == q).map
    fun i => (i / 8, i % 8)

/-- Service class of a traffic class (R298). -/
def Dev.tcClass (d : Dev) (n k : Nat) : Nat := d.rd F.QCFG_A_CLASS [d.rd F.TC_QUEUE_QUEUE [n, k]]

/-- The egress windows of a port and a service class in the active almanac (R302). -/
def Dev.windows (d : Dev) (n cls : Nat) : List AlmEntry :=
  match d.alm with
  | none => []
  | some a => a.entries.filter fun e => e.kind == 4 && e.resource == ethPart n && e.cls == cls

/-- Is an almanac entry active in the present transit (R41)? -/
def Dev.activeNow (d : Dev) (e : AlmEntry) : Bool :=
  match d.alm with
  | none => false
  | some a => d.kept.transit % (max 1 a.hyper) % (max 1 e.period) == e.phase

/-- Is the gate of a service class open at this instant by the windows (R302)? -/
def Dev.windowOpen (d : Dev) (n cls : Nat) : Bool :=
  (d.windows n cls).isEmpty ||
    (d.windows n cls).any fun e => d.activeNow e && decide (d.point e.winOpen ≤ d.now) && decide (d.now < d.point e.winClose)

/-- The instant at which a gate that is open until `t` closes: windows that touch or overlap follow one another. -/
def Dev.openThrough (d : Dev) (l : List AlmEntry) : Nat → Nat → Nat
  | 0, t => t
  | m + 1, t => d.openThrough l m ((l.filter fun e => decide (d.point e.winOpen ≤ t)).foldl (fun t e => max t (d.point e.winClose)) t)

/-- The instant at which an open gate closes, at the next boundary if that comes first (R302); none where the class has no window. -/
def Dev.gateCloses (d : Dev) (n cls : Nat) : Option Nat :=
  if (d.windows n cls).isEmpty then none
  else
    let l := (d.windows n cls).filter d.activeNow
    some (min d.nextTick (d.openThrough l l.length d.now))

/-- The longest window of a class, in ns between its edges as R788 rounds them; none where it has none (R304). -/
def Dev.longestWindow (d : Dev) (n cls : Nat) : Option Nat :=
  if (d.windows n cls).isEmpty then none
  else some ((d.windows n cls).foldl (fun m e => max m (e.winClose * d.len / 1024 - e.winOpen * d.len / 1024)) 0)

/-- Does the port's SecY protect a frame of this EtherType (R322, R323)? -/
def Dev.secExempt (d : Dev) (n ty : Nat) : Bool :=
  ty == 0x888E || ty == 0x88F7 || (d.rd F.SECY_EXEMPT_TYPE0 [n] != 0 && ty == d.rd F.SECY_EXEMPT_TYPE0 [n]) ||
    (d.rd F.SECY_EXEMPT_TYPE1 [n] != 0 && ty == d.rd F.SECY_EXEMPT_TYPE1 [n])

/-- EtherType of a frame, as its bytes 12 and 13. -/
def etherType (b : List Byte) : Nat := ofBe (slice b 12 2)

/-- Length on the medium, without FCS, of a packet that leaves a port: what MACsec adds counts, a SecTAG of 8 or 16 bytes and an
ICV of 16 (R300, R301, R303). -/
def Dev.sentLen (d : Dev) (n : Nat) (b : List Byte) : Nat :=
  if d.on F.PORT_CFG_MACSEC_EN [n] && d.on F.SECY_CFG_PROTECT [n] && !d.secExempt n (etherType b)
  then b.length + 24 + 8 * d.rd F.SECY_CFG_SCI_EN [n] else b.length

/-! ### Timing blocks (R359, R360) -/

/-- The 32 bytes of a timing block; none where the block has no effect (R360). -/
def timingOf (b : List Byte) : Option TimingBlock :=
  if byteAt b 0 = 0 ∧ byteAt b 1 = 0 then none
  else
    let c := byteAt b 0
    some { launchEn := bitAt c 0, stampReq := bitAt c 1, insert := c / 4 % 4, domain := c / 16 % 4, lateDrop := bitAt c 6,
           ptpOffset := ofLe (slice b 2 2), reportShelfmark := ofLe (slice b 4 2), cookie := ofLe (slice b 6 2),
           launchSec := ofLe (slice b 8 6), csumOffset := ofLe (slice b 14 2), launchNs := ofLe (slice b 16 4),
           refSec := ofLe (slice b 20 6), refSub := ofLe (slice b 26 2), refNs := ofLe (slice b 28 4) }

/-- Launch time in 2⁻¹⁶ ns. -/
def launchTime (t : TimingBlock) : Int := (t.launchSec : Int) * secUnits + (t.launchNs : Int) * nsUnit

/-- Is a block accepted for a packet of `len` bytes on its way to a queue (R360)? -/
def Dev.timingOk (d : Dev) (t : TimingBlock) (len q : Nat) : Bool :=
  (d.feeds q).isSome && t.insert != 3 && !(t.insert != 0 && t.stampReq) &&
    decide (t.ptpOffset + 44 ≤ len) && d.tdRuns t.domain &&
    (!t.launchEn || decide (launchTime t ≤ d.timeAt t.domain d.now + secUnits))

/-! ### The stamp queue (R367, R368) -/

/-- Reserve a stamp-queue entry for a packet on its way to a queue: is an entry kept, and was one refused? -/
def Dev.reserveStamp (d : Dev) (h q : Nat) : Bool × Bool × Dev :=
  match (d.pkt h).timing, d.feeds q with
  | some t, some (n, _) =>
    if !t.stampReq then (false, false, d)
    else if 512 ≤ (d.port n).stampsHeld then (false, true, d.bump F.TS_LOST_COUNT [n])
    else (true, false, d.modPort n fun p => { p with stampsHeld := p.stampsHeld + 1 })
  | _, _ => (false, false, d)

/-- A frame that holds a stamp entry leaves, or is released: the entry is filled (R368). -/
def Dev.fillStamp (d : Dev) (n : Nat) (e : QEntry) (sent : Bool) (t : Int) : Dev :=
  if !e.stamp then d
  else
    let p := d.pkt e.handle
    match p.timing with
    | none => d
    | some b =>
      let (s, ns, sub) := splitTime t
      let x : Stamp := { port := n, sent, domain := b.domain, cookie := b.cookie, acc := p.acc,
                         sub := if sent then sub else 0, ns := if sent then ns else 0, sec := if sent then s else 0,
                         shelf := b.reportShelfmark, tenant := p.host.map (·.tenant), entered := p.transit, companion := p.companion }
      { d with stamps := d.stamps ++ [x] }

/-- The 32 bytes of a stamp report (R368). -/
def stampBytes (x : Stamp) : List Byte :=
  leBytes 1 x.port ++ leBytes 1 (x.sent.toNat + 2 * x.domain) ++ leBytes 2 x.cookie ++ leBytes 6 x.acc ++ leBytes 2 x.sub ++
    leBytes 4 x.ns ++ leBytes 8 x.sec ++ List.replicate 8 0

/-! ### The shaper (R305) -/

/-- Idle slope of a class in kbit/s, which is 10⁻⁶ bit per ns. -/
def Dev.idleSlope (d : Dev) (n k : Nat) : Nat := d.rd F.TC_SLOPE_IDLE_SLOPE [n, k]

/-- Is a class shaped (R305)? -/
def Dev.shaped (d : Dev) (n k : Nat) : Bool := d.on F.TC_QUEUE_CBS_EN [n, k] && d.tcClass n k != 0

/-- Bring a class's credit up to the present (R305): it rises while a packet waits or while it is negative, and not while the
gate is shut; a positive credit falls to 0 where the queue is empty. -/
def Dev.creditNow (d : Dev) (n k : Nat) : Dev :=
  let t := sget (d.port n).tc k
  if !d.shaped n k then d
  else if (d.port n).shut.contains (d.tcClass n k) then d.modTc n k fun t => { t with upTo := max t.upTo d.now }
  else
    let s : Int := d.idleSlope n k
    let c := match (d.queue (d.rd F.TC_QUEUE_QUEUE [n, k])).items with
      | [] => min 0 (t.credit + s * (d.now - t.upTo : Nat))
      | e :: _ =>
        let idle := min 0 (t.credit + s * (min d.now e.pushed - t.upTo : Nat))
        let base := if t.upTo < e.pushed then idle else t.credit
        base + s * (d.now - max t.upTo e.pushed : Nat)
    if d.now ≤ t.upTo then d else d.modTc n k fun t => { t with credit := c, upTo := d.now }

def Dev.creditsNow (d : Dev) (n : Nat) : Dev := (List.range 8).foldl (fun d k => d.creditNow n k) d

/-- The credits of a port after a configuration change: a class that is shaped only since then counts from now on. `old` is the device
before it. -/
def Dev.creditsFrom (d old : Dev) (n : Nat) : Dev :=
  (List.range 8).foldl (fun d k => if d.shaped n k && !old.shaped n k then d.modTc n k fun t => { t with upTo := max t.upTo d.now } else d)
    { d with eth := (old.creditsNow n).eth }

/-! ### The head of a queue -/

/-- Queue of a traffic class, and its head where it may leave. -/
def Dev.tcQueue (d : Dev) (n k : Nat) : Nat := d.rd F.TC_QUEUE_QUEUE [n, k]
def Dev.tcHead (d : Dev) (n k : Nat) : Option QEntry := if d.on F.TC_QUEUE_VALID [n, k] then d.front (d.tcQueue n k) else none

/-- Release the head of a class, filling its stamp entry without a stamp (R368). -/
def Dev.dropHead (d : Dev) (n k : Nat) (e : QEntry) : Dev :=
  let d := d.fillStamp n e false 0
  ((d.pop (d.tcQueue n k)).modTc n k fun t => { t with launched := false, leftAt := d.now }).unref e.handle

/-- Has the launch time of a packet come, in its domain (R364)? -/
def Dev.launchDue (d : Dev) (t : TimingBlock) : Bool := decide (launchTime t ≤ d.timeAt t.domain d.now)

/-- Had the launch time of a packet passed when it reached the head of its queue (R365)? It did when it was pushed, or when the packet
before it left. -/
def Dev.launchLate (d : Dev) (n k : Nat) (e : QEntry) (t : TimingBlock) : Bool :=
  let c := sget (d.port n).tc k
  t.launchEn && !c.launched && decide (launchTime t < d.timeAt t.domain (max e.pushed c.leftAt))

/-- Why the head of a class is released, as the counter that advances (R295, R301, R304, R307, R363, R365); nothing where
it stays. -/
def Dev.headDrop (d : Dev) (n k : Nat) (e : QEntry) : Option Fld :=
  let p := d.pkt e.handle
  let len := p.data.length
  if !d.portOn n ∨ !d.portUp n ∨ ((d.gate (ethPart n)).quiesced ∧ !d.gateOpen (ethPart n)) then some F.TX_LINK_DOWN_COUNT
  else if p.bad ≠ 0 then some F.TX_BAD_DROP_COUNT
  else if d.rd F.PORT_MAXLEN_MAX_LEN [n] < len then some F.TX_TOO_LONG_COUNT
  else if (match d.longestWindow n (d.tcClass n k) with
      | none => false
      | some w => decide (w < d.byteTime n (8 + wireBytes (d.sentLen n p.data)))) then some F.TX_TOO_LONG_COUNT
  else match p.timing with
    | none => none
    | some t =>
      if t.lateDrop ∧ d.launchLate n k e t then some F.TX_LATE_DROP_COUNT
      else if t.insert ≠ 0 ∧ d.on F.PORT_CFG_MACSEC_EN [n] ∧ d.on F.SECY_CFG_PROTECT [n] ∧ !d.secExempt n (etherType p.data) then
        some F.TS_INSERT_DROP_COUNT
      else none

/-- Is a frame one of the peer-delay messages that a SHADOW's port may send (R676)? -/
def isPdelay (b : List Byte) : Bool :=
  etherType b == 0x88F7 && (byteAt b 14 % 16 == 2 || byteAt b 14 % 16 == 3 || byteAt b 14 % 16 == 10)

/-- Does the unit send a packet from a port's queue: the driving unit every one, a SHADOW unit the peer-delay messages of the ports of
`PAIR_STBY_TX` (R676)? What it does not send it keeps in its queue. -/
def Dev.sendsFrom (d : Dev) (n : Nat) (p : Packet) : Bool :=
  !d.quiet || (d.shadow && decide (n < 12) && bitAt (d.rd F.PAIR_STBY_TX_PORTS) n && isPdelay p.data)

/-- Release heads of a class until one may stay: one that does not have to leave, or that the unit does not send. -/
def Dev.settleHead (n k : Nat) : Nat → Dev → Dev
  | 0, d => d
  | m + 1, d =>
    match d.tcHead n k with
    | none => d
    | some e =>
      match if d.sendsFrom n (d.pkt e.handle) then d.headDrop n k e else none with
      | none => d
      | some c => Dev.settleHead n k m ((d.bump c [n]).dropHead n k e)

/-- Settle a class of a port. -/
def Dev.settleClass (d : Dev) (n k : Nat) : Dev := Dev.settleHead n k (d.queue (d.tcQueue n k)).items.length d

/-- Settle every class of a port. -/
def settlePort (n : Nat) (d : Dev) : Dev := (List.range 8).foldl (fun d k => d.settleClass n k) (d.creditsNow n)

/-- The port that a queue feeds releases what may not stay at its head. -/
def Dev.settleQueue (d : Dev) (q : Nat) : Dev :=
  match d.feeds q with
  | some (n, k) => d.settleClass n k
  | none => d

/-- Push a reference to a packet. What waits for it takes it at once: a folio that the queue feeds, and a port that must release it
(R245, R295, R307). -/
def Dev.push (d : Dev) (q : Nat) (e : QEntry) : Nat × Dev :=
  let (code, d) := d.pushFed q e
  (code, if code = 0 then d.settleQueue q else d)

/-- The refill of a spilling queue (R100), whose head then goes on as a pushed packet does. -/
def refillQueue (q : Nat) (d : Dev) : Dev :=
  ((Dev.refillFrom q (d.queue q).ext d).feedWhere (· == q)).settleQueue q

/-- Push a packet with its stamp reservation: the code, and whether the stamp is lost. A timing block is refused at a queue that feeds no
Ethernet port, as soon as it is known that the packet goes there (R360). -/
def Dev.pushStamped (d : Dev) (q : Nat) (e : QEntry) : Nat × Bool × Dev :=
  let (kept, lost, d') := d.reserveStamp e.handle q
  if (d.pkt e.handle).timing.isSome ∧ (d.feeds q).isNone then (0x12, false, d)
  else
  match d'.push q { e with stamp := kept } with
  | (0, d') => (0, lost, d')
  | (code, _) => (code, false, (d.push q e).2)

end Sys2Proof.Machine
end

