-- ==== Sys2Proof/Machine/Recorder.lean ====
section
/-! DEFINITION. The recorder: what it records, its ring, triggers, pinned spans, readout and release (R104–R125). -/

namespace Sys2Proof.Machine

/-- Units of 32 bytes in the recorder ring: 8 GiB less the deep-queue region and the control area (R104). -/
def Dev.recUnits (d : Dev) : Nat :=
  (8589934592 - (d.memPart.getD (d.rd F.MEM_PART_DEEP_UNITS)) * 268435456 - 65536) / 32

/-- Units in one MiB, and in the largest span (R113). -/
def mibUnits : Nat := 32768
def spanMax : Nat := 2048 * mibUnits

/-- Units that a span covers. -/
def Span.units (s : Span) : Nat := (s.parts.map Prod.snd).sum

/-- The part of a span that meets the range of `n` units from `p`. -/
def Span.part? (s : Span) (p n : Nat) : Option (Nat × Nat) :=
  if s.used then s.parts.find? fun q => decide (q.1 < p + n) && decide (p < q.1 + q.2) else none

/-- Does the range of `n` units from `p` meet the span? -/
def Span.meets (s : Span) (p n : Nat) : Bool := (s.part? p n).isSome

/-- Add `n` units from `p` to the parts of a span. -/
def addPart (p n : Nat) : List (Nat × Nat) → List (Nat × Nat)
  | [] => [(p, n)]
  | [q] => if q.1 + q.2 = p then [(q.1, q.2 + n)] else [q, (p, n)]
  | q :: l => q :: addPart p n l

/-- The place for the next `n` units: it skips pinned spans and never splits a record at the ring's end (R116). A span
that is still open ends at the writer's place, so it does not stand in the way of its own records. -/
def recPlaceFrom (spans : Sparse Span) (ring n : Nat) : Nat → Nat → Nat
  | 0, p => p
  | k + 1, p =>
    if ring < p + n then recPlaceFrom spans ring n k 0
    else
      match spans.findSome? fun e => e.2.part? p n with
      | none => p
      | some q => recPlaceFrom spans ring n k (q.1 + q.2)

/-- `recPlaceFrom` with a step for every part of a span and for the ring's end. -/
def recPlace (spans : Sparse Span) (ring n p : Nat) : Nat :=
  recPlaceFrom spans ring n ((spans.map fun e => e.2.parts.length).sum + 3) p

/-- The parts of the ring that the records before a span's trigger marker fill, newest record first: up to `PRE` of them, no further
than the previous span, and than the oldest record that survives, from before a restart or not (R112, R123) (DEDUCED, log entry 150). -/
def spanBack (spans : Sparse Span) (pre : Nat) : List Rec → Nat → List (Nat × Nat)
  | [], _ => []
  | r :: older, n =>
    if r.spoilt then spanBack spans pre older n
    else if pre < n + r.units ∨ spans.any (fun e => e.2.meets r.pos r.units) then []
    else addPart r.pos r.units (spanBack spans pre older (n + r.units))

/-- The span that a trigger marker belongs to. -/
def Rec.marks (r : Rec) : Option Nat :=
  if r.kind = 7 ∧ byteAt r.payload 0 = 1 ∧ byteAt r.payload 2 < 4 then some (byteAt r.payload 2) else none

/-- An open span as a record of `n` units is written at `p`: it covers it as long as it has units left for the whole record, and at
most 2 GiB of the ring (R112, R113). -/
def Span.grown (s : Span) (p n : Nat) : Span :=
  if !s.used || !s.opn || s.parts.isEmpty then s
  else if (s.left < n && s.wait == 0) || spanMax < s.units + n then { s with left := 0 }
  else { s with parts := addPart p n s.parts, left := s.left - n }

/-- A span as a trigger marker of its own is written at `p`, with what stands before the marker where it begins with it: it goes on for
`post` units after each of its markers, up to 2 GiB (R112, R113). -/
def Span.armed (s : Span) (back : List (Nat × Nat)) (post p : Nat) : Span :=
  let s := { s with parts := if s.parts.isEmpty then back else s.parts }
  let s := if spanMax < s.units + 2 then s else { s with parts := addPart p 2 s.parts }
  { s with wait := s.wait - 1, left := min post (spanMax - s.units) }

/-- The spans after a record was written at `p`, with the records before it, newest first. -/
def spansGrown (spans : Sparse Span) (pre post : Nat) (before : List Rec) (r : Rec) (p n : Nat) : Sparse Span :=
  smap (fun i s =>
    if r.marks == some i && s.used && s.opn then s.armed (spanBack spans pre before 0) post p else s.grown p n) spans

/-- `REC_SPAN.PRE` and `POST` in units. -/
def Dev.preUnits (d : Dev) : Nat := d.rd F.REC_SPAN_PRE * mibUnits
def Dev.postUnits (d : Dev) : Nat := d.rd F.REC_SPAN_POST * mibUnits

/-- Write a record into the ring: records it overwrites are gone, an open span grows, and a trigger marker arms its span (R113, R116). -/
def Dev.writeRec (d : Dev) (r : Rec) : Dev :=
  let n := 1 + cdiv r.payload.length 32
  let p := recPlace d.spans d.recUnits n (d.rd F.REC_WRITE_WRITE_UNIT)
  let hit (x : Rec) : Bool := decide (x.pos < p + n) && decide (p < x.pos + x.units)
  let lost := d.recs.any hit
  let left := d.recs.filter fun x => !hit x
  let spans := spansGrown d.spans d.preUnits d.postUnits left.reverse r p n
  let d := { d with recs := left ++ [{ r with pos := p, units := n }], spans }
  let d := d.wr F.REC_WRITE_WRITE_UNIT [] ((p + n) % d.recUnits)
  if lost then d.wr F.REC_STATUS_WRAPPED [] 1 else d

/-- Write the waiting records whose turn has come: a record waits for every packet numbered before it that the
classifier has not finished (R106) (DEDUCED, log entry 46). -/
def Dev.flushRecs : List Rec → Dev → Dev
  | [], d => { d with recWait := [] }
  | r :: rest, d =>
    if d.toClassify.any fun h => accBefore (d.pkt h).acc r.acc then { d with recWait := r :: rest }
    else Dev.flushRecs rest (d.writeRec r)

/-- Put a record among the waiting ones, in accession order. -/
def insertRec (r : Rec) : List Rec → List Rec
  | [] => [r]
  | x :: l => if accBefore r.acc x.acc then r :: x :: l else x :: insertRec r l

/-- Put a record among the waiting ones and write those whose turn has come. -/
def Dev.enterRec (d : Dev) (r : Rec) : Dev :=
  let l := insertRec r d.recWait
  Dev.flushRecs l { d with recWait := l }

/-- Record something, where the recorder is on; the marker of a restart goes before its first record (R106, R108–R110) (DEDUCED, log
entry 35) (DEDUCED, log entry 35). -/
def Dev.record (d : Dev) (r : Rec) : Dev :=
  if d.on F.REC_CFG_ENABLE then
    match d.recMark with
    | some m => ({ d with recMark := none }.enterRec m).enterRec r
    | none => d.enterRec r
  else d

/-- Record a packet or a change, unless the recorder's copies starve: then it is lost and counted (R82, R106, R117). -/
def Dev.recordItem (d : Dev) (r : Rec) : Dev :=
  if d.on F.REC_CFG_ENABLE && d.recShort then { d.bump F.REC_LOST_COUNT with recGap := d.recGap + 1 } else d.record r

/-- The recording mode of a resource (R107). -/
def Dev.recMode (d : Dev) (res : Nat) : Nat :=
  if res < 128 then bitsOf (d.rd F.REC_SRC_MODE [res / 16]) (2 * (res % 16) + 1) (2 * (res % 16)) else 0

/-- A record's header fields for an event at a local instant (R108, R109). -/
def Dev.recAt (d : Dev) (acc kind source loc : Nat) (payload : List Byte) : Rec :=
  let dom := d.rd F.REC_CFG_DOMAIN
  let (s, n) := d.stamp dom loc
  { acc, kind, source, transit := d.kept.transit % 2 ^ 32, stampSec := s % 2 ^ 32, stampNs := n,
    frameLen := payload.length, flags := dom, payload }

/-- Write a marker (R109, R110). -/
def Dev.marker (d : Dev) (kind cause span count : Nat) : Dev :=
  let (a, d) := d.number
  d.record { (d.recAt a 7 0xFF d.now (leBytes 1 kind ++ leBytes 1 cause ++ leBytes 1 span ++ [0] ++ leBytes 4 count)) with
    frameLen := 8 }

/-- The recorder's way into external memory falls short from now on, or is there again: a gap marker then tells how many records
were lost (R110, R117) (DESIGN CHOICE, log entry 124). -/
def Dev.recFalls (d : Dev) (short : Bool) : Dev :=
  if !d.runs then d
  else
    let n := d.recGap
    let d := { d with recShort := short }
    if short ∨ n = 0 then d else { d with recGap := 0 }.marker 2 0 0 n

/-- The stamp of a packet in a domain: the local counter at its capture, with the phase and rate that the domain had then (R336, R409). -/
def Dev.stampIn (d : Dev) (dom : Nat) (p : Packet) : Nat × Nat :=
  if dom = 0 then (p.stampSec, p.stampNs)
  else
    let t := splitTime (d.timeAt dom p.stampAt + p.stampOff)
    (t.1, t.2.1)

/-- The recorder's copy of a packet, once its flow is known, with its ingress stamp (R107–R109). What only the
companion received is the companion's to record (R125). -/
def Dev.recordPacket (d : Dev) (p : Packet) (safetyOrControl : Bool) : Dev :=
  let m := d.recMode p.res
  if !p.companion ∧ p.res < 128 ∧ (m = 2 ∨ (m = 1 ∧ safetyOrControl)) then
    let kind := match p.kind with | .can => 1 | .lin => 2 | .eth => 3
    let clip := d.rd F.REC_CFG_CLIP * 32
    let clipped := p.kind == .eth && decide (clip < p.data.length)
    let dom := d.rd F.REC_CFG_DOMAIN
    let (s, n) := d.stampIn dom p
    d.recordItem { acc := p.acc, kind, source := p.res, transit := p.transit % 2 ^ 32, stampSec := s % 2 ^ 32, stampNs := n
                   frameLen := p.data.length
                   flags := dom + 4 * (p.cls.verdict == 2).toNat + 8 * (p.bad != 0).toNat + 16 * clipped.toNat
                   shelf := if p.cls.done then p.cls.shelf else 0xFFFFFFFF
                   payload := if clipped then p.data.take clip else p.data }
  else Dev.flushRecs d.recWait d

/-- The record of an output or input change of a power die: 8 payload bytes; a source whose mode is not 0b10 is not recorded (R107,
R109) (DEDUCED, log entry 123). -/
def Dev.recChange (d : Dev) (acc kind die loc : Nat) (payload : List Byte) : Dev :=
  if d.recMode (0x70 + die) = 2 then d.recordItem { d.recAt acc kind (0x70 + die) loc payload with frameLen := 8 } else d

/-- The spans that are pinned, and the open one. -/
def Dev.spanStatus (d : Dev) : Dev :=
  let n := (d.spans.filter fun e => e.2.used).length
  let o := d.spans.any fun e => e.2.used && e.2.opn
  (d.wr F.REC_STATUS_PINNED [] n).wr F.REC_STATUS_SPAN_OPEN [] o.toNat

/-- A span that has taken its `POST`, or has reached 2 GiB, closes (R113). -/
def closeSpans (d : Dev) : Dev :=
  { d with spans := smap (fun _ s => if s.opn && s.wait == 0 && s.left == 0 then { s with opn := false } else s) d.spans }.spanStatus

/-- Would `n` units more pinned leave less than a quarter of the ring unpinned (R114)? -/
def Dev.overPinned (d : Dev) (n : Nat) : Bool :=
  decide (3 * d.recUnits < 4 * (((d.spans.filter fun e => e.2.used).map fun e => e.2.units).sum + n))

/-- A trigger marker for a span, 15 where the trigger is refused, and the event record that goes with it (R114, R115) (DESIGN CHOICE, log entry 154). -/
def Dev.markTrigger (d : Dev) (bit span : Nat) : Nat × Nat × Dev :=
  let no := span == 15
  let d := (d.marker 1 bit (if no then 0xFF else span) 0).spanStatus
  (if no then 0x11 else 0, span,
    d.eventToRight 1 0x0013 (if no then 0x11 else 0) (if no then 0xFFFF else span) (detail16 (leBytes 1 bit)))

/-- A trigger (R111–R115), whose span pins its marker of 2 units as well: answers the status code and the span's index. `bit` is its bit of `REC_CFG.TRIG_EN`; a recorder that is off
takes no trigger (DEDUCED, log entry 34). -/
def Dev.trigger (d : Dev) (bit : Nat) : Nat × Nat × Dev :=
  if !bitAt (d.rd F.REC_CFG_TRIG_EN) bit ∨ !d.on F.REC_CFG_ENABLE then (0, 0xF, d)
  else
    let d := closeSpans d
    match d.spans.find? fun e => e.2.used && e.2.opn with
    | some (i, s) =>
      if d.overPinned (min (2 * s.wait + 2 + d.postUnits) (spanMax - s.units)) then d.markTrigger bit 15
      else { d with spans := smod d.spans i fun s => { s with wait := s.wait + 1 } }.markTrigger bit i
    | none =>
      let back := ((spanBack d.spans d.preUnits d.recs.reverse 0).map Prod.snd).sum
      match (List.range 4).find? fun i => !(sget d.spans i).used with
      | some i =>
        if d.overPinned (min (back + 2 + d.postUnits) spanMax) then d.markTrigger bit 15
        else { d with spans := sput d.spans i { used := true, opn := true, wait := 1 } }.markTrigger bit i
      | none => d.markTrigger bit 15

/-- A trigger whose outcome nobody waits for. -/
def Dev.trigger_ (d : Dev) (bit : Nat) : Dev := (d.trigger bit).2.2

/-- The 32 header bytes and padded payload of a record (R108). -/
def Rec.bytes (r : Rec) : List Byte :=
  let h := leBytes 6 r.acc ++ leBytes 1 r.kind ++ leBytes 1 r.source ++ leBytes 4 r.transit ++ leBytes 4 r.stampNs ++
    leBytes 4 r.stampSec ++ leBytes 2 r.frameLen ++ leBytes 1 r.flags ++ [0] ++ leBytes 4 r.shelf
  let p := r.payload ++ List.replicate (roundUp r.payload.length 32 - r.payload.length) 0
  h ++ leBytes 4 (crc32 (h ++ p)) ++ p

/-- Whole records from `frm` on, in ring order, up to the byte limit (R118). -/
def takeRecs (frm : Nat) : List Rec → Nat → List Rec
  | [], _ => []
  | r :: l, room =>
    if accBefore r.acc frm then takeRecs frm l room
    else if 32 * r.units ≤ room then r :: takeRecs frm l (room - 32 * r.units) else []

/-- The records that a readout of a span, or of the unpinned ring (15), can give (R118, R119). -/
def Dev.spanRecs (d : Dev) (span : Nat) : List Rec :=
  let whole := d.recs.filter fun r => !r.spoilt
  if span < 4 then whole.filter fun r => (sget d.spans span).meets r.pos r.units
  else whole.filter fun r => !(d.spans.any fun e => e.2.meets r.pos r.units)

/-- What the device writes into the control area every transit (R122). -/
def Dev.recCtlNow (d : Dev) : RecCtl :=
  { unit := d.rd F.REC_WRITE_WRITE_UNIT, last := (d.recs.getLast?).map Rec.acc, spans := d.spans }

/-- The scan forward from the control area's write position: records are kept, and grow the spans of the table, up to the first whose
`CHECK` is bad or whose accession number does not ascend; writing resumes there (R123). Answers the records kept, the write position and
the spans. -/
def scanRecs (ring pre post : Nat) : List Rec → List Rec → Nat → Option Nat → Sparse Span → List Rec × Nat × Sparse Span
  | [], old, cur, _, spans => (old, cur, spans)
  | r :: l, old, cur, last, spans =>
    if r.spoilt || last.any (fun a => !accBefore a r.acc) then (old, cur, spans)
    else scanRecs ring pre post l (old ++ [r]) ((r.pos + r.units) % ring) (some r.acc)
      (spansGrown spans pre post old.reverse r r.pos r.units)

/-- The recorder after a restart (R110, R123): the span table is that of the control area, without spans whose first marker had not been
written, and the records written since are those that the scan keeps; the marker of the restart waits for the first record (DEDUCED,
DEDUCED, log entry 121). -/
def Dev.recResume (d : Dev) : Dev :=
  let c := d.recCtl
  let late (r : Rec) : Bool := c.last.all fun a => accBefore a r.acc
  let table := smap (fun _ s => if s.parts.isEmpty then default else { s with wait := 0 }) c.spans
  let (recs, cur, spans) :=
    scanRecs d.recUnits d.preUnits d.postUnits (d.recs.filter late) (d.recs.filter fun r => !late r) c.unit c.last table
  let d := { d with recs, spans }.wr F.REC_WRITE_WRITE_UNIT [] cur
  let (a, d) := d.number
  let d := d.spanStatus
  { d with recMark := some { d.recAt a 7 0xFF d.now [3, 0, 0, 0, 0, 0, 0, 0] with frameLen := 8 } }

/-- Release a closed span (R120). An index that is not pinned completes REFUSED_POLICY too (DESIGN CHOICE, log entry 125). -/
def Dev.releaseSpan (d : Dev) (span : Nat) : Nat × Dev :=
  let s := sget d.spans span
  if !s.used ∨ s.opn then (0x12, d) else (0, { d with spans := sput d.spans span default }.spanStatus)

end Sys2Proof.Machine
end

