-- ==== Sys2Proof/Machine/Classify.lean ====
section
/-! DEFINITION. The classifier's outcome for a packet: ownership verdict, stream filters, arrival contract, and where
the packet goes (R57–R66, R128, R157, R160, R166–R178, R315–R320, R790). -/

namespace Sys2Proof.Machine

/-- A Catalogue entry. -/
def Dev.cat (d : Dev) (i : Nat) : CatEntry := sget d.kept.catalogue i
def Dev.modCat (d : Dev) (i : Nat) (f : CatEntry → CatEntry) : Dev :=
  d.modK fun k => { k with catalogue := smod k.catalogue i f }

/-- The source address that a packet carries for an owner's kind, empty where it matches none (R173, R313). -/
def srcAddress (kind : Nat) (p : Packet) : Option (List Byte) :=
  match kind with
  | 2 => some [p.data.getD 0 0]
  | 4 => if p.nodeId = 0xFF then some [] else some [BitVec.ofNat 8 p.nodeId]
  | 5 => if p.kind = .eth then some (slice p.data 6 6) else some []
  | _ => none

/-- The part of `ADDRESS` compared for a kind: one byte or six (R171). -/
def addrPart (kind : Nat) (a : List Byte) : List Byte := if kind = 5 then slice a 0 6 else slice a 0 1

/-- Report a verdict at its first occurrence since the entry was read (R177). -/
def Dev.reportVerdict (d : Dev) (i v : Nat) (p : Packet) : Dev :=
  if (d.cat i).reported then d
  else (d.modCat i fun e => { e with reported := true }).event (d.cat i).ownerTenant 0x0014 0 i (detail16 (leBytes 1 v))
    (d.itemFlags p.transit p.companion)

/-- A change of liveness (R178): the low two bits of `STATE`, and one event record. -/
def Dev.setLive (d : Dev) (i st : Nat) : Dev :=
  let d := d.modCat i fun e => { e with state := e.state / 4 * 4 + st }
  d.event (d.cat i).ownerTenant 0x0015 0 i (detail16 (leBytes 1 (d.cat i).state))

/-- The ownership verdict (R174–R178): 0 none, 1 pass, 2 impostor, 3 overrate. `RATE_COUNT` saturates (DESIGN CHOICE, log entry 192). -/
def Dev.verdict (d : Dev) (p : Packet) (result : Nat) : Nat × Dev :=
  if !bitAt result 42 then (0, d)
  else
    let i := bitsOf result 41 28
    let e := d.cat i
    let impostor := (2, ((d.modCat i fun e => { e with impostors := min (2 ^ 32 - 1) (e.impostors + 1) }).trigger_ 4).reportVerdict i 2 p)
    if e.kind = 0 ∨ p.res ≠ e.resource then impostor
    else
      let expect := if accBefore e.changedAt p.acc then e.address else e.prevAddress
      let wrong := match srcAddress e.kind p with
        | none => false
        | some a => a != addrPart e.kind expect
      if wrong then impostor
      else
        let d := d.modCat i fun e => { e with rateCount := min 65535 (e.rateCount + 1) }
        if e.rateLimit ≠ 0 ∧ e.rateLimit < (d.cat i).rateCount then
          (3, (d.modCat i fun e => { e with overrates := min (2 ^ 32 - 1) (e.overrates + 1) }).reportVerdict i 3 p)
        else
          let d := d.modCat i fun e => { e with lastSeen := p.transit % 2 ^ 32 }
          (1, if bitAt e.policy 2 ∧ e.state % 4 ≠ 1 then d.setLive i 1 else d)

/-- Does the verdict release the packet (R175, R176)? -/
def Dev.verdictDrops (d : Dev) (result v : Nat) : Bool :=
  let pol := (d.cat (bitsOf result 41 28)).policy
  (v == 2 && bitAt pol 0) || (v == 3 && bitAt pol 1)

/-- The meter (R318): 0 green, 1 yellow, 2 red, and the new buckets. -/
def Meter.pass (m : Meter) (cir eir cbs ebs len t : Nat) (cf markRed : Bool) : Nat × Meter :=
  let u := 8000000
  let dt := t - m.last
  let add := dt * cir
  let spill := (m.c + add) - cbs * u
  let m := { m with last := max m.last t, c := min (cbs * u) (m.c + add),
                    e := min (ebs * u) (m.e + dt * eir + (if cf then spill else 0)) }
  if markRed && m.red then (2, m)
  else if len * u ≤ m.c then (0, { m with c := m.c - len * u })
  else if len * u ≤ m.e then (1, { m with e := m.e - len * u })
  else (2, if markRed then { m with red := true } else m)

/-- The stream filter of a packet: the lowest valid one with its shelfmark and port (R316). -/
def Dev.streamFilter (d : Dev) (p : Packet) (shelf : Nat) : Option Nat :=
  (List.range 1024).find? fun f =>
    d.on F.SF_CTL_VALID [f] && d.rd F.SF_MATCH_SHELFMARK [f] == shelf &&
      (d.rd F.SF_CTL_RESOURCE [f] == p.res || d.rd F.SF_CTL_RESOURCE [f] == 0xFF)

/-- Per-stream filtering and policing of a packet that an Ethernet port committed (R316–R319): does it pass, and is it
marked drop-eligible? -/
def Dev.police (d : Dev) (p : Packet) (shelf : Nat) : Bool × Bool × Dev :=
  if p.res < 0x20 ∨ 0x33 < p.res then (true, false, d)
  else
    match d.streamFilter p shelf with
    | none => (true, false, d)
    | some f =>
      if d.on F.SF_CTL_BLOCKED [f] ∨ d.rd F.SF_MATCH_MAX_SDU [f] < p.data.length then
        let d := d.bump F.SF_OVERSIZE_COUNT [f]
        (false, false, if d.on F.SF_CTL_BLOCK_OVERSIZE [f] then d.wr F.SF_CTL_BLOCKED [f] 1 else d)
      else if !d.on F.SF_CTL_METER_EN [f] then (true, false, d.bump F.SF_PASSED_COUNT [f])
      else
        let k := d.rd F.SF_CTL_METER [f]
        let t := p.stampSec * 1000000000 + p.stampNs
        let (colour, m) := (sget d.kept.meters k).pass (d.rd F.MTR_CIR_CIR [k]) (d.rd F.MTR_EIR_EIR [k])
          (d.rd F.MTR_CBS_CBS [k]) (d.rd F.MTR_EBS_EBS [k]) p.data.length t (d.on F.MTR_CIR_CF [k]) (d.on F.MTR_CIR_MARK_RED [k])
        let d := d.modK fun x => { x with meters := sput x.meters k m }
        if colour = 0 then (true, false, d.bump F.SF_PASSED_COUNT [f])
        else if colour = 1 then
          if d.on F.MTR_CIR_DROP_YELLOW [k] then (false, false, d.bump F.SF_YELLOW_DROP_COUNT [f])
          else (true, true, d.bump F.SF_PASSED_COUNT [f])
        else (false, false, d.bump F.SF_RED_DROP_COUNT [f])

/-! ### The almanac's entries -/

/-- Class code of an almanac entry (R41). -/
def clsOf (n : Nat) : Cls := if n = 0 then .safety else if n = 1 then .control else .bulk

/-- Is an entry active in a transit (R41)? -/
def AlmEntry_active (a : Almanac) (e : AlmEntry) (transit : Nat) : Bool :=
  transit % (max 1 a.hyper) % (max 1 e.period) == e.phase

/-- The first transit from `n` on in which an entry is active, within one hyperperiod. -/
def nextActive (a : Almanac) (e : AlmEntry) (n : Nat) : Nat :=
  match (List.range (max 1 e.period)).find? fun k => AlmEntry_active a e (n + k) with
  | some k => n + k
  | none => n

/-- The transit in which an item is eligible: its commit must precede the entry's `WINDOW_OPEN` (R56, R193). -/
def Dev.eligible (d : Dev) (a : Almanac) (e : AlmEntry) (p : Packet) : Nat :=
  let n := d.kept.transit
  let n := if p.transit = n ∧ d.point e.winOpen ≤ p.born then n + 1 else n
  nextActive a e n

/-- The flow action of a shelfmark in the active almanac (R42, R159): bits 31:16 of `TRIGGER` are 0, but for a SAFETY action's source, and
0xFFFF_FFFF names no packet. -/
def Almanac_flow (a : Almanac) (shelf : Nat) : Option AlmEntry :=
  a.entries.find? fun e => e.kind == 1 && (if e.cls = 0 then e.trigger % 65536 else e.trigger) == shelf

/-- Does a SAFETY flow action's source name the packet's source (R51, R790)? -/
def sourceOk (e : AlmEntry) (p : Packet) : Bool :=
  let s := e.trigger / 65536
  if e.cls ≠ 0 then true
  else if s = 0xFFFF then true
  else if s / 256 = 0 then p.res == s % 256
  else match p.host with
    | some h => s / 256 == 0x80 + h.tenant && s % 256 == h.ring
    | none => false

/-- A core. -/
def Dev.core (d : Dev) (c : Nat) : Core := sget d.cores c
def Dev.modCore (d : Dev) (c : Nat) (f : Core → Core) : Dev := { d with cores := smod d.cores c f }

/-- Entry by ENTRY_ID. -/
def Dev.entry (d : Dev) (id : Nat) : Option AlmEntry :=
  d.alm.bind fun a => a.entries.find? fun e => e.id == id

/-- Count an arrival of an entry over its sliding window: is the item excess (R61)? Excess items count in the window too (DESIGN CHOICE, log
entry 115) (DESIGN CHOICE, log entry 115). -/
def Dev.arrive (d : Dev) (e : AlmEntry) : Bool × Dev :=
  let n := d.kept.transit
  let w := (sget d.arrivals e.id).filter fun t => n < t + e.span
  (decide (e.bound ≤ w.length), { d with arrivals := sput d.arrivals e.id (w ++ [n]) })


/-! ### Outcomes -/

/-- A packet is released with a code for its host item (R157, R160, R163, R175, R176, R790) (DEDUCED, log entry 37). -/
def Dev.release_ (d : Dev) (h status : Nat) : Dev := (d.completeOpt (d.pkt h).host status).unref h

/-- No flow: `UNROUTED` of the ingress resource advances (R160, R790). -/
def Dev.unrouted (d : Dev) (h : Nat) : Dev := (d.bump F.UNROUTED_COUNT [(d.pkt h).res]).release_ h 0x12

/-- Push a finished packet to a queue, releasing the classifier's own reference; a host item completes by the outcome, with
TS_LOST where its stamp finds no entry (R367). A host item's packet leaves the queue only after the boundary that releases
its effects (R88, R396, R402). -/
def Dev.deliver (d : Dev) (h q : Nat) (bucket : Option (Nat × Nat)) : Dev :=
  let p := d.pkt h
  let (code, lost, d) := d.pushStamped q { handle := h, ready := if p.host.isSome then d.releaseTransit else 0, bucket }
  let d := if code = 0x11 ∧ p.host.isNone then d.dropFull p.res else d
  (match p.host with | some x => d.completeHeld x code lost.toNat | none => d).unref h

/-- Is a move one of the bucket's? -/
def Moved.isOf (tenant bucket : Nat) (b : Moved) : Bool := b.tenant == tenant && b.bucket == bucket

/-- Hold a packet behind the last move of its bucket. -/
def holdLast (tenant bucket : Nat) (x : Nat × QEntry) : List Moved → List Moved
  | [] => []
  | b :: l => if b.isOf tenant bucket && !(l.any (Moved.isOf tenant bucket)) then { b with held := b.held ++ [x] } :: l
              else b :: holdLast tenant bucket x l

/-- Spread a packet to a receive ring of its tenant (R167–R169). -/
def Dev.spread (d : Dev) (h tenant hash : Nat) : Dev :=
  let i := hash % 512
  let e := d.indirEntry tenant i
  let r := e % 64
  if !bitAt e 7 ∨ d.ringKind tenant r ≠ 2 then (d.bump F.SPREAD_NONE_COUNT [tenant]).release_ h 0x12
  else
    let q := d.rd F.RING_CFG_B_QUEUE [tenant, r]
    if d.buckets.any (Moved.isOf tenant i) then
      -- the bucket is on the move: the packet waits behind its last move (R169)
      { d with buckets := holdLast tenant i (q, { handle := h, bucket := some (tenant, i) }) d.buckets }
    else d.deliver h q (some (tenant, i))

/-- An outcome other than OK of an item that arrived from a medium: the counter of R749, and one event when it first
moves from 0 (R66). -/
def Dev.countOutcome (d : Dev) (id code cflags : Nat) : Dev :=
  let go (f : Fld) : Dev :=
    let first := d.rd f [id] == 0
    let d := d.bump f [id]
    if first then
      let owner := match d.entry id with | some e => e.owner | none => 0
      d.event owner 0x0010 code id (detail16 (leBytes 1 code)) cflags
    else d
  if code = 0x01 then go F.OUT_DELAYED_COUNT
  else if code = 0x10 then go F.OUT_BUDGET_COUNT
  else if code = 0x11 then go F.OUT_FULL_COUNT
  else if code = 0x12 then go F.OUT_POLICY_COUNT
  else if code = 0x20 then go F.OUT_ABSENT_COUNT
  else d

/-- An item reaches its outcome: a host item's completion, or the counters of its entry (R62–R66, R196). A carried item, or one
that live service held, is OK_DELAYED by the transits it waited (R710). -/
def Dev.outcome (d : Dev) (it : Item) (code : Nat) : Dev :=
  let code := if code = 0 ∧ (it.carried ∨ it.held.isSome) then 1 else code
  let d := if it.held.isSome ∧ code = 1 then d.bump F.HELD_SERVED_COUNT else d
  let delay := match it.held with | some n => d.kept.transit - n | none => 1
  match it.host with
  | some h => d.completeHeld h code it.tsLost.toNat (if code = 1 then delay else 0)
  | none =>
    match it.handle with
    | some h => d.countOutcome it.entry code (d.itemFlags it.transit (d.pkt h).companion)
    | none => d

/-- The class of an item of an almanac entry: an item of a host ring belongs to the ring's class (R60, R383). -/
def Dev.itemClass (d : Dev) (e : AlmEntry) (host : Option HostRef) : Cls :=
  match host with
  | some h => clsOf (d.ringClass h.tenant h.ring)
  | none => clsOf e.cls

/-- Hand an item to its flow's core (R57, R61, R62, R193); a core that live service quiesced answers PART_ABSENT (R720). -/
def Dev.toCore (d : Dev) (a : Almanac) (e : AlmEntry) (h : Nat) : Dev :=
  let p := d.pkt h
  if !sourceOk e p then d.unrouted h
  else
    let (excess, d) := d.arrive e
    let cls := d.itemClass e p.host
    let it : Item := { entry := e.id, cls, handle := some h, acc := p.acc, transit := p.transit,
                       elig := d.eligible a e p, excess := excess && cls != .bulk, host := p.host }
    if (d.gate e.resource).quiesced ∧ !d.gateOpen e.resource then (d.outcome it 0x20).unref h
    else d.modCore e.resource fun c => { c with queue := c.queue ++ [it] }

/-- Where a classified packet goes (R160, R402, R403). -/
def Dev.dispose (d : Dev) (h result hash : Nat) : Dev :=
  let p := d.pkt h
  match p.folio, p.direct with
  | some (ch, f, rep), _ =>
    -- its shelfmark counts it against its egress-load entry
    let d := match d.alm.bind fun a => a.entries.find? fun e => e.kind == 5 && e.resource == canPart ch && e.trigger == p.cls.shelf with
      | some e => (d.arrive e).2
      | none => d
    { d with release := d.release ++ [{ ref := p.host.getD {}, handle := h, body := .txFolio ch f rep [], ready := d.releaseTransit }] }
  | none, some q => d.deliver h q none
  | none, none =>
    let (pass, de, d) := d.police p p.cls.shelf
    if !pass then d.unref h
    else
      let d := d.modPkt h fun p => { p with dropElig := de }
      match d.alm with
      | none => if bitAt result 43 then d.spread h (bitsOf result 47 44) hash else d.unrouted h
      | some a =>
        match Almanac_flow a p.cls.shelf with
        | some e => d.toCore a e h
        | none => if bitAt result 43 then d.spread h (bitsOf result 47 44) hash else d.unrouted h

/-- Key profile and pattern set of a packet (R145, R150). -/
def Dev.profileOf (d : Dev) (p : Packet) : Nat × Nat :=
  match p.host with
  | some h => (d.rd F.RING_CFG_A_PROFILE [h.tenant, h.ring], d.rd F.RING_CFG_C_PM_SET [h.tenant, h.ring])
  | none => (d.rd F.RES_PROFILE_PROFILE [p.res], d.rd F.RES_PROFILE_PM_SET [p.res])

/-- The edit unit (R162, R163, R166): the handle of the edited packet, or nothing where the packet is released. Templates keep what the operations
used, also where no cell or handle is found for the result (DESIGN CHOICE, log entry 190). -/
def Dev.edit (d : Dev) (h act : Nat) : Option Nat × Dev :=
  if act = 0 then (some h, d)
  else
    let p := d.pkt h
    let ts := p.stampSec * 1000000000 + p.stampNs
    let (ok, e) := editAll d.parseCfg ts (sget d.kept.actions act) { kind := p.kind, data := p.data, templates := d.kept.templates }
    let d := d.modK fun k => { k with templates := e.templates }
    if !ok then (none, (d.bump F.ACT_FAIL_COUNT [act]).release_ h 0x12)
    else
      match d.storePkt { p with kind := e.kind, data := e.data, asIs := false } with
      | none => (none, (d.dropNoCell p.res).release_ h 0x11)
      | some (h', d) => (some h', d.unref h)

/-- The pipeline of R128 for one committed packet or host item. -/
def classifyPkt (h : Nat) (d : Dev) : Dev :=
  let p := d.pkt h
  let d := { d with toClassify := d.toClassify.filter (· != h) }
  let s := parseBytes d.parseCfg p.kind p.data
  let (prof, set) := d.profileOf p
  let pm := d.matchSet set p.data s
  let key := d.keyOf p prof pm s
  let (result, miss) := d.lookup prof key
  let d := if miss then d.bump F.MISS_COUNT [prof] else d
  let shelf := result % 65536
  let hash := if bitAt result 43 then d.spreadHash prof (bitsOf result 47 44) key else 0
  let flags := s.flags + (if p.bad ≠ 0 then pfBad else 0)
  let cls : Classified := { done := true, flags, hdrs := s.hdrs, built := s.built, pm, shelf, hash, payOff := s.pos, level := s.level, tags := s.tags }
  let d := d.modPkt h fun p => { p with cls }
  let sc := match d.alm.bind fun a => Almanac_flow a shelf with | some e => e.cls != 2 | none => false
  if bitAt result 49 then
    let d := d.recordPacket { p with cls } sc
    (d.bump F.CLASS_DROP_COUNT [prof]).release_ h 0x12
  else
    match d.edit h (bitsOf result 27 16) with
    | (none, d) => d.recordPacket { p with cls } sc   -- the edit fails before the verdict is taken: the record goes out unmarked
    | (some h', d) =>
      -- the packet's record precedes the marker of a trigger that its verdict pulls
      let v := (d.verdict p result).1
      let d := d.recordPacket { p with cls := { cls with verdict := v } } sc
      let d := (d.verdict p result).2.modPkt h' fun p => { p with cls := { p.cls with verdict := v } }
      if d.verdictDrops result v then d.release_ h' 0x12 else d.dispose h' result hash

/-- An entry's liveness at a boundary (R178). -/
def checkLive (i : Nat) (d : Dev) : Dev :=
  let e := d.cat i
  let behind := (d.kept.transit % 2 ^ 32 + 2 ^ 32 - e.lastSeen) % 2 ^ 32
  if e.kind ≠ 0 ∧ bitAt e.policy 2 ∧ e.state % 4 ≠ 2 ∧ e.liveTimeout ≤ behind then d.setLive i 2 else d

/-- The Catalogue at a boundary: rate spans restart (R174), but for one of 0 (DESIGN CHOICE, log entry 193). -/
def catalogueBoundary (d : Dev) : Dev :=
  d.modK fun k => { k with catalogue := smap (fun _ e =>
    if e.rateSpan ≠ 0 ∧ k.transit % e.rateSpan = 0 then { e with rateCount := 0 } else e) k.catalogue }

end Sys2Proof.Machine
end

