-- ==== Sys2Proof/Machine/Faults.lean ====
section
/-! DEFINITION. Uncorrectable faults: the withdrawal's first four steps, with the playback of the journal, the limit on
withdrawals and HALTED; masked faults and their repairs (R27, R28, R625–R643). -/

namespace Sys2Proof.Machine

/-! ### Channels (R460, R461) -/

/-- Die and local index of a channel 0–71, and back. -/
def chanDie (ch : Nat) : Nat := if ch < 64 then ch / 32 else (ch - 64) / 4
def chanLocal (ch : Nat) : Nat := if ch < 64 then ch % 32 else 32 + (ch - 64) % 4
def dieChan (die j : Nat) : Nat := if j < 32 then 32 * die + j else 64 + 4 * die + (j - 32)

/-- The 36 channels of a die. -/
def dieChans (die : Nat) : List Nat := (List.range 36).map (dieChan die)

/-- A power die. -/
def Dev.die (d : Dev) (i : Nat) : Die := sget d.dies i
def Dev.modDie (d : Dev) (i : Nat) (f : Die → Die) : Dev := { d with dies := smod d.dies i f }

/-- A die enters hold (R502); a hold in progress goes on. After a strobe with `TWIN_OK` every OUT channel goes OFF and every leg
FLOAT at once (R679) (DEDUCED, log entry 78). -/
def Dev.enterHold (d : Dev) (i : Nat) : Dev :=
  if (d.die i).hold then d
  else
    let twin := (d.die i).twin
    let cfg := d.kept.regs.filter fun e => decide (0x280000 ≤ e.1 ∧ e.1 < 0x2C0400)
    let d := d.modDie i fun x => { x with hold := true, holdSince := d.now, cfg }
    if twin then
      { d with chans := smap (fun ch c => if chanDie ch = i then { c with state := 0, rampLen := 0, rampPos := 0, inrushEnd := none, safe := true } else c) d.chans }
    else d

/-- The recorder's write position and status, which stand beside its ring (R123, R125). -/
def recorderReg (key : Nat) : Bool := key == R.REC_STATUS.base || key == R.REC_WRITE.base

/-- Registers that the playback leaves as they are: `BOOT_STATUS` with its seal, `BOOT_FALLBACK` and the log of resets, those of the ledger,
what the fault page shows of the withdrawal, what `PAIR_STATUS` and `PAIR_LINK` show of the companion, the recorder's position and status
(R125), the wake record (R543, R638 step 4, R644, R655, R744, R746, R11), and every side-effect counter: none ever loses a count that no
delivered read has returned (R10, R729) (DEDUCED, log entry 100). -/
def keptThrough (key : Nat) : Bool :=
  (0x10 ≤ key && key < 0x1C) || (0x10010 ≤ key && key < 0x10040) || (0x340004 ≤ key && key < 0x340018) || (0x2C0820 ≤ key && key < 0x2C0840) ||
    (0x2C0900 ≤ key && key < 0x2C0A00 && key % 0x20 == 0x14) || sideWindow key || recorderReg key || key == R.PAIR_STATUS.base ||
    key == R.PAIR_LINK.base

/-- Depth registers of queues, which start empty (R81): of Stacks queues and of CAN receive queues. -/
def depthReg (key : Nat) : Bool :=
  (0x10000000 ≤ key && key < 0x11000000 && key % 0x20 == R.QSTAT.base % 0x20) ||
    (0x180000 ≤ key && key < 0x1B0000 && key % 0x2000 == R.CAN_QSTAT.base % 0x2000)

/-- Mailbox pages, which the Strongroom's reboot clears. -/
def mailReg (key : Nat) : Bool := 0x310000 ≤ key && key < 0x314000

/-- `new` with the entries of `old` at the keys that `p` chooses. -/
def mergeRegs (p : Nat → Bool) (old new : Sparse Word) : Sparse Word :=
  (old.filter fun e => p e.1).foldl (fun m e => sput m e.1 e.2) (new.filter fun e => !p e.1)

/-- The journal is played back: each kept store returns to the last complete mirror delta, but a seal in force stays, and the
transit counter goes on (R38, R630, R638, R744). -/
def Dev.playback (d : Dev) : Kept :=
  let regs := (mergeRegs keptThrough d.kept.regs d.mirror.regs).filter fun e => !depthReg e.1 && !mailReg e.1
  -- the links of the host ports stay as they are (R398, R422)
  let regs := [0, 1, 2, 3].foldl (fun m p => fldPut m F.HOST_PORT_LINK_UP [p] (d.rd F.HOST_PORT_LINK_UP [p])) regs
  -- a derived master's clock runs on, and so does its offset (R370)
  let servo (m : Sparse Servo) (i : Nat) : Sparse Servo := sput m i { (sget d.mirror.servos i).settled with derOff := (sget d.kept.servos i).derOff }
  { d.mirror with regs, transit := d.kept.transit, servos := [0, 1, 2, 3].foldl servo [] }

/-- Withdrawals within the window that ends now (R642) (DEDUCED, log entry 83). -/
def Dev.recentWithdrawals (d : Dev) : List Nat :=
  d.wdTimes.filter fun t => decide (d.now ≤ t + d.rd F.FAULT_CFG_WD_WINDOW * 1000000000)

/-- A core's own memory as its image fills it: on a sequencer the code, and after the persistent area the initialised data
(R189, R190, R217). -/
def imgMem (c : Nat) (i : Image) : Sparse Byte :=
  let (code, init) := match i.body with | .core code init _ => (code, init) | _ => ([], [])
  let start := (if c < 16 then 0 else i.col.codeLen) + 64 * i.col.persistLines
  let put (m : Sparse Byte) (o : Nat) (l : List Byte) : Sparse Byte := (l.zipIdx.foldl (fun m e => sput m (o + e.2) e.1) m)
  put (if c < 16 then [] else put [] 0 code) start init

/-- What outlives a reset of the logic die's blocks beside the kept stores: the clocks, the ledger and the desk, the recorder in
external memory, MRAM, the power dies and their inputs, and what names the reset itself (R638 step 4, R729) (DEDUCED, log entry 62). -/
def Dev.stripped (d : Dev) : Dev :=
  let d := d.recWait.foldl Dev.writeRec d
  let core (n : Nat) (c : Core) : Core := { Core.idle with hasImage := c.hasImage, image := c.image, mem := if c.hasImage then imgMem n c.image else [] }
  let gate (g : Gate) : Gate := { quiesced := g.quiesced, st := if g.quiesced then 2 else 0 }
  { (default : Dev) with
    mode := d.mode, kept := d.kept, mirror := d.mirror, now := d.now, gradeF := d.gradeF, fresh := d.fresh, out := d.out
    tickStart := d.tickStart, tickLen := d.tickLen, track := d.track, alm := d.alm, memPart := d.memPart
    rewrites := d.rewrites, recShort := d.recShort, recGap := d.recGap, recs := d.recs, spans := d.spans, recCtl := d.recCtl
    cores := smap core d.cores, acc := d.acc, segs := d.segs, pastSegs := d.pastSegs, hist := d.hist, ledger := d.ledger, overflow := d.overflow
    msix := d.msix, msixPend := d.msixPend, pcie := d.pcie, chans := d.chans, dies := d.dies, wd := d.wd, wdTimes := d.wdTimes, doorbells := d.doorbells
    gates := smap (fun _ g => gate g) d.gates, tookOver := d.tookOver, marks := d.marks, inputs := d.inputs
    lin := if d.park.committed then smap (fun _ c => { asleep := c.asleep, sleepDue := c.sleepDue }) d.lin else []
    park := d.park, images := d.images, live := d.live, appliedAt := d.appliedAt
    pair := { sideB := d.pair.sideB, on := d.pair.on, hbSince := d.pair.hbSince }, boot := d.boot }

/-- Both dies hold, the companion of a pair is told over its link, with t0 in TD0 (R682), and every block but what is kept is reset (R638, R730, R731). -/
def Dev.goSilent (d : Dev) (acc : Nat) : Dev :=
  let d := (if d.pairOn then d.sendLink (.notice (d.timeAt 0 d.now / nsUnit).toNat acc) else d).emit (.heartbeat 0)
  ((d.enterHold 0).enterHold 1).stripped

/-- The reset of the Denren link block takes the link down, and with it the word on the companion's HELLO (R638 step 4, R669). -/
def Dev.linkOff (d : Dev) : Dev :=
  (((d.wr F.PAIR_STATUS_LINK_UP [] 0).wr F.PAIR_LINK_LANE0_OK [] 0).wr F.PAIR_LINK_LANE1_OK [] 0).wr F.PAIR_STATUS_BARRED [] 0

/-- Steps 1 to 4 of the withdrawal table, with the accession number of the cause already entered in the ledger. -/
def Dev.goDown (d : Dev) (acc part cause : Nat) : Dev :=
  let times := d.recentWithdrawals ++ [d.now]
  let halted := decide (d.rd F.FAULT_CFG_WD_LIMIT < times.length)
  let d := (d.wr F.FAULT_STATUS_LAST_PART [] part).wr F.FAULT_STATUS_LAST_CAUSE [] cause
  let d := d.wr F.FAULT_STATUS_STATE [] (if halted then 2 else 0)
  let d := d.incr F.FAULT_TOTAL_WD_TOTAL
  let d := d.bump F.WITHDRAWALS_COUNT
  let d := (d.goSilent acc).linkOff
  let k := d.playback
  { d with mode := if halted then .halted else .restart, kept := k, mirror := k, wd := { acc, part, cause, t0 := d.now }, wdTimes := times }

/-- An uncorrectable fault: the device withdraws (R28, R638). A report of a further part within 1 µs of t0 is covered by
the same restart; one during a restart begins it again (R637). A fault of a part with an open repair is the second fault of R635, whatever its
kind: it is entered with cause 0x09 and names that repair's entry (DEDUCED, log entry 146). -/
def Dev.withdraw (d : Dev) (part cause inst : Nat) (location : Nat := 0) : Dev :=
  if d.mode = .halted ∨ d.mode = .park ∨ d.mode = .bootHeld ∨ d.mode = .resetHeld then d
  else
    let open_ := d.openRepair part
    let d := if open_.isSome then d.bump F.ESCALATIONS_COUNT else d
    let cause := if open_.isSome then 0x09 else cause
    let (a, d) := d.number
    if d.mode = .restart ∧ d.now ≤ d.wd.t0 + 1000 then d.logAt a 2 part cause inst location d.wd.acc 0 open_.isSome true
    else (d.logAt a 2 part cause inst location (match open_ with | some e => e.acc | none => 0) 0 open_.isSome).goDown a part cause

/-- Parts whose detectors have no masked outcome: the Strongroom, the cipher pipelines and the desk (R631). -/
def neverMasks (part : Nat) : Bool := part == 0x8A || (0x8C ≤ part && part ≤ 0x8F) || part == 0x92

/-- Parts whose multi-bit errors lie outside every kept store: cores, bus controllers, ports, dies, supervisors, Stacks, external memory
and MRAM (R629, R631). -/
def multiBitEnds (part : Nat) : Bool :=
  [(0x00, 0x13), (0x20, 0x33), (0x40, 0x57), (0x60, 0x6F), (0x70, 0x71), (0x80, 0x83), (0x88, 0x89), (0x90, 0x90), (0x94, 0x95)].any fun x =>
    decide (x.1 ≤ part) && decide (part ≤ x.2)

/-- Parts of which two copies compare, so that a difference has no outvoted side: supervisors, Stacks pointers, TCAM match arrays and the
control of the dies (R95, R631). -/
def copiesDiffer (part : Nat) : Bool := part == 0x88 || part == 0x89 || part == 0x90 || part == 0x7E || part == 0x70 || part == 0x71

/-- Faults that no detector masks: those of the parts above, parity but in Stacks, a bridge timer, an overrun, retries spent, and a clock or
supply out of range (R95, R96, R631) (DEDUCED, log entry 146). -/
def neverMasked (part cause : Nat) : Bool :=
  neverMasks part || (cause == 2 && multiBitEnds part) || (cause == 3 && part != 0x90) || (cause == 4 && copiesDiffer part) ||
    (decide (5 ≤ cause) && decide (cause ≤ 8))

/-- A multi-bit error in the recorder partition: the record there counts as not written (R632) (DEDUCED, log entry 146). -/
def recordSpoilt (inst location : Nat) (d : Dev) : Dev :=
  let u := location / 32
  let hit (r : Rec) : Bool := decide (r.pos ≤ u) && decide (u < r.pos + r.units)
  let d := { d with recs := d.recs.map fun r => if hit r then { r with spoilt := true } else r, recGap := d.recGap + 1 }
  (((d.bump F.MASKED_COUNT [0x96]).bump F.REC_LOST_COUNT).log 4 0x96 0x0B inst location).2

/-- A detector corrects a fault: a MASKED entry, an open repair; a further fault of the part while a repair is open is
uncorrectable (R631, R634–R637). During a restart the repair is ended by the restart. -/
def maskFault (part cause inst location : Nat) (d : Dev) : Dev :=
  if neverMasked part cause ∨ (d.openRepair part).isSome then d.withdraw part cause inst location
  else if part = 0x96 ∧ cause = 2 then recordSpoilt inst location d
  else (d.bump F.MASKED_COUNT [part]).log 1 part cause inst location |>.2

/-- SVB handles the open repair with the lowest accession number and marks its entry HANDLED (R634). -/
def repairFirst (d : Dev) : Dev :=
  match d.firstRepair with
  | none => d
  | some (p, _) => d.markHandled p

/-- Restart ends every open repair: the entries are marked HANDLED (R637). -/
def Dev.handleAll (d : Dev) : Dev :=
  { d with ledger := smap (fun _ e => if e.cls = 1 ∧ !e.handled then { e with handled := true, autoPin := false } else e) d.ledger }

/-- A fault is injected into a part before SEAL (R655); one that finds a repair open takes the cause of R635 (DEDUCED, log entry 146). -/
def injectFault (part kind : Nat) (sealed field : Bool) (d : Dev) : Dev :=
  if sealed ∨ field ∨ !isPart part then d
  else if kind = 1 then maskFault part 0x0D 0 0 d
  else if kind = 2 then d.withdraw part 0x0D 0
  else if kind = 3 then
    -- two masked faults in one cycle: the one numbered second escalates (R635)
    maskFault part 0x0D 0 0 (maskFault part 0x0D 0 0 d)
  else d

/-- The flush of the ledger in an active transit: the oldest unflushed entries, up to `n` (R650). -/
def oldestUnflushed (l : Sparse LedgerEntry) : Option (Nat × LedgerEntry) :=
  l.foldl (fun best e =>
    if e.2.flushed then best
    else match best with
      | none => some e
      | some b => if accBefore e.2.acc b.2.acc then some e else some b) none

/-- Flush up to `n` entries: `FLUSHED` is set, the entry goes to the companion (R690), and event 0x0300 goes out for the classes that
`NOTIFY` names (R650). The overflow entry, of class 6, has no `FLUSHED` and is not flushed (DEDUCED, log entry 173). -/
def Dev.flushLedger : Nat → Dev → Dev
  | 0, d => d
  | n + 1, d =>
    match oldestUnflushed d.ledger with
    | none => d
    | some (p, e) =>
      let e := { e with flushed := true }
      let d := { d with ledger := sput d.ledger p e, openDelta := { d.openDelta with ledger := d.openDelta.ledger ++ [e.bytes] } }
      let d := if d.pairOn then d.sendLink (.ledger e.acc e.cls (byteAt e.bytes 7) e.part e.cause e.inst) else d
      let d := if bitAt (d.rd F.FAULT_CFG_NOTIFY) (e.cls - 1) then
          d.event (d.rd F.FAULT_CFG_FAULT_TENANT) 0x0300 0 e.part
            (detail16 (leBytes 1 e.cls ++ leBytes 1 e.cause ++ leBytes 2 e.inst ++ leBytes 2 p ++ leBytes 6 e.related))
        else d
      Dev.flushLedger n d

end Sys2Proof.Machine
end

