-- ==== Sys2Proof/Machine/Can.lean ====
section
/-! DEFINITION. CAN channels: acceptance and the receive queues, transmit folios, arbitration, cancellation, collisions,
errors and bus-off, and J1939 address claims (R226–R264, R280, R282, R792, R794). -/

namespace Sys2Proof.Machine

/-- Does the channel take part in bus traffic as a receiver? -/
def Dev.canListens (d : Dev) (ch : Nat) : Bool :=
  d.routes && d.on F.CAN_CFG_ENABLE [ch] && decide (d.canState ch < 2) && decide ((d.gate (canPart ch)).st ≠ 2)

/-- May it start a transmission: not in restricted operation, not the quiet unit of a pair, its gate open (R265, R448)? -/
def Dev.canSends (d : Dev) (ch : Nat) : Bool :=
  d.canListens ch && decide (d.rd F.CAN_CFG_MODE [ch] ≠ 1) && !d.quiet && d.gateOpen (canPart ch)

/-! ### Error counters (R254) -/

/-- The error state that the counters give (ISO 11898-1; PRESUMED, log entry 20). -/
def Dev.canErrState (d : Dev) (ch : Nat) : Nat :=
  if 128 ≤ d.rd F.CAN_STATUS_TEC [ch] ∨ 128 ≤ d.rd F.CAN_STATUS_REC [ch] then 1 else 0

/-- Show the error state after a counter changed. -/
def Dev.syncCan (d : Dev) (ch : Nat) : Dev :=
  if d.canState ch < 2 then d.wr F.CAN_STATUS_STATE [ch] (d.canErrState ch) else d

/-- Record an error (R280). -/
def Dev.canLec (d : Dev) (ch lec : Nat) (dataPhase : Bool) : Dev :=
  (if dataPhase then d.wr F.CAN_ERR_DLEC [ch] lec else d.wr F.CAN_ERR_LEC [ch] lec).wr F.CAN_ERR_ERR_NEW [ch] 1

/-- A good reception: the receive counter falls by one; above 127 it takes a value from 119 to 127 that ISO 11898-1
leaves open. -/
def Dev.canRxGood (d : Dev) (ch : Nat) : Dev :=
  let r := d.rd F.CAN_STATUS_REC [ch]
  let (x, d') := d.draw
  if r = 0 then d
  else if r ≤ 127 then (d.wr F.CAN_STATUS_REC [ch] (r - 1)).syncCan ch
  else (d'.wr F.CAN_STATUS_REC [ch] (119 + x % 9)).syncCan ch

/-- Is error signalling off: in the data phase of a CAN XL frame at `XL_FAST` 1 (R234, R259)? -/
def Dev.xlQuiet (d : Dev) (ch : Nat) (f : CanFrame) (dataPhase : Bool) : Bool :=
  dataPhase && f.xlf && d.on F.CAN_CFG_XL_FAST [ch]

/-- A reception error: the receive counter rises by 1, and by 8 for each further event that ISO 11898-1 counts so (R254;
PRESUMED, log entry 20). -/
def Dev.canRxErr (d : Dev) (ch lec more : Nat) (dataPhase : Bool) : Dev :=
  let d := (d.bump F.CAN_RX_ERR_COUNT [ch]).wr F.CAN_STATUS_REC [ch] (min 255 (d.rd F.CAN_STATUS_REC [ch] + 1 + 8 * more))
  (d.canLec ch lec dataPhase).syncCan ch

/-- A reception error without error signalling: nothing is signalled, so the counters stay, and the channel integrates on the
bus again (R259; PRESUMED, log entry 20). -/
def Dev.canRxQuiet (d : Dev) (ch lec : Nat) : Dev :=
  ((d.bump F.CAN_RX_ERR_COUNT [ch]).canLec ch lec true).wr F.CAN_STATUS_STATE [ch] 3

/-! ### Acceptance (R235, R236) -/

/-- The comparison value V. -/
def canV (f : CanFrame) : Nat :=
  if f.xlf then f.id % 2048 * 262144 + f.vcid % 256 else if f.ide then f.id % 536870912 else f.id % 2048 * 262144

/-- The outcome of acceptance: discard, or destination with the matching pair (0x7F unfiltered). -/
inductive Accept
  | discard
  | take (toStacks : Bool) (queue : Nat) (pair : Nat)
  deriving DecidableEq, Repr

/-- Does a frame match pair `k`? -/
def Dev.pairMatches (d : Dev) (ch k : Nat) (f : CanFrame) : Bool :=
  let v := BitVec.ofNat 29 (canV f)
  let i := BitVec.ofNat 29 (d.rd F.FILT_MATCH_ID [ch, k])
  let m := BitVec.ofNat 29 (d.rd F.FILT_MASK_MASK [ch, k])
  d.on F.FILT_MATCH_VALID [ch, k] && d.on F.FILT_MASK_IDE [ch, k] == f.ide && d.on F.FILT_MASK_XLF [ch, k] == f.xlf &&
    ((v ^^^ i) &&& m) == 0

/-- Acceptance. -/
def Dev.accept (d : Dev) (ch : Nat) (f : CanFrame) : Accept :=
  match (List.range 64).find? fun k => d.pairMatches ch k f with
  | some k =>
    let q := d.rd F.FILT_MATCH_QUEUE [ch, k]
    if q = 3 then .discard else .take (d.on F.FILT_MASK_STACKS [ch, k]) q k
  | none =>
    match d.rd F.CAN_CFG_UNFILTERED [ch] with
    | 0 => .discard
    | 1 => .take true 0 0x7F
    | 2 => .take false 2 0x7F
    | _ => .take true 2 0x7F

/-! ### Receive queues (R238–R241) -/

/-- The 96 bytes of a receive folio. -/
def rxFolioBytes (f : CanFrame) (acc pair ns sec seq : Nat) (lost : Bool) : List Byte :=
  (pseudoOf f).take 8 ++ leBytes 6 acc ++ leBytes 1 pair ++ leBytes 1 lost.toNat ++ leBytes 4 ns ++ leBytes 4 sec ++
    slice f.data 0 64 ++ leBytes 4 0 ++ leBytes 4 (2147483648 + seq)

/-- Put a folio into a receive queue; answers the queue and whether it was full (R240). -/
def RxQueue.store (q : RxQueue) (f : CanFrame) (acc pair ns sec : Nat) : RxQueue × Bool :=
  if 128 ≤ q.folios.length then ({ q with lost := true }, true)
  else ({ q with folios := q.folios ++ [rxFolioBytes f acc pair ns sec q.seq q.lost],
                 seq := (q.seq + 1) % 65536, lost := false }, false)

/-- Store an accepted frame in queue 1 (Q-A) or 2 (Q-B) (R237–R240). -/
def Dev.storeRx (d : Dev) (ch queue : Nat) (f : CanFrame) (acc pair sof : Nat) : Dev :=
  if f.xlf ∧ 64 < f.data.length then d.bump F.CAN_XL_SKIP_COUNT [ch]
  else
    let (s, n) := d.stamp 0 sof
    let c := d.canCh ch
    if queue = 1 then
      let (q, full) := c.qa.store f acc pair n (s % 4294967296)
      let d := d.modCan ch fun c => { c with qa := q }
      if full then d.bump F.CAN_QA_OVERRUN_COUNT [ch] else d.wr F.CAN_QSTAT_QA_DEPTH [ch] q.folios.length
    else
      let (q, full) := c.qb.store f acc pair n (s % 4294967296)
      let d := d.modCan ch fun c => { c with qb := q }
      if full then d.bump F.CAN_QB_OVERRUN_COUNT [ch] else d.wr F.CAN_QSTAT_QB_DEPTH [ch] q.folios.length

/-- A lock not released by the second boundary after it was taken is released (R241). -/
def RxQueue.unlockAt (q : RxQueue) (transit : Nat) : RxQueue :=
  match q.lock with
  | some (_, t) => if t + 2 ≤ transit then { q with lock := none } else q
  | none => q

def folioLockExpiry (ch : Nat) (queueB : Bool) (d : Dev) : Dev :=
  d.modCan ch fun c =>
    if queueB then { c with qb := c.qb.unlockAt d.kept.transit } else { c with qa := c.qa.unlockAt d.kept.transit }

/-! ### J1939 address claims (R261, R262) -/

/-- Set or clear `CLAIM_LOST` of an entry. -/
def Dev.setClaim (d : Dev) (i : Nat) (lost : Bool) : Dev :=
  d.modCat i fun e => { e with state := insBits e.state 2 2 lost.toNat }

/-- Change an entry's `ADDRESS` at an accession number (R172, R179). -/
def Dev.setAddress (d : Dev) (i : Nat) (a : List Byte) (acc : Nat) : Dev :=
  d.modCat i fun e => if slice e.address 0 6 = slice a 0 6 then e else { e with address := a, prevAddress := e.address, changedAt := acc }

/-- A claim of `name` for address `sa` on channel `ch`. -/
def Dev.onClaim (d : Dev) (ch name sa acc : Nat) : Dev :=
  let node (e : CatEntry) : Bool := e.kind == 2 && e.resource == canPart ch
  let e := (d.kept.catalogue.find? fun x => node x.2 && x.2.name == name).map Prod.fst
  let h := d.kept.catalogue.find? fun x =>
    node x.2 && some x.1 != e && byteAt x.2.address 0 == sa && !bitAt x.2.state 2
  if sa = 254 then (match e with | some i => d.setClaim i true | none => d)
  else
    match e, h with
    | none, none => d.bump F.CAN_CLAIM_UNKNOWN_COUNT [ch]
    | none, some (j, x) =>
      let d := d.bump F.CAN_CLAIM_UNKNOWN_COUNT [ch]
      if name < x.name then d.setClaim j true else d
    | some i, none => (d.setAddress i (patch (slice (d.cat i).address 0 6) 0 [BitVec.ofNat 8 sa]) acc).setClaim i false
    | some i, some (j, x) =>
      if x.name < name then d.setClaim i true
      else ((d.setAddress i (patch (slice (d.cat i).address 0 6) 0 [BitVec.ofNat 8 sa]) acc).setClaim i false).setClaim j true

/-- The claim in a committed frame, where it is one. -/
def Dev.checkClaim (d : Dev) (ch : Nat) (f : CanFrame) (acc : Nat) : Dev :=
  if d.on F.CAN_CFG_J1939 [ch] ∧ f.ide ∧ f.id / 65536 % 256 = 0xEE ∧ f.data.length = 8 then
    d.onClaim ch (ofLe f.data) (f.id % 256) acc
  else d

/-! ### Reception -/

/-- The sample point of the start-of-frame bit of a frame that started at `sof`: a synchronisation quantum and TSEG1 quanta on, each of
BRP cycles of 80 MHz (R228, R230). -/
def Dev.sofSample (d : Dev) (ch sof : Nat) : Nat :=
  sof + (d.rd F.CAN_NBT_NTSEG1 [ch] + 2) * (d.rd F.CAN_NBT_NBRP [ch] + 1) * 25 / 2

/-- A valid frame after acceptance: commit to Stacks, receive queue, or both under one number (R236, R237). -/
def Dev.canTake (d : Dev) (ch : Nat) (f : CanFrame) (sof : Nat) : Dev :=
  let sof := d.sofSample ch sof
  match d.accept ch f with
  | .discard => d.bump F.CAN_FILTERED_OUT_COUNT [ch]
  | .take toStacks queue pair =>
    let (s, n) := d.stamp 0 sof
    let r := if toStacks then
        match d.commit { data := pseudoOf f ++ f.data, kind := .can, res := canPart ch, writer := canPart ch,
                         stampSec := s, stampNs := n, stampAt := sof } with
        | some (h, d) => let a := (d.pkt h).acc; (some a, d.checkClaim ch f a)
        | none => (none, d.dropNoCell (canPart ch))
      else (none, d)
    if queue = 0 then r.2
    else
      match r with
      | (some a, d) => d.storeRx ch queue f a pair sof
      | (none, d) => let (a, d) := d.number; d.storeRx ch queue f a pair sof

/-- The last error code of a reception, its further counter events, and whether it ended before the acceptance decision. A
frame that another node breaks off ends in an error flag, which a receiver sees as a stuff error. -/
def rxFault : CanRx → Nat × Nat × Bool
  | .good => (0, 0, false)
  | .stuffErr early n | .aborted early n => (1, n, early)
  | .formErr n | .resBit n => (2, n, false)
  | .bitErr n => (5, n, false)
  | .crcErr n => (6, n, false)

/-- A frame that the channel's filter discards is counted at the decision (R236). -/
def Dev.countFiltered (d : Dev) (ch : Nat) (f : CanFrame) : Dev :=
  match d.accept ch f with
  | .discard => d.bump F.CAN_FILTERED_OUT_COUNT [ch]
  | .take .. => d

/-- A frame that fails after it was accepted for Stacks returns the cells that its words had taken (R75, R79). -/
def Dev.canRewind (d : Dev) (ch : Nat) (f : CanFrame) : Dev :=
  match d.accept ch f with
  | .take true _ _ => d.rewindPacket (canPart ch) (pseudoOf f ++ f.data).length
  | _ => d

/-- A recessive res bit: a protocol exception, or a form error (R234). -/
def Dev.resRecessive (d : Dev) (ch more : Nat) : Dev :=
  if d.on F.CAN_CFG_PEX [ch] then d.wr F.CAN_STATUS_STATE [ch] 3 else d.canRxErr ch 2 more false

/-- From the commit of sleep on, a channel's error counters and state stay as they are (R534). -/
def Dev.frozen (d : Dev) (ch : Nat) (n : Dev) : Dev :=
  let keep (f : Fld) (n : Dev) : Dev := n.wr f [ch] (d.rd f [ch])
  if d.park.committed then keep F.CAN_STATUS_STATE (keep F.CAN_STATUS_REC (keep F.CAN_STATUS_TEC n)) else n

/-- A frame on the bus has ended for a receiver (R234–R237). The decision falls at the end of the arbitration field: a frame
that the filter discards is counted there, however it ends. One that fails its check, or is broken off, gives its cells back (R75)
and is counted in `RX_ERR` (DEDUCED, log entry 75). In internal loopback a channel hears its bus only while the unit does not drive: R265
holds every channel in restricted operation then. -/
def canReceive (ch : Nat) (f : CanFrame) (e : CanRx) (dataPhase : Bool) (sof : Nat) (d : Dev) : Dev :=
  d.frozen ch <|
  if !d.canListens ch ∨ (d.rd F.CAN_CFG_MODE [ch] = 2 ∧ !d.quiet) then d
  else if !d.canFormat ch f then d.resRecessive ch (rxFault e).2.1
  else
    match e with
    | .good => (d.canRxGood ch).canTake ch f sof
    | .resBit n => ((d.countFiltered ch f).canRewind ch f).resRecessive ch n
    | e =>
      let (lec, more, early) := rxFault e
      let d := if early then d else (d.countFiltered ch f).canRewind ch f
      if d.xlQuiet ch f dataPhase then d.canRxQuiet ch lec else d.canRxErr ch lec more dataPhase

/-- 11 recessive bits end integration (R263). -/
def busIntegrated (ch : Nat) (d : Dev) : Dev :=
  if d.runs ∧ !d.park.committed ∧ d.on F.CAN_CFG_ENABLE [ch] ∧ d.canState ch = 3 then d.wr F.CAN_STATUS_STATE [ch] (d.canErrState ch) else d

/-! ### Folios (R245–R253) -/

/-- The frame of a folio reaches its outcome: the folio empties, a host item completes, and a folio that a queue feeds takes its next
packet (R245). -/
def Dev.folioDone (d : Dev) (ch k code : Nat) : Dev :=
  let f := d.folio ch k
  ((d.modFolio ch k fun _ => { last := code }).completeOpt f.host code).refeed ch k

/-- A cancel reaches a folio (R249–R251). -/
def Dev.cancelFolio (d : Dev) (ch k : Nat) : Nat × Dev :=
  let st := (d.folio ch k).st
  if st = 0 then (0x40, d)
  else if st = 1 then (0x40, d.folioDone ch k 0x40)
  else (0x41, d.modFolio ch k fun f => { f with st := 3 })

/-- The code by which a mirror delta and a departure report name a folio: queues have codes below it (R670, R675). -/
def folioCode (ch k : Nat) : Nat := 0x10000 + 64 * ch + k

/-- Place a frame: it is pending. -/
def Dev.placeFolio (d : Dev) (ch k : Nat) (b : List Byte) (host : Option HostRef) (acc : Nat) : Dev :=
  let p : Packet := { data := b, kind := .can, res := canPart ch }
  (d.noteEgress (folioCode ch k) p host).modFolio ch k fun f =>
    { st := 1, data := b, coll := 0, last := f.last, born := d.kept.transit, acc, host, own := d.ownMark, tally := tallyOf p }

/-- A frame placed for a host item by an engine goes to the wire only after the boundary that releases its effects (R396). -/
def Dev.holdFolio (d : Dev) (ch k : Nat) : Dev := d.modFolio ch k fun f => { f with ready := d.releaseTransit }

/-- The folio judges a frame in the order of R792. `src` is the caller's kind as `FOLIO_CFG.SOURCE`, `id` its number. -/
def Dev.folioPut (d : Dev) (ch k src id : Nat) (replace : Bool) (kind : PktKind) (b : List Byte) (host : Option HostRef)
    (acc : Nat) : Nat × Dev :=
  if !d.on F.FOLIO_CFG_VALID [ch, k] ∨ d.rd F.FOLIO_CFG_SOURCE [ch, k] ≠ src ∨ d.rd F.FOLIO_CFG_SRC_ID [ch, k] ≠ id then (0x12, d)
  else if d.canState ch = 2 then (0x43, d)
  else if !d.folioHolds ch k kind b then (0x12, d)
  else if (d.folio ch k).st = 0 then (0, d.placeFolio ch k b host acc)
  else if !replace then (0x11, d)
  else
    match d.cancelFolio ch k with
    | (0x41, d) => (0x41, d)
    | (_, d) => (0, d.placeFolio ch k b host acc)

/-! ### Arbitration and transmission (R248, R250, R252, R253) -/

/-- The arbitration field as a 32-bit string, dominant 0 first. -/
def arbField (f : CanFrame) : Nat :=
  if f.ide ∧ !f.xlf then f.id / 262144 % 2048 * 2097152 + 1572864 + f.id % 262144 * 2 + f.rtr.toNat
  else f.id % 2048 * 2097152 + f.rtr.toNat * 1048576

/-- The folio that would win on the bus; equal fields go to the lowest index. -/
def Dev.bestFolio (d : Dev) (ch : Nat) : Option Nat :=
  ((List.range 64).foldl (fun (best : Option (Nat × Nat)) k =>
    let f := d.folio ch k
    if f.st = 1 ∧ f.ready ≤ d.kept.transit then
      let a := arbField (canOfBytes f.data)
      match best with
      | none => some (a, k)
      | some (b, _) => if a < b then some (a, k) else best
    else best) none).map Prod.snd

/-- The folio in transmission. -/
def Dev.txFolio (d : Dev) (ch : Nat) : Option Nat := (List.range 64).find? fun k => decide (2 ≤ (d.folio ch k).st)

/-- An arbitration opportunity (R248): the transmission of the selected folio begins. -/
def canArbitrate (ch : Nat) (d : Dev) : Dev :=
  if d.canSends ch ∧ d.txFolio ch = none then
    match d.bestFolio ch with
    | none => d
    | some k => d.modFolio ch k fun f => { f with st := 2 }
  else d

/-- Tenants that are the source of a folio of the channel (R255). -/
def Dev.folioTenants (d : Dev) (ch : Nat) : List Nat :=
  (List.range 16).filter fun t => (List.range 64).any fun k =>
    d.on F.FOLIO_CFG_VALID [ch, k] && d.rd F.FOLIO_CFG_SOURCE [ch, k] == 1 && d.rd F.FOLIO_CFG_SRC_ID [ch, k] == t

/-- The channel enters bus-off (R255, R256). -/
def Dev.busOff (d : Dev) (ch : Nat) : Dev :=
  let d := d.wr F.CAN_STATUS_STATE [ch] 2
  let d := (List.range 64).foldl (fun d k => if (d.folio ch k).st = 0 then d else d.folioDone ch k 0x43) d
  let d := d.bump F.CAN_BUS_OFF_COUNT [ch]
  let d := (d.folioTenants ch).foldl (fun d t => d.event t 0x0016 0x43 (canPart ch)) d
  if d.on F.CAN_CFG_BOFF_AUTO [ch] then d.modCan ch fun c => { c with recovering := true } else d

/-- The error code of a transmission that failed, and whether it failed in a collision (R252, R280). -/
def txFault : CanTx → Nat × Bool
  | .acked | .arbLost => (0, false)
  | .bitDataErr _ => (7, true)
  | .ackErr .. => (3, false)
  | .otherErr lec .. => (lec, false)

/-- By how much a failed transmission raises the transmit counter: 8, and 8 for each further event; not for a missing
acknowledgement of an error-passive sender that sees no dominant bit in its error flag, nor for a stuff error in arbitration
where the stuff bit was sent recessive and read dominant (ISO 11898-1; PRESUMED, log entry 20). -/
def txPenalty (passive : Bool) : CanTx → Nat
  | .acked | .arbLost => 0
  | .bitDataErr n => 8 + 8 * n
  | .ackErr seen n => (if passive && !seen then 0 else 8) + 8 * n
  | .otherErr lec arb n => (if lec == 1 && arb then 0 else 8) + 8 * n

/-- The counters and the error code after a failed transmission. Where error signalling is off, the counter stays (R259). -/
def Dev.canTxErr (d : Dev) (ch : Nat) (f : CanFrame) (e : CanTx) (dataPhase : Bool) : Dev :=
  let n := if d.xlQuiet ch f dataPhase then 0 else txPenalty (d.canState ch == 1) e
  ((d.canLec ch (txFault e).1 dataPhase).wr F.CAN_STATUS_TEC [ch] (min 511 (d.rd F.CAN_STATUS_TEC [ch] + n))).syncCan ch

/-- The collision count after a failed transmission: one that won arbitration and ended in anything else resets it, and an
error inside the arbitration field leaves it (R253). -/
def collAfter (e : CanTx) (coll : Nat) : Nat :=
  match e with
  | .bitDataErr _ => min 3 (coll + 1)
  | .otherErr _ true _ | .arbLost => coll
  | .acked | .ackErr .. | .otherErr _ false _ => 0

/-- The loop delay measured on a frame sent (R232, R233). -/
def Dev.measureTdc (d : Dev) (ch : Nat) (loop : Option Nat) : Dev :=
  match loop with
  | none => d
  | some n =>
    if !d.on F.CAN_TDC_TDC_EN [ch] then d
    else
      let d := if n < d.rd F.CAN_TDC_TDCF [ch] then d else d.wr F.CAN_STATUS_TDCV [ch] (min 127 n)
      d.wr F.CAN_STATUS_TDC_SAT [ch] (if 127 < d.rd F.CAN_STATUS_TDCV [ch] + d.rd F.CAN_TDC_TDCO [ch] then 1 else 0)

/-- A transmission ends in an error (R250, R252, R253, R255). -/
def Dev.txError (d : Dev) (ch k : Nat) (e : CanTx) (dataPhase : Bool) : Dev :=
  let collision := (txFault e).2
  let d := d.canTxErr ch (canOfBytes (d.folio ch k).data) e dataPhase
  let d := d.modFolio ch k fun f => { f with coll := collAfter e f.coll }
  if 256 ≤ d.rd F.CAN_STATUS_TEC [ch] then d.busOff ch
  else if (d.folio ch k).st = 3 then d.folioDone ch k 0x40
  else if collision ∧ 2 ≤ (d.folio ch k).coll then (d.bump F.CAN_COLLISIONS_COUNT [ch]).folioDone ch k 0x42
  else d.modFolio ch k fun f => { f with st := 1 }

/-- A frame is sent and acknowledged, without bit rate switch where `BRS_EN` is 0 (R234); in a loopback mode the channel
receives it too (R229). -/
def Dev.txSent (d : Dev) (ch k sof : Nat) : Dev :=
  let f := canOfBytes (d.folio ch k).data
  let f := { f with brs := f.brs && d.on F.CAN_CFG_BRS_EN [ch] }
  let mode := d.rd F.CAN_CFG_MODE [ch]
  let d := (d.wr F.CAN_STATUS_TEC [ch] (d.rd F.CAN_STATUS_TEC [ch] - 1)).syncCan ch
  let left := d.folio ch k
  let d := (d.folioDone ch k 0).departed (left.queue.getD (folioCode ch k)) left.tally
  let d := if mode = 2 then d else d.emit (.canFrame ch f)
  if mode = 2 ∨ mode = 3 then d.canTake ch f sof else d

/-- The end of a transmission (R250). In the loopback modes a missing acknowledgement is no error (R229). -/
def canTxEnd (ch : Nat) (e : CanTx) (dataPhase : Bool) (loop : Option Nat) (sof : Nat) (d : Dev) : Dev :=
  d.frozen ch <|
  if !d.runs then d
  else
    match d.txFolio ch with
    | none => d
    | some k =>
      let d := d.measureTdc ch loop
      let mode := d.rd F.CAN_CFG_MODE [ch]
      match e with
      | .acked => d.txSent ch k sof
      | .ackErr .. => if mode = 2 ∨ mode = 3 then d.txSent ch k sof else d.txError ch k e dataPhase
      | .arbLost =>
        let d := d.bump F.CAN_ARB_LOST_COUNT [ch]
        if (d.folio ch k).st = 3 then d.folioDone ch k 0x40 else d.modFolio ch k fun f => { f with st := 1 }
      | .bitDataErr _ | .otherErr .. => d.txError ch k e dataPhase

/-- Bus-off recovery is asked for (R256, R794). -/
def recoverCan (ch : Nat) (d : Dev) : Dev :=
  if d.canState ch = 2 ∧ !(d.canCh ch).recovering ∧ !d.on F.CAN_CFG_BOFF_AUTO [ch]
  then d.modCan ch fun c => { c with recovering := true } else d

/-- Recovery ends (R256): the counters restart and the channel is error-active. A channel off the medium recovers after it has rejoined (R723). -/
def recoveryComplete (ch : Nat) (d : Dev) : Dev :=
  if d.runs ∧ !d.park.committed ∧ d.gateOpen (canPart ch) ∧ d.canState ch = 2 ∧ ((d.canCh ch).recovering ∨ d.on F.CAN_CFG_BOFF_AUTO [ch]) then
    let d := d.modCan ch fun c => { c with recovering := false }
    let d := (d.wr F.CAN_STATUS_TEC [ch] 0).wr F.CAN_STATUS_REC [ch] 0
    feedFolios ch (d.wr F.CAN_STATUS_STATE [ch] 0)
  else d

/-- A folio still pending at its `EXPIRE`-th boundary is cancelled (R247) (DEDUCED, log entry 74). -/
def expireFolio (ch k : Nat) (d : Dev) : Dev :=
  let f := d.folio ch k
  let e := d.rd F.FOLIO_CFG_EXPIRE [ch, k]
  if e ≠ 0 ∧ f.st ≠ 0 ∧ f.born + e = d.kept.transit then (d.cancelFolio ch k).2 else d

end Sys2Proof.Machine
end

