-- ==== Sys2Proof/Machine/Crypto.lean ====
section
/-! DEFINITION. The published algorithms that the spec names: AES-128 and AES-256 (FIPS 197), their modes (NIST SP 800-38A,
-38B, -38D), the counter-mode KDF of NIST SP 800-108, and SHA-256 (FIPS 180-4) (R555, R567, R568, R575, R597). -/

namespace Sys2Proof.Machine

/-! ### AES -/

/-- The S-box of FIPS 197, entry 0 in the low byte. -/
def sboxTable : Nat :=
  0xc072a49cafa2d4adf04759fa7dc982ca76abd7fe2b670130c56f6bf27b777c63 * 2 ^ 0 +
  0x75b227ebe28012079a059618c323c7041531d871f1e5a534ccf73f362693fdb7 * 2 ^ 256 +
  0xcf584c4a39becb6a5bb1fc20ed00d153842fe329b3d63b52a05a6e1b1a2c8309 * 2 ^ 512 +
  0xd2f3ff1021dab6bcf5389d928f40a351a89f3c507f02f94585334d43fbaaefd0 * 2 ^ 768 +
  0xdb0b5ede14b8ee4688902a22dc4f816073195d643d7ea7c41744975fec130ccd * 2 ^ 1024 +
  0x8ae7a65eaf4566ca94ed58d6d37c8e779e4959162acd3c25c2406490a3a32e0 * 2 ^ 1280 +
  0x9e1dc186b95735610ef6034866b53e708a8bbd4b1f74dde8c6b4a61c2e2578ba * 2 ^ 1536 +
  0x16bb54b00f2d99416842e6bf0d89a18cdf2855cee9871e9b948ed9691198f8e1 * 2 ^ 1792

/-- Its inverse. -/
def invSboxTable : Nat :=
  0xcbe9dec444438e3487ff2f9b8239e37cfbd7f3819ea340bf38a53630d56a0952 * 2 ^ 0 +
  0x25d18b6d49a25b76b224d92866a12e084ec3fa420b954cee3d23c2a632947b54 * 2 ^ 256 +
  0x849d8da75746155edab9edfd5048706c92b6655dcc5ca4d41698688664f6f872 * 2 ^ 512 +
  0x6b8a130103bdafc1020f3fca8f1e2cd00645b3b80558e4f70ad3bc8c00abd890 * 2 ^ 768 +
  0x6edf751ce837f9e28535ade72274ac9673e6b4f0cecff297eadc674f4111913a * 2 ^ 1024 +
  0xf45acd78fec0db9a2079d2c64b3e56fc1bbe18aa0e62b76f89c5291d711af147 * 2 ^ 1280 +
  0xef9cc9939f7ae52d0d4ab519a97f51605fec8027591012b131c7078833a8dd1f * 2 ^ 1536 +
  0x7d0c2155631469e126d677ba7e042b17619953833cbbebc8b0f52aae4d3be0a0 * 2 ^ 1792

/-- One byte through a table. -/
def lookup8 (t : Nat) (b : Byte) : Byte := BitVec.ofNat 8 (nbyte t b.toNat)

/-- Multiplication by x in the field of AES. -/
def xtime (b : Byte) : Byte := (b <<< 1) ^^^ (if b.getLsbD 7 then 0x1B#8 else 0#8)

/-- Multiplication of a field element by a small constant. -/
def gmul (k : Nat) (b : Byte) : Byte :=
  let b2 := xtime b
  let b4 := xtime b2
  let b8 := xtime b4
  (if bitAt k 0 then b else 0#8) ^^^ (if bitAt k 1 then b2 else 0#8) ^^^ (if bitAt k 2 then b4 else 0#8) ^^^
    (if bitAt k 3 then b8 else 0#8)

/-- Exclusive or of two byte strings, as long as the shorter. -/
def xorBytes (a b : List Byte) : List Byte := List.zipWith (fun x y => x ^^^ y) a b

/-- Byte `r + 4c` of the state goes round by its row `r`, left (`true`) or right. -/
def shiftRows (left : Bool) (s : List Byte) : List Byte :=
  (List.range 16).map fun i =>
    let r := i % 4
    let c := i / 4
    s.getD (r + 4 * ((c + (if left then r else 4 - r)) % 4)) 0#8

/-- One column times the circulant of (a, b, c, d). -/
def mixColumn (m : List Nat) (col : List Byte) : List Byte :=
  (List.range 4).map fun r =>
    (List.range 4).foldl (fun acc k => acc ^^^ gmul (m.getD ((k + 4 - r) % 4) 0) (col.getD k 0#8)) 0#8

def mixColumns (m : List Nat) (s : List Byte) : List Byte :=
  (List.range 4).flatMap fun c => mixColumn m (slice s (4 * c) 4)

/-- Key expansion: `n` further words after the `rev` reversed words already made, `nk` words of key. -/
def expandKey (nk : Nat) : Nat → List (List Byte) → Byte → List (List Byte)
  | 0, ws, _ => ws
  | n + 1, ws, rc =>
    let i := ws.length
    let t := ws.getD (i - 1) []
    let sub (w : List Byte) : List Byte := w.map (lookup8 sboxTable)
    let t' := if i % nk = 0 then xorBytes (sub (t.drop 1 ++ t.take 1)) [rc, 0#8, 0#8, 0#8]
      else if 6 < nk ∧ i % nk = 4 then sub t else t
    expandKey nk n (ws ++ [xorBytes (ws.getD (i - nk) []) t']) (if i % nk = 0 then xtime rc else rc)

/-- The round keys, 16 bytes each: 11 for a 16-byte key, 15 for a 32-byte key. -/
def roundKeys (key : List Byte) : List (List Byte) :=
  let nk := key.length / 4
  let rounds := nk + 6
  let ws := expandKey nk (4 * (rounds + 1) - nk) ((List.range nk).map fun i => slice key (4 * i) 4) 1#8
  (List.range (rounds + 1)).map fun r => (List.range 4).flatMap fun k => ws.getD (4 * r + k) []

def aesRounds : List (List Byte) → List Byte → List Byte
  | [], s => s
  | [k], s => xorBytes (shiftRows true (s.map (lookup8 sboxTable))) k
  | k :: ks, s => aesRounds ks (xorBytes (mixColumns [2, 3, 1, 1] (shiftRows true (s.map (lookup8 sboxTable)))) k)

/-- AES encryption of one block with expanded keys. -/
def aesWith (ks : List (List Byte)) (b : List Byte) : List Byte :=
  match ks with
  | [] => b
  | k :: r => aesRounds r (xorBytes b k)

def aesInvRounds : List (List Byte) → List Byte → List Byte
  | [], s => s
  | [k], s => xorBytes ((shiftRows false s).map (lookup8 invSboxTable)) k
  | k :: ks, s => aesInvRounds ks (mixColumns [14, 11, 13, 9] (xorBytes ((shiftRows false s).map (lookup8 invSboxTable)) k))

/-- AES decryption of one block with expanded keys. -/
def aesInvWith (ks : List (List Byte)) (b : List Byte) : List Byte :=
  match ks.reverse with
  | [] => b
  | k :: r => aesInvRounds r (xorBytes b k)

/-- AES encryption of one block. -/
def aes (key b : List Byte) : List Byte := aesWith (roundKeys key) b

/-! ### Modes -/

/-- A byte string cut into `n` blocks of 16, the last as it is. -/
def blocks16 (l : List Byte) : List (List Byte) := (List.range (cdiv l.length 16)).map fun i => (l.drop (16 * i)).take 16

/-- A counter block plus `i`, modulo 2¹²⁸ (R597) or in its low 32 bits alone (GCM). -/
def ctrBlock (iv : List Byte) (i : Nat) : List Byte := beBytes 16 (ofBe iv + i)
def ctr32Block (iv : List Byte) (i : Nat) : List Byte := iv.take 12 ++ beBytes 4 (ofBe (iv.drop 12) + i)

/-- CTR over data with a block counter function. -/
def ctrWith (ks : List (List Byte)) (blk : Nat → List Byte) (data : List Byte) : List Byte :=
  ((blocks16 data).mapIdx fun i b => xorBytes b (aesWith ks (blk i))).flatten

def aesCtr (key iv data : List Byte) : List Byte := ctrWith (roundKeys key) (ctrBlock iv) data

/-- CBC. -/
def cbcEnc (ks : List (List Byte)) : List Byte → List (List Byte) → List Byte
  | _, [] => []
  | iv, b :: r => let c := aesWith ks (xorBytes b iv); c ++ cbcEnc ks c r
def cbcDec (ks : List (List Byte)) : List Byte → List (List Byte) → List Byte
  | _, [] => []
  | iv, c :: r => xorBytes (aesInvWith ks c) iv ++ cbcDec ks c r

/-- CFB-128. -/
def cfbEnc (ks : List (List Byte)) : List Byte → List (List Byte) → List Byte
  | _, [] => []
  | iv, b :: r => let c := xorBytes b (aesWith ks iv); c ++ cfbEnc ks c r
def cfbDec (ks : List (List Byte)) : List Byte → List (List Byte) → List Byte
  | _, [] => []
  | iv, c :: r => xorBytes c (aesWith ks iv) ++ cfbDec ks c r

/-- OFB. -/
def ofb (ks : List (List Byte)) : List Byte → List (List Byte) → List Byte
  | _, [] => []
  | iv, b :: r => let o := aesWith ks iv; xorBytes b o ++ ofb ks o r

/-- Doubling in the field of CMAC. -/
def cmacDouble (b : List Byte) : List Byte :=
  let n := ofBe b * 2
  beBytes 16 (if n < 2 ^ 128 then n else (n - 2 ^ 128) ^^^ 0x87)

/-- AES-CMAC, 16 bytes. -/
def cmac (key msg : List Byte) : List Byte :=
  let ks := roundKeys key
  let k1 := cmacDouble (aesWith ks (List.replicate 16 0#8))
  let bs := blocks16 msg
  let last := bs.getLastD []
  let fin := if last.length = 16 then xorBytes last k1
    else xorBytes (last ++ [0x80#8] ++ List.replicate (15 - last.length) 0#8) (cmacDouble k1)
  aesWith ks (xorBytes (bs.dropLast.foldl (fun x b => aesWith ks (xorBytes x b)) (List.replicate 16 0#8)) fin)

/-- Multiplication in the field of GHASH. -/
def ghashMul (x y : BitVec 128) : BitVec 128 :=
  ((List.range 128).foldl (fun (p : BitVec 128 × BitVec 128) i =>
    let z := if x.getLsbD (127 - i) then p.1 ^^^ p.2 else p.1
    let v := if p.2.getLsbD 0 then (p.2 >>> 1) ^^^ (0xE1#128 <<< 120) else p.2 >>> 1
    (z, v)) (0#128, y)).1

/-- A block padded with zeros, as a field element. -/
def ghashBlock (b : List Byte) : BitVec 128 := BitVec.ofNat 128 (ofBe (slice b 0 16))

/-- GHASH over additional data and ciphertext. -/
def ghash (h : BitVec 128) (aad c : List Byte) : BitVec 128 :=
  let y := ((blocks16 aad) ++ (blocks16 c)).foldl (fun y b => ghashMul (y ^^^ ghashBlock b) h) 0#128
  ghashMul (y ^^^ BitVec.ofNat 128 (aad.length * 8 * 2 ^ 64 + c.length * 8)) h

/-- The GCM tag of a ciphertext, 16 bytes. -/
def gcmTag (ks : List (List Byte)) (iv aad c : List Byte) : List Byte :=
  let h := ghashBlock (aesWith ks (List.replicate 16 0#8))
  xorBytes (beBytes 16 (ghash h aad c).toNat) (aesWith ks (iv ++ [0#8, 0#8, 0#8, 1#8]))

/-- The GCM key stream applied to data (12-byte IV). -/
def gcmCrypt (ks : List (List Byte)) (iv data : List Byte) : List Byte :=
  ctrWith ks (fun i => ctr32Block (iv ++ [0#8, 0#8, 0#8, 2#8]) i) data

/-! ### Key derivation -/

/-- The counter-mode KDF with AES-256-CMAC and 256 bits of output (R555; PRESUMED, log entry 24). -/
def kdf (root label : List Byte) : List Byte :=
  let part (i : Nat) : List Byte := cmac root (beBytes 4 i ++ label ++ [0#8] ++ beBytes 4 256)
  part 1 ++ part 2

/-! ### SHA-256 -/

/-- Round constants, 32 bits each, the first lowest. -/
def shaK : Nat :=
  0xab1c5ed5923f82a459f111f13956c25be9b5dba5b5c0fbcf71374491428a2f98 * 2 ^ 0 +
  0xc19bf1749bdc06a780deb1fe72be5d74550c7dc3243185be12835b01d807aa98 * 2 ^ 256 +
  0x76f988da5cb0a9dc4a7484aa2de92c6f240ca1cc0fc19dc6efbe4786e49b69c1 * 2 ^ 512 +
  0x1429296706ca6351d5a79147c6e00bf3bf597fc7b00327c8a831c66d983e5152 * 2 ^ 768 +
  0x92722c8581c2c92e766a0abb650a735453380d134d2c6dfc2e1b213827b70a85 * 2 ^ 1024 +
  0x106aa070f40e3585d6990624d192e819c76c51a3c24b8b70a81a664ba2bfe8a1 * 2 ^ 1280 +
  0x682e6ff35b9cca4f4ed8aa4a391c0cb334b0bcb52748774c1e376c0819a4c116 * 2 ^ 1536 +
  0xc67178f2bef9a3f7a4506ceb90befffa8cc7020884c8781478a5636f748f82ee * 2 ^ 1792

/-- Initial hash value. -/
def shaH0 : Nat :=
  0x5be0cd191f83d9ab9b05688c510e527fa54ff53a3c6ef372bb67ae856a09e667 * 2 ^ 0

/-- Word `i` of a table of 32-bit words. -/
def word32 (t i : Nat) : Word := BitVec.ofNat 32 (t / 2 ^ (32 * i))

/-- The message schedule. -/
def shaSchedule : Nat → List Word → List Word
  | 0, w => w
  | n + 1, w =>
    let t := w.length
    let g (i : Nat) : Word := w.getD (t - i) 0
    let s0 := (g 15).rotateRight 7 ^^^ (g 15).rotateRight 18 ^^^ ((g 15) >>> 3)
    let s1 := (g 2).rotateRight 17 ^^^ (g 2).rotateRight 19 ^^^ ((g 2) >>> 10)
    shaSchedule n (w ++ [g 16 + s0 + g 7 + s1])

/-- One round on the eight working words. -/
def shaRound (s : List Word) (k w : Word) : List Word :=
  let a := s.getD 0 0
  let e := s.getD 4 0
  let s1 := e.rotateRight 6 ^^^ e.rotateRight 11 ^^^ e.rotateRight 25
  let ch := (e &&& s.getD 5 0) ^^^ (~~~e &&& s.getD 6 0)
  let t1 := s.getD 7 0 + s1 + ch + k + w
  let s0 := a.rotateRight 2 ^^^ a.rotateRight 13 ^^^ a.rotateRight 22
  let maj := (a &&& s.getD 1 0) ^^^ (a &&& s.getD 2 0) ^^^ (s.getD 1 0 &&& s.getD 2 0)
  [t1 + (s0 + maj), a, s.getD 1 0, s.getD 2 0, s.getD 3 0 + t1, e, s.getD 5 0, s.getD 6 0]

/-- One 64-byte block. -/
def shaBlock (h : List Word) (b : List Byte) : List Word :=
  let w := shaSchedule 48 ((List.range 16).map fun i => BitVec.ofNat 32 (ofBe (slice b (4 * i) 4)))
  let s := (List.range 64).foldl (fun s i => shaRound s (word32 shaK i) (w.getD i 0)) h
  List.zipWith (fun x y => x + y) h s

/-- SHA-256, 32 bytes. -/
def sha256 (m : List Byte) : List Byte :=
  let pad := m ++ [0x80#8] ++ List.replicate ((119 - m.length % 64) % 64) 0#8 ++ beBytes 8 (8 * m.length)
  let h := (List.range (pad.length / 64)).foldl (fun h i => shaBlock h (slice pad (64 * i) 64))
    ((List.range 8).map (word32 shaH0))
  h.flatMap fun w => beBytes 4 w.toNat

end Sys2Proof.Machine
end

