-- ==== Sys2Proof/Machine/Keys.lean ====
section
/-! DEFINITION. Key slots and their use by handle: virtual slots, attribute rules, grants, the binding of an operation to a
generation, and the cipher operations themselves (R555–R564, R582–R587, R596–R608, R618). -/

namespace Sys2Proof.Machine

/-- ASCII of a derivation label. -/
def labelStore : List Byte := [0x52, 0x56, 0x47, 0x20, 0x53, 0x54, 0x4F, 0x52, 0x45]
def labelPairEnc : List Byte := [0x52, 0x56, 0x47, 0x20, 0x50, 0x41, 0x49, 0x52, 0x20, 0x45, 0x4E, 0x43]
def labelPairMac : List Byte := [0x52, 0x56, 0x47, 0x20, 0x50, 0x41, 0x49, 0x52, 0x20, 0x4D, 0x41, 0x43]
def labelService : List Byte := [0x52, 0x56, 0x47, 0x20, 0x53, 0x45, 0x52, 0x56, 0x49, 0x43, 0x45]
def labelProvision : List Byte := [0x52, 0x56, 0x47, 0x20, 0x50, 0x52, 0x4F, 0x56, 0x49, 0x53, 0x49, 0x4F, 0x4E]

/-- Usage bits of R561. -/
def useEncrypt : Nat := 0
def useDecrypt : Nat := 1
def useMacGen : Nat := 2
def useMacVerify : Nat := 3
def useUnwrap : Nat := 4
def useImage : Nat := 5
def useAuth : Nat := 6
def useKek : Nat := 7
def useSign : Nat := 8
def useBulk : Nat := 9

def KeySlot.uses (s : KeySlot) (b : Nat) : Bool := bitAt s.usage b
def KeySlot.pair (s : KeySlot) : Bool := bitAt s.sflags 0
def KeySlot.frozen (s : KeySlot) : Bool := bitAt s.sflags 2

/-- The key that an AES slot holds: 16 or 32 bytes (R560). -/
def KeySlot.aesKey (s : KeySlot) : List Byte := slice s.value 0 (if s.type = 1 then 16 else 32)

/-- Is a slot virtual (R559)? -/
def isVirtual (n : Nat) : Bool := n == 2 || n == 3

/-- A slot of the working store, with the roots as virtual slots in the states that have them (R555, R556, R559). -/
def Strongroom.slot (r : Strongroom) (n : Nat) : KeySlot :=
  if n = 2 then
    if (r.lifecycle = 0 ∨ r.lifecycle = 3) ∧ !r.blown then
      { value := kdf r.root (labelService ++ leBytes 1 r.lifecycle), type := 2, usage := 192 } else {}
  else if n = 3 then
    if r.lifecycle = 1 ∧ !r.blown then { value := kdf r.root labelProvision, type := 2, usage := 192 } else {}
  else sget r.slots n

/-- The attribute rules of R560–R563 for one slot. -/
def attrOk (s : KeySlot) : Bool :=
  let aesT := s.type == 1 || s.type == 2
  let u (b : Nat) : Bool := bitAt s.usage b
  decide (s.type ≤ 5) && decide (s.usage < 1024) && decide (s.sflags < 16) &&
    (!u useAuth || s.usage == 64 && aesT) &&
    (!u useKek || s.usage == 128 && aesT) &&
    (!(u useEncrypt || u useDecrypt || u useMacGen || u useMacVerify || u useUnwrap || u useBulk) || aesT) &&
    (!u useBulk || (u useEncrypt || u useDecrypt || u useMacGen || u useMacVerify)) &&
    (!u useSign || s.type == 3) && (!u useImage || s.type == 4) &&
    (!bitAt s.sflags 1 || s.type == 4 || s.type == 5) &&
    (s.type != 0 || (s.usage == 0 && s.sflags == 0 && s.value.all fun b => b == 0#8)) &&
    (s.type != 5 || s.usage == 0) &&
    (s.type != 1 || (s.value.drop 16).all fun b => b == 0#8)

/-- Slots with `BULK` (R601). -/
def Strongroom.bulkCount (r : Strongroom) : Nat := (r.slots.filter fun e => e.2.uses useBulk).length

/-- Is a handle in form, and its slot not virtual (R599)? -/
def handleOk (h : Nat) : Bool := decide (h < 512) && !isVirtual h

/-- A tenant's and an engine's grant of a slot (R600). -/
def Dev.tgrant (d : Dev) (t h : Nat) : Bool := bitAt (d.rd F.TGRANT_SLOTS [t, h / 32]) (h % 32)
def Dev.egrant (d : Dev) (e h : Nat) : Bool := bitAt (d.rd F.EGRANT_SLOTS [e, h / 32]) (h % 32)

/-- What an operation submitted at an accession number is bound to (R582–R587): the material of its generation, or
nothing where it is withdrawn. -/
def Dev.boundKey (d : Dev) (sr : Strongroom) (h sub : Nat) : Option KeySlot :=
  match d.superseded.find? fun s => s.slot == h && accBefore sub s.acc with
  | none => some (sr.slot h)
  | some s => s.key

/-! ### One cipher operation (R597, R598, R607) -/

/-- What an operation asks: opcode, mode, and the lengths of its parts. -/
structure CipherReq where
  op : Nat := 0
  mode : Nat := 0
  tagLen : Nat := 0
  ivLen : Nat := 0
  length : Nat := 0
  aadLen : Nat := 0
  deriving DecidableEq, Repr

/-- GMAC: GCM over additional data alone (R597). -/
def CipherReq.gmac (q : CipherReq) : Bool := q.mode == 1 && q.length == 0

/-- Does the operation generate or verify a tag without ciphering? -/
def CipherReq.macOnly (q : CipherReq) : Bool := q.mode == 2 || q.gmac

/-- Does the operation check a received tag or decrypt? -/
def CipherReq.inbound (q : CipherReq) : Bool := q.op == 0x41 || q.op == 0x43

/-- The ranges of R597 and R607. -/
def CipherReq.ok (q : CipherReq) : Bool :=
  let lenOk (lo : Nat) : Bool := decide (lo ≤ q.length) && decide (q.length ≤ 16384)
  let plain : Bool := (q.op == 0x40 || q.op == 0x41) && q.tagLen == 0 && q.ivLen == 16 && q.aadLen == 0
  match q.mode with
  | 1 => decide (0x40 ≤ q.op) && decide (q.op ≤ 0x43) && (decide (q.op ≤ 0x41) || q.length == 0) && q.ivLen == 12 && lenOk 0 &&
      (q.tagLen == 4 || q.tagLen == 8 || (decide (12 ≤ q.tagLen) && decide (q.tagLen ≤ 16)))
  | 2 => (q.op == 0x42 || q.op == 0x43) && q.ivLen == 0 && q.aadLen == 0 && lenOk 0 && decide (8 ≤ q.tagLen) && decide (q.tagLen ≤ 16)
  | 3 => plain && lenOk 16 && q.length % 16 == 0
  | 4 => plain && lenOk 1
  | 5 => plain && lenOk 1
  | 6 => plain && lenOk 1
  | _ => false

/-- The usage bit that an operation needs (R597). -/
def CipherReq.need (q : CipherReq) : Nat :=
  if q.macOnly then (if q.inbound then useMacVerify else useMacGen) else (if q.inbound then useDecrypt else useEncrypt)

/-- Run an operation over its buffer (R607): the data and the tag it puts out, or nothing where the tag check fails. -/
def CipherReq.run (q : CipherReq) (key buf : List Byte) : Option (List Byte × List Byte) :=
  let ks := roundKeys key
  let iv := slice buf 0 q.ivLen
  let aad := slice buf q.ivLen q.aadLen
  let data := slice buf (q.ivLen + q.aadLen) q.length
  let got := slice buf (q.ivLen + q.aadLen + q.length) q.tagLen
  let dec := q.op == 0x41
  match q.mode with
  | 1 =>
    if q.inbound then (if (gcmTag ks iv aad data).take q.tagLen = got then some (gcmCrypt ks iv data, []) else none)
    else let c := gcmCrypt ks iv data; some (c, (gcmTag ks iv aad c).take q.tagLen)
  | 2 =>
    let t := (cmac key data).take q.tagLen
    if q.inbound then (if t = got then some (data, []) else none) else some (data, t)
  | 3 => some (if dec then cbcDec ks iv (blocks16 data) else cbcEnc ks iv (blocks16 data), [])
  | 4 => some (ctrWith ks (ctrBlock iv) data, [])
  | 5 => some (if dec then cfbDec ks iv (blocks16 data) else cfbEnc ks iv (blocks16 data), [])
  | _ => some (ofb ks iv (blocks16 data), [])

/-- Blocks that the counters of R624 count for an operation. -/
def CipherReq.blocks (q : CipherReq) : Nat := cdiv (q.aadLen + q.length) 16

/-- The outcome of using a handle for an operation: the key, or the refusing code. `grant` says that the user may use the
slot; `bulk` that the slot must carry `BULK` (R599, R600, R608, R585, R597). -/
def Dev.useKey (d : Dev) (sr : Strongroom) (h sub need : Nat) (grant bulk : Bool) : Except Nat KeySlot :=
  if !handleOk h ∨ !grant then .error 0x12
  else
    match d.boundKey sr h sub with
    | none => .error 0x50
    | some k =>
      if (k.type = 1 ∨ k.type = 2) ∧ k.uses need ∧ (!bulk ∨ k.uses useBulk) then .ok k else .error 0x12

end Sys2Proof.Machine
end

