-- ==== Sys2Proof/Machine/P256.lean ====
section
/-! DEFINITION. ECDSA over the NIST P-256 curve, as FIPS 186-5 gives it: signing a digest (R615) and verifying an image's
signature (R220, R222). Published algorithms; PRESUMED from that standard (PRESUMED, log entry 6). -/

namespace Sys2Proof.Machine

def p256P : Nat := 0xffffffff00000001000000000000000000000000ffffffffffffffffffffffff
def p256N : Nat := 0xffffffff00000000ffffffffffffffffbce6faada7179e84f3b9cac2fc632551
def p256B : Nat := 0x5ac635d8aa3a93e7b3ebbd55769886bc651d06b0cc53b0f63bce3c3e27d2604b
def p256Gx : Nat := 0x6b17d1f2e12c4247f8bce6e563a440f277037d812deb33a0f4a13945d898c296
def p256Gy : Nat := 0x4fe342e2fe1a7f9b8ee7eb4a7c0f9e162bce33576b315ececbb6406837bf51f5

/-- `a ^ e` modulo `m`, for an exponent of at most `k` bits. -/
def powMod (m a : Nat) : Nat → Nat → Nat
  | 0, _ => 1 % m
  | k + 1, e =>
    let h := powMod m (a * a % m) k (e / 2)
    if e % 2 = 1 then a * h % m else h

/-- The inverse modulo a prime. -/
def invMod (m a : Nat) : Nat := powMod m (a % m) 256 (m - 2)

/-- A difference modulo `m` of two residues. -/
def subMod (m a b : Nat) : Nat := (a + m - b % m) % m

/-- A point of the curve; none is the point at infinity. -/
abbrev Point := Option (Nat × Nat)

def onCurve (x y : Nat) : Bool :=
  decide (x < p256P) && decide (y < p256P) && y * y % p256P == (x * x * x + subMod p256P 0 (3 * x) + p256B) % p256P

def ecDouble : Point → Point
  | none => none
  | some (x, y) =>
    if y = 0 then none
    else
      let l := (3 * x * x + p256P - 3) * invMod p256P (2 * y) % p256P
      let x3 := subMod p256P (subMod p256P (l * l) x) x
      some (x3, subMod p256P (l * subMod p256P x x3) y)

def ecAdd : Point → Point → Point
  | none, q => q
  | p, none => p
  | some (x1, y1), some (x2, y2) =>
    if x1 = x2 then (if y1 = y2 then ecDouble (some (x1, y1)) else none)
    else
      let l := subMod p256P y2 y1 * invMod p256P (subMod p256P x2 x1) % p256P
      let x3 := subMod p256P (subMod p256P (l * l) x1) x2
      some (x3, subMod p256P (l * subMod p256P x1 x3) y1)

/-- `e` times a point, for a scalar of at most `k` bits. -/
def ecMul (p : Point) : Nat → Nat → Point
  | 0, _ => none
  | k + 1, e =>
    let h := ecDouble (ecMul p k (e / 2))
    if e % 2 = 1 then ecAdd h p else h

def p256G : Point := some (p256Gx, p256Gy)

/-- The signature of a digest with the private scalar `key` and the nonce `k`: r, then s, 32 bytes big-endian each. -/
def ecdsaSign (key digest : List Byte) (k : Nat) : List Byte :=
  match ecMul p256G 256 k with
  | none => List.replicate 64 0
  | some (x, _) =>
    let r := x % p256N
    let s := invMod p256N k * (ofBe digest + r * ofBe key) % p256N
    beBytes 32 r ++ beBytes 32 s

/-- Does a signature of a digest verify with the public key (x, y)? -/
def ecdsaVerify (x y digest sig : List Byte) : Bool :=
  let r := ofBe (slice sig 0 32)
  let s := ofBe (slice sig 32 32)
  if r = 0 ∨ p256N ≤ r ∨ s = 0 ∨ p256N ≤ s ∨ !onCurve (ofBe x) (ofBe y) then false
  else
    let w := invMod p256N s
    match ecAdd (ecMul p256G 256 (ofBe digest * w % p256N)) (ecMul (some (ofBe x, ofBe y)) 256 (r * w % p256N)) with
    | none => false
    | some (px, _) => px % p256N == r

end Sys2Proof.Machine
end

