-- ==== Sys2Proof/Machine/Strongroom.lean ====
section
/-! DEFINITION. The Strongroom: the check of a message, its commit, the lifecycle, the proof reply, superseded material, and
the rebuild of the key store (R550–R592). -/

namespace Sys2Proof.Machine

/-- The device with its Strongroom. -/
abbrev WithSr := Dev × Strongroom

/-! ### Copies (R577–R581) -/

/-- The committed counter of a kind. -/
def Strongroom.ctr (r : Strongroom) (pair : Bool) : Nat := if pair then r.pairCounter else r.counter

/-- The storage key SK(s) (R555). -/
def Strongroom.storageKey (r : Strongroom) (s : Nat) : List Byte := kdf r.root (labelStore ++ leBytes 1 s)

/-- What the tag of a copy covers (R577). -/
def KeyCopy.bytes (c : KeyCopy) : List Byte :=
  c.value ++ leBytes 1 c.type ++ leBytes 1 c.sflags ++ leBytes 2 c.usage ++ leBytes 4 c.gen ++ leBytes 1 c.pair.toNat ++ leBytes 4 c.counter

/-- The copy of a slot's content for a lifecycle state, with the counter that it carries: the value encrypted, and all of it tagged, under that
state's storage key (R577) (DESIGN CHOICE, log entry 177). -/
def Strongroom.sealCopy (r : Strongroom) (state n : Nat) (s : KeySlot) (pair : Bool) (counter : Nat) : KeyCopy :=
  let sk := r.storageKey state
  let c : KeyCopy := { written := true, value := aesCtr sk (Config.storeBlock n s.gen) (slice s.value 0 32), type := s.type, sflags := s.sflags
                       usage := s.usage, gen := s.gen, pair, counter }
  { c with tag := cmac (Config.storeTagKey sk) c.bytes }

/-- What a valid copy holds. -/
def Strongroom.openCopy (r : Strongroom) (n : Nat) (c : KeyCopy) : KeySlot :=
  { value := if c.type = 0 then [] else aesCtr (r.storageKey r.lifecycle) (Config.storeBlock n c.gen) c.value
    type := c.type, sflags := c.sflags, usage := c.usage, gen := c.gen }

/-- Is a copy valid: its tag verifies under the storage key of the current state, and its counter is committed (R580)? -/
def Strongroom.validCopy (r : Strongroom) (c : KeyCopy) : Bool :=
  r.lifecycle != 4 && decide (c.counter ≤ r.ctr c.pair) &&
    (if c.written then c.tag == cmac (Config.storeTagKey (r.storageKey r.lifecycle)) c.bytes else r.lifecycle == 0)

/-- Is position P the active one of a slot? -/
def Strongroom.activeP (r : Strongroom) (n : Nat) : Bool :=
  let p := sget r.copyP n
  let q := sget r.copyQ n
  r.validCopy p && (!r.validCopy q || decide (q.gen ≤ p.gen))

/-- Write a copy into a slot's inactive position (R579). -/
def Strongroom.writeCopy (r : Strongroom) (n : Nat) (c : KeyCopy) : Strongroom :=
  if r.activeP n then { r with copyQ := sput r.copyQ n c } else { r with copyP := sput r.copyP n c }

/-- What a slot is rebuilt from (R580): its valid copy with the higher generation, or empty and exhausted. -/
def Strongroom.rebuilt (r : Strongroom) (n : Nat) : Option KeySlot :=
  let p := sget r.copyP n
  let q := sget r.copyQ n
  if r.activeP n then some (r.openCopy n p) else if r.validCopy q then some (r.openCopy n q) else none

/-- The working store with every slot of a list but the virtual ones at its content. -/
def fillSlots (f : Nat → KeySlot) (l : List Nat) : Sparse KeySlot :=
  l.foldl (fun m n => if isVirtual n then m else sput m n (f n)) []

/-- Rebuild the working store at a boot or restart, with a ledger entry for each slot that has no valid copy, and reload the pipelines (R553,
R580, R603). In DECOMMISSIONED, which has no storage key, no copy is valid (DEDUCED, log entry 64). -/
def rebuildStore (x : WithSr) : WithSr :=
  let (d, r) := x
  let lost := (List.range 512).filter fun n => !isVirtual n && (r.rebuilt n).isNone
  let r := { r with slots := fillSlots (fun n => (r.rebuilt n).getD { gen := 0xFFFFFFFF }) (List.range 512) }
  let d := lost.foldl (fun d n => d.noticeEntry 0x8A n 0) d
  ([0, 1, 2, 3].foldl (fun d p => d.bump F.SCHED_LOADS_COUNT [p] r.bulkCount) d, r)

/-! ### The message (R565–R568) -/

/-- The first `len` bytes of a page's message registers. -/
def Dev.srMsg (d : Dev) (page len : Nat) : List Byte :=
  (((List.range 128).map fun w => leBytes 4 (d.rd F.SR_MSG_DATA [page, w])).flatten).take len

/-- Header fields. -/
def msgOp (m : List Byte) : Nat := byteAt m 5
def msgCount (m : List Byte) : Nat := byteAt m 6
def msgPair (m : List Byte) : Bool := byteAt m 7 == 1
def msgCounter (m : List Byte) : Nat := ofLe (slice m 40 4)
def msgAuth (m : List Byte) : Nat := ofLe (slice m 44 2)
def msgKek (m : List Byte) : Nat := ofLe (slice m 46 2)
def msgTarget (m : List Byte) : Nat := byteAt m 48

/-- Record fields of record `i` (R566). -/
def recOf (m : List Byte) (i : Nat) : List Byte := slice m (64 + 48 * i) 48
def recSlot (b : List Byte) : Nat := ofLe (slice b 0 2)
def recRop (b : List Byte) : Nat := byteAt b 2
def recAbort (b : List Byte) : Bool := byteAt b 3 == 1
def recGen (b : List Byte) : Nat := ofLe (slice b 4 4)
def recType (b : List Byte) : Nat := byteAt b 8
def recSflags (b : List Byte) : Nat := byteAt b 9
def recUsage (b : List Byte) : Nat := ofLe (slice b 10 2)

/-- All records of a message. -/
def msgRecs (m : List Byte) : List (List Byte) := (List.range (msgCount m)).map (recOf m)

/-- Is the form of a record right: slot, operation, flags, reserved bytes, bits and types (R560–R562, R566) (DEDUCED, log entry 63)? -/
def recForm (b : List Byte) : Bool :=
  decide (recSlot b < 512) && decide (1 ≤ recRop b) && decide (recRop b ≤ 3) &&
    (byteAt b 3 == 0 || (byteAt b 3 == 1 && recRop b == 2)) && (slice b 12 4).all (· == 0#8) &&
    (recRop b != 1 || decide (recType b ≤ 5)) && (recRop b == 2 || (decide (recSflags b < 16) && decide (recUsage b < 1024)))

/-- Do slots ascend strictly? -/
def ascending : List Nat → Bool
  | a :: b :: r => decide (a < b) && ascending (b :: r)
  | _ => true

/-- Magic, format, operation, count, length, reserved fields and record order (R569, first check) (DEDUCED, log entry 63). -/
def msgForm (m : List Byte) : Bool :=
  ofLe (slice m 0 4) == 0x4B555244 && byteAt m 4 == 1 && decide (byteAt m 7 ≤ 1) &&
    ((msgOp m == 1 && decide (1 ≤ msgCount m) && decide (msgCount m ≤ 8) && msgTarget m == 0) ||
      (msgOp m == 0x10 && msgCount m == 0)) &&
    decide (m.length = 80 + 48 * msgCount m) && (slice m 49 15).all (· == 0#8) &&
    (msgPair m || (slice m 24 16).all (· == 0#8)) &&
    (msgRecs m).all recForm && ascending ((msgRecs m).map recSlot)

/-- Does the message name this unit, or this unit and its companion? -/
def msgIdentity (own peer m : List Byte) : Bool :=
  let a := slice m 8 16
  let b := slice m 24 16
  if msgPair m then (a == own && b == peer) || (a == peer && b == own) else a == own

/-- Is a slot usable to authenticate, or to decrypt (R569)? -/
def Strongroom.canServe (r : Strongroom) (n use : Nat) (pair : Bool) : Bool :=
  decide (n < 512) && (r.slot n).uses use && (r.slot n).pair == pair

/-- The lifecycle rule (R557): the next state, its authorisation, and no `PAIR`. -/
def Strongroom.lifecycleOk (r : Strongroom) (m : List Byte) : Bool :=
  let a := msgAuth m
  !msgPair m && msgTarget m == r.lifecycle + 1 &&
    (match r.lifecycle with
      | 0 => a == 2
      | 1 => true
      | 2 => true
      | 3 => a == 2
      | _ => false)

/-- The value that a write record carries (R567). -/
def recValue (kek m : List Byte) (i : Nat) : List Byte :=
  let iv := beBytes 4 (msgCounter m) ++ [BitVec.ofNat 8 i, BitVec.ofNat 8 (byteAt m 7)] ++ List.replicate 10 0#8
  aesCtr kek iv (slice (recOf m i) 16 32)

/-- The slot that a record makes of the present one (R564, R566). -/
def Strongroom.recResult (r : Strongroom) (m : List Byte) (i : Nat) : KeySlot :=
  let b := recOf m i
  let old := r.slot (recSlot b)
  match recRop b with
  | 1 => { value := recValue (r.slot (msgKek m)).aesKey m i, type := recType b, sflags := recSflags b, usage := recUsage b, gen := old.gen + 1 }
  | 2 => { gen := old.gen + 1 }
  | _ => { old with usage := old.usage &&& recUsage b, sflags := old.sflags ||| (recSflags b &&& 4), gen := old.gen + 1 }

/-- May the slot be the target of a record at all (R559, R562, R564)? -/
def Strongroom.slotOpen (r : Strongroom) (m : List Byte) (b : List Byte) : Bool :=
  let n := recSlot b
  !(r.slot n).frozen && !isVirtual n && (r.slot n).gen != 0xFFFFFFFF &&
    (if n < 4 then r.lifecycle == 0 && msgAuth m == 2 && recRop b == 1 else recRop b != 1 || r.lifecycle == 1 || r.lifecycle == 2)

/-- `SFLAGS` of a slot once a message has committed: as its own record leaves them, or as they stand. -/
def flagsAfter (m : List Byte) (n : Nat) (s : KeySlot) : Nat :=
  match (msgRecs m).find? fun x => recSlot x == n with
  | none => s.sflags
  | some x => match recRop x with
    | 1 => recSflags x
    | 2 => 0
    | _ => s.sflags ||| (recSflags x &&& 4)

/-- The attribute rules for a record (R560–R563), with the place of public keys and the fixed content of slots 0 and 1. `mate` is
the other slot of the pair that a public key takes: a restriction leaves both with the same `SFLAGS`. -/
def recAttr (m : List Byte) (i : Nat) (new : KeySlot) (old mate : KeySlot) : Bool :=
  let b := recOf m i
  let n := recSlot b
  let other (k ty : Nat) : Bool := (msgRecs m).any fun x =>
    recSlot x == k && recRop x == 1 && recType x == ty && recSflags x == new.sflags
  let pairOf := if recRop b = 1 then bitAt (recSflags b) 0 else old.pair
  attrOk new && pairOf == msgPair m && (recRop b != 3 || recSflags b == 0 || recSflags b == 4) &&
    (recRop b != 3 || (new.type != 4 && new.type != 5) || flagsAfter m (n ^^^ 1) mate == new.sflags) &&
    (recRop b != 1 || new.type != 4 || (n % 2 == 0 && other (n + 1) 5)) &&
    (recRop b != 1 || new.type != 5 || (n % 2 == 1 && other (n - 1) 4)) &&
    (4 ≤ n || (new.sflags == 6 && (if n = 0 then new.type == 4 && new.usage == 32 else new.type == 5)))

/-- Slots with `BULK` once staged slots are in the store (R601). -/
def Strongroom.bulkWith (r : Strongroom) (staged : List (Nat × KeySlot × Bool)) : Nat :=
  ((staged.foldl (fun s e => sput s e.1 e.2.1) r.slots).filter fun e => e.2.uses useBulk).length

/-- Check the records in order, then the number of slots with `BULK` that the message would leave: the refusal's `REASON`, or the staged
slots (R569, R601). -/
def Strongroom.checkRecs (r : Strongroom) (m : List Byte) : List Nat → List (Nat × KeySlot × Bool) → Nat × List (Nat × KeySlot × Bool)
  | [], acc => if 128 < r.bulkWith acc ∧ r.bulkWith [] < r.bulkWith acc then (8, []) else (0, acc)
  | i :: is, acc =>
    let b := recOf m i
    let n := recSlot b
    let old := r.slot n
    if recGen b ≠ 0xFFFFFFFF ∧ recGen b ≠ old.gen then (7, [])
    else if !r.slotOpen m b then (9, [])
    else
      let new := r.recResult m i
      if !recAttr m i new old (r.slot (n ^^^ 1)) then (8, [])
      else r.checkRecs m is (acc ++ [(n, new, recAbort b)])

/-- The check of R569, without what depends on the pair's state: 0 and the staged slots, or the `REASON`. -/
def Strongroom.check (r : Strongroom) (peer m : List Byte) : Nat × List (Nat × KeySlot × Bool) :=
  if !msgForm m then (1, [])
  else if r.lifecycle = 4 then (0x0A, [])
  else if !msgIdentity r.identity peer m then (2, [])
  else if msgCounter m ≤ r.ctr (msgPair m) then (3, [])
  else if !r.canServe (msgAuth m) useAuth (msgPair m) then (4, [])
  else if cmac (r.slot (msgAuth m)).aesKey (m.take (m.length - 16)) ≠ m.drop (m.length - 16) then (5, [])
  else if msgOp m = 0x10 ∧ !r.lifecycleOk m then (0x0A, [])
  else if ((msgRecs m).any fun b => recRop b == 1) ∧ !r.canServe (msgKek m) useKek (msgPair m) then (6, [])
  else r.checkRecs m (List.range (msgCount m)) []

/-- Status code of a `REASON` (R571). -/
def reasonCode (reason : Nat) : Nat :=
  if reason = 5 then 0x51 else if reason = 0x0C then 0x11 else if reason = 0x0D then 0x10 else 0x12

/-- A page's command ends refused (R571, R592, R593, R595). -/
def Dev.srRefuse (d : Dev) (page reason : Nat) : Dev :=
  let code := reasonCode reason
  let d := ((d.wr F.SR_STATUS_CODE [page] code).wr F.SR_STATUS_REASON [page] reason).wr F.SR_STATUS_REPLY_LEN [page] 0
  let d := (d.wr F.SR_STATUS_DONE [page] 1).bump F.MSG_REFUSED_COUNT
  let d := if reason = 5 then d.bump F.AUTH_FAILS_COUNT else if reason = 0x0D then d.bump F.BACKOFF_REFUSED_COUNT else d
  let d := if reason = 5 then { d with srBackoff := some (d.now + 1000000000) } else d
  d.event (d.rd F.SR_CFG_EVT_TENANT) 0x0201 code page (detail16 (leBytes 1 code ++ leBytes 1 reason))

/-- Is the backoff after an AUTH_FAIL running (R572)? -/
def Dev.srWaits (d : Dev) : Bool := match d.srBackoff with | some t => decide (d.now < t) | none => false

/-- Slots that entering a state erases (R556). -/
def erasedOn (target n : Nat) (s : KeySlot) : Bool :=
  match target with
  | 1 => !(n == 0 || n == 1)
  | 2 => bitAt s.sflags 3
  | 3 => !bitAt s.sflags 1
  | _ => true

/-- A slot as the next state holds it (R564, R581). -/
def carriedSlot (target n : Nat) (s : KeySlot) : KeySlot :=
  if erasedOn target n s then { gen := min 0xFFFFFFFF (s.gen + 1) } else s

/-- The store as the unwraps that wait for the boundary leave it: what a message is checked and staged against, since it commits behind
them (R569, R620). -/
def Dev.storeNext (d : Dev) (r : Strongroom) : Strongroom := { r with slots := d.unwraps.foldl (fun m u => sput m u.slot u.new) r.slots }

/-- The private key bus loads the staged keys with `BULK` into the staging register of every pipeline (R602, R603, R624). -/
def Dev.loadStaged (d : Dev) (l : List KeySlot) : Dev :=
  let n := (l.filter fun s => s.uses useBulk).length
  if n = 0 then d else [0, 1, 2, 3].foldl (fun d p => d.bump F.SCHED_LOADS_COUNT [p] n) d

/-- Write the inactive copy of a slot for the state that a lifecycle message leads to (R581). -/
def Strongroom.stageOne (target : Nat) (slots : Sparse KeySlot) (r : Strongroom) (n : Nat) : Strongroom :=
  if isVirtual n then r
  else
    let s := carriedSlot target n (sget slots n)
    r.writeCopy n (r.sealCopy target n s s.pair (r.ctr s.pair))

/-- Write the inactive copies of a checked message (R579, R581); `slots` is the store that it commits behind. -/
def Strongroom.stage (r : Strongroom) (m : List Byte) (slots : Sparse KeySlot) (staged : List (Nat × KeySlot × Bool)) : Strongroom :=
  if msgOp m = 0x10 then (List.range 512).foldl (Strongroom.stageOne (msgTarget m) slots) r
  else staged.foldl (fun r e => r.writeCopy e.1 (r.sealCopy r.lifecycle e.1 e.2.1 (msgPair m) (msgCounter m))) r

/-- Is the Strongroom busy with a message: one is in hand until its proof reply is placed, and a transfer of `PAIR` slots, or a `PAIR` blob that
waits for the companion, counts as one (R573, R588, R590) (DEDUCED, log entry 178)? -/
def Dev.srBusy (d : Dev) : Bool := d.inHand.isSome || d.proofDue.isSome || d.transfer.isSome || d.blob.isSome

/-- A message is submitted through a page (R569–R573, R588). -/
def submitMsg (page len : Nat) (x : WithSr) : WithSr :=
  let (d, r) := x
  let m := d.srMsg page len
  if d.srBusy then (d.srRefuse page 0x0C, r)
  else if d.srWaits then (d.srRefuse page 0x0D, r)
  else
    let next := d.storeNext r
    let (reason, staged) := next.check d.peerId m
    let h : InHand := { page, msg := m, staged, counter := msgCounter m, authKey := (next.slot (msgAuth m)).aesKey, pair := msgPair m }
    if reason ≠ 0 then (d.srRefuse page reason, r)
    else if msgPair m ∧ !d.synced then (d.srRefuse page 0x0B, r)
    else
      let d := { (d.wr F.SR_STATUS_BUSY [page] 1) with inHand := some h }
      if msgPair m then (d.sendLink (.srMessage m), r) else (d.loadStaged (staged.map fun (e : Nat × KeySlot × Bool) => e.2.1), r.stage m next.slots staged)

/-- The companion forwards a pair message (R588): the unit checks it, writes its copies and answers; it commits once the companion's copies are
written too (R573). -/
def peerMessage (m : List Byte) (x : WithSr) : WithSr :=
  let (d, r) := x
  let next := d.storeNext r
  let (reason, staged) := next.check d.peerId m
  if d.srBusy ∨ reason ≠ 0 ∨ !d.synced then (d.sendLink (.srVerdict false), r)
  else
    let h : InHand :=
      { page := 4, msg := m, staged, counter := msgCounter m, authKey := (next.slot (msgAuth m)).aesKey, pair := true }
    ((({ d with inHand := some h }).loadStaged (staged.map fun (e : Nat × KeySlot × Bool) => e.2.1)).sendLink (.srVerdict true), r.stage m next.slots staged)

/-- The pair message in hand cannot commit: the companion refused, or the pair left SYNCHRONISED (R588). -/
def Dev.srPairFails (d : Dev) : Dev :=
  match d.inHand with
  | none => d
  | some h =>
    if !h.pair then d
    else
      let d := { d with inHand := none }
      if h.page < 4 then (d.wr F.SR_STATUS_BUSY [h.page] 0).srRefuse h.page 0x0B else d

/-- The companion has written its copies, and this unit now has: both are ready (R573, R588). -/
def peerGo (d : Dev) : Dev :=
  match d.inHand with
  | some h => if h.page = 4 then { d with inHand := some { h with peerOk := true } } else d
  | none => d

/-- The companion's verdict on a pair message. -/
def peerVerdict (ok : Bool) (x : WithSr) : WithSr :=
  let (d, r) := x
  match d.inHand with
  | none => x
  | some h =>
    if !h.pair ∨ h.peerOk ∨ h.page = 4 then x
    else if ok then ((({ d with inHand := some { h with peerOk := true } }).loadStaged (h.staged.map fun (e : Nat × KeySlot × Bool) => e.2.1)).sendLink .srGo, r.stage h.msg (d.storeNext r).slots h.staged)
    else (d.srPairFails, r)

/-- Is a message ready for the commit boundary: its copies are written on every unit concerned, and the companion knows it (R573, R588)? -/
def Dev.msgReady (d : Dev) : Bool :=
  match d.inHand with | some h => !h.pair || (h.peerOk && !(d.unacked.any fun u => u.1.payload == .srGo)) | none => false

/-- Is a transfer of `PAIR` slots ready: its copies are written? -/
def Dev.transferReady (d : Dev) : Bool := match d.transfer with | some h => h.peerOk | none => false

/-! ### Superseded material (R582–R587) -/

/-- Items of a tenant's cipher queue that are bound to a superseded entry and unfinished (DEDUCED, log entry 38). -/
def Superseded.binds (s : Superseded) (earlier : List Superseded) (f : Fetched) : Bool :=
  (match f.item.body with | .cipher op b => (decide (op ≤ 0x43) || op == 0x45) && b.handle == s.slot | _ => false) &&
    accBefore f.db s.acc && !(earlier.any fun e => e.slot == s.slot && accBefore f.db e.acc)

/-- Complete KEY_WITHDRAWN every unfinished operation bound to an entry; answers how many (R584, R587). -/
def Dev.withdrawOps (d : Dev) (s : Superseded) : Nat × Dev :=
  let earlier := d.superseded.takeWhile (· != s)
  (List.range 16).foldl (fun (n, d) t =>
    let hit := (d.ring t cipherRing).items.filter fun f => s.binds earlier f
    let d := if hit.isEmpty then d else
      d.modRing t cipherRing fun g => { g with items := g.items.filter fun f => !s.binds earlier f }
    (n + hit.length, hit.foldl (fun d f => (d.bump F.OPS_KEY_WITHDRAWN_COUNT [t]).complete f.ref 0x50) d)) (0, d)

/-- Scrub an entry's material: bound operations end KEY_WITHDRAWN, event record 0x0203 (R584). -/
def Dev.scrubEntry (d : Dev) (s : Superseded) : Dev :=
  if s.key.isNone then d
  else
    let (n, d) := d.withdrawOps s
    let d := { d with superseded := d.superseded.map fun e => if e = s then { e with key := none } else e }
    let d := d.bump F.KEY_SCRUB_ABORTS_COUNT [] n
    d.event (d.rd F.SR_CFG_EVT_TENANT) 0x0203 0 s.slot (detail16 (leBytes 4 n ++ leBytes 4 s.gen))

/-- The material of a slot whose `RETAIN` transits have passed is scrubbed (R584). -/
def scrubSlot (n : Nat) (d : Dev) : Dev :=
  match d.superseded.find? fun s => s.slot == n && s.key.isSome && decide (s.transit + d.rd F.SR_CFG_RETAIN ≤ d.kept.transit) with
  | none => d
  | some s => d.scrubEntry s

/-- A slot's generation is superseded at a commit: the one before is scrubbed; an abort withdraws at once (R584–R587). -/
def Dev.supersede (d : Dev) (n : Nat) (old : KeySlot) (acc : Nat) (abort : Bool) : Dev :=
  let d := match d.superseded.find? fun s => s.slot == n && s.key.isSome with
    | none => d
    | some s => d.scrubEntry s
  let e : Superseded := { slot := n, gen := old.gen, key := if abort then none else some old, acc, transit := d.kept.transit, since := d.now }
  let d := { d with superseded := d.superseded ++ [e] }
  if abort then (d.withdrawOps e).2 else d

/-- Ports whose protected frame in transmission uses an erased slot end it at once with an invalid FCS (R587). -/
def Dev.cutFrames (d : Dev) (slot : Nat) : Dev :=
  (List.range 20).foldl (fun d n =>
    let p := sget d.eth n
    if p.wireKey = some slot ∧ d.now < p.wireUntil then
      (({ d with eth := smod d.eth n fun p => { p with busyUntil := d.now, wireUntil := d.now, wireKey := none } }).emit (.ethCut n)).bump F.OUT_KEY_WITHDRAWN_COUNT [n]
    else d) d

/-- A slot takes its new content: superseded material, and the slot, its generation and the counter in the transit's mirror delta (R589). A DECOMMISSIONED unit commits nothing (R558). -/
def commitSlot (n : Nat) (new : KeySlot) (abort : Bool) (acc ctr : Nat) (x : WithSr) : WithSr :=
  let (d, r) := x
  if r.lifecycle = 4 then x
  else
    let d := d.supersede n (sget r.slots n) acc abort
    let d := if abort then d.cutFrames n else d
    let d := { d with openDelta := { d.openDelta with commits := d.openDelta.commits ++ [(n, new.gen, ctr)] } }
    (d, { r with slots := sput r.slots n new })

/-! ### The proof reply (R574–R576) -/

/-- `CHECK` of one record. -/
def recCheck (own : List Byte) (counter n : Nat) (s : KeySlot) : List Byte :=
  let m := own ++ beBytes 4 counter ++ beBytes 2 n
  if s.type = 0 then List.replicate 8 0
  else if s.type ≤ 2 then (cmac s.aesKey m).take 8 else (sha256 (m ++ slice s.value 0 32)).take 8

/-- The proof reply of a committed message. -/
def proofReply (r : Strongroom) (h : InHand) (acc : Nat) : List Byte :=
  let body := leBytes 4 0x4B505244 ++ [1, BitVec.ofNat 8 (msgOp h.msg), 0, BitVec.ofNat 8 (msgCount h.msg)] ++
    slice r.identity 0 16 ++ leBytes 4 h.counter ++ leBytes 6 acc ++ leBytes 1 r.lifecycle ++ [0] ++
    (h.staged.map fun e =>
      leBytes 2 e.1 ++ leBytes 1 e.2.1.type ++ [0] ++ leBytes 4 e.2.1.gen ++ recCheck (slice r.identity 0 16) h.counter e.1 e.2.1).flatten
  body ++ cmac h.authKey body

/-- Place a reply in a page's `SR_REPLYw` (R574, R593). -/
def Dev.placeReply (d : Dev) (page : Nat) (b : List Byte) : Dev :=
  let d := (List.range 64).foldl (fun d w => d.wr F.SR_REPLY_DATA [page, w] (ofLe (slice b (4 * w) 4))) d
  let d := ((d.wr F.SR_STATUS_CODE [page] 0).wr F.SR_STATUS_REASON [page] 0).wr F.SR_STATUS_REPLY_LEN [page] b.length
  (d.wr F.SR_STATUS_DONE [page] 1).wr F.SR_STATUS_BUSY [page] 0

/-- The proof that waits for its delta is placed (R573). -/
def Dev.placeProof (d : Dev) : Dev :=
  match d.proofDue with
  | none => d
  | some p => ({ d with proofDue := none }).placeReply p.page p.bytes

/-- `SR_COMMIT` shows the last commit on every page (R593). -/
def Dev.noteCommit (d : Dev) (acc : Nat) : Dev := { d with commitNo := acc }

/-- Replay of the kept proof (R576): it changes nothing else, so a page whose message is in hand stays busy. A DECOMMISSIONED unit does not
answer it (R558) (DEDUCED, log entry 99). -/
def replayProof (page : Nat) (pair : Bool) (x : WithSr) : WithSr :=
  let busy := x.1.rd F.SR_STATUS_BUSY [page]
  (if x.2.lifecycle = 4 then x.1.srRefuse page 0x0A
    else (x.1.placeReply page (if pair then x.2.pairProof else x.2.proof)).wr F.SR_STATUS_BUSY [page] busy, x.2)

/-! ### The commit (R570, R579, R581, R582, R590, R620) -/

/-- One slot of the erasure of a lifecycle transition. -/
def eraseOne (target acc ctr : Nat) (x : WithSr) (n : Nat) : WithSr :=
  if isVirtual n then x
  else if erasedOn target n (sget x.2.slots n) then commitSlot n (carriedSlot target n (sget x.2.slots n)) true acc ctr x else x

/-- The slots that a lifecycle transition lists are erased (R556, R581). -/
def eraseSlots (target acc ctr : Nat) (x : WithSr) : WithSr := (List.range 512).foldl (eraseOne target acc ctr) x

/-- The lifecycle fuse is blown: only the next state's can be (R556, R557, R581); in DECOMMISSIONED the device root's too. -/
def advanceLifecycle (target acc ctr : Nat) (x : WithSr) : WithSr :=
  if target ≠ x.2.lifecycle + 1 ∨ 4 < target then x
  else
    let (d, r) := eraseSlots target acc ctr x
    let r := { r with lifecycle := target }
    let r := if target = 4 then { r with blown := true, root := List.replicate 32 0xFF#8 } else r
    (d.event (d.rd F.SR_CFG_EVT_TENANT) 0x0202 0 0xFFFF (detail16 (leBytes 1 target)), r)

/-- The counter word takes the message's counter (R570, R579). -/
def Strongroom.setCounter (r : Strongroom) (h : InHand) : Strongroom :=
  if h.pair then { r with pairCounter := h.counter } else { r with counter := h.counter }

/-- Commit the message in hand at a boundary (R579, R582). -/
def commitMsg (h : InHand) (acc : Nat) (x : WithSr) : WithSr :=
  let (d, r) := x
  let d := { d with inHand := none }
  let (d, r) :=
    if h.page ≠ 5 ∧ msgOp h.msg = 0x10 then
      let (d, r) := advanceLifecycle (msgTarget h.msg) acc h.counter (d, r)
      (d, r.setCounter h)
    else h.staged.foldl (fun x e => commitSlot e.1 e.2.1 e.2.2 acc h.counter x) (d, r.setCounter h)
  let d := d.noteCommit acc
  if h.page = 5 then (d, r)
  else
    let proof := proofReply r h acc
    let r := if h.pair then { r with pairProof := proof } else { r with proof }
    let d := (d.bump F.MSG_ACCEPTED_COUNT).event (d.rd F.SR_CFG_EVT_TENANT) 0x0200 0 0xFFFF
      (detail16 (leBytes 4 h.counter ++ leBytes 1 (msgCount h.msg) ++ leBytes 1 h.pair.toNat))
    let d := if h.page < 4 then { d with proofDue := some { page := h.page, bytes := proof } } else d
    (if d.strobeDue then d.placeProof else d, r)

/-- Commit the unwraps whose tag word is written (R620): each completes with the commit's number and the generation. -/
def commitUnwrap (u : Unwrap) (acc : Nat) (x : WithSr) : WithSr :=
  let (d, r) := commitSlot u.slot u.new false acc (x.2.ctr u.new.pair) x
  let d := d.noteCommit acc
  match u.ref with
  | none => (d, r)
  | some h =>
    let d := (d.bump F.UNWRAPS_COUNT [h.tenant]).bump F.OPS_OK_COUNT [h.tenant]
    (d.complete h (if u.late = 0 then 0 else 1) 0 u.late (leBytes 6 acc ++ leBytes 4 u.new.gen), r)

/-- The copies of a transfer are written, once no message or unwrap is in hand that has written copies of its own (R590) (DEDUCED, log entry 178). -/
def stageTransfer (x : WithSr) : WithSr :=
  let (d, r) := x
  match d.transfer with
  | some h =>
    if h.peerOk ∨ d.inHand.isSome ∨ !d.unwraps.isEmpty then x
    else
      let h := { h with staged := h.staged.filter fun e => decide (sget r.slots e.1 ≠ e.2.1), peerOk := true }
      (({ d with transfer := some h }).loadStaged (h.staged.map fun (e : Nat × KeySlot × Bool) => e.2.1),
        h.staged.foldl (fun r e => r.writeCopy e.1 (r.sealCopy r.lifecycle e.1 e.2.1 true h.counter)) r)
  | none => x

/-- The companion's `PAIR` slots commit, without a reply (R590). -/
def commitTransfer (acc : Nat) (x : WithSr) : WithSr :=
  match x.1.transfer with
  | none => x
  | some h =>
    if !h.peerOk then x
    else
      let y := commitMsg { h with page := 5 } acc x
      ({ y.1 with inHand := x.1.inHand, transfer := none }, y.2)

/-- The commit boundary (R582): everything that is ready commits with the transit's first accession number. -/
def keyCommit (x : WithSr) : WithSr :=
  let (d, r) := x
  match d.commitAcc with
  | none => x
  | some acc =>
    let us := d.unwraps
    let x := us.foldl (fun x u => commitUnwrap u acc x) ({ d with commitAcc := none, unwraps := [] }, r)
    let x := commitTransfer acc x
    let x := match x.1.inHand with
      | none => x
      | some h => if x.1.msgReady then commitMsg h acc x else x
    stageTransfer x

/-- One second after an AUTH_FAIL messages, or a tenant's unwraps, are checked again (R572, R621). -/
def backoffExpiry (tenant : Option Nat) (d : Dev) : Dev :=
  match tenant with
  | none => if d.srWaits then d else { d with srBackoff := none }
  | some t => if sget d.unwrapBackoff t ≤ d.now then { d with unwrapBackoff := sput d.unwrapBackoff t 0 } else d

/-! ### Pair resynchronisation (R590) -/

/-- The written `PAIR` slots. -/
def Strongroom.pairSlots (r : Strongroom) : List (Nat × KeySlot) := r.slots.filter fun e => e.2.pair

/-- The keys that encrypt and authenticate a transfer of `PAIR` slots (R590). -/
def pairEncKey (d : Dev) (r : Strongroom) : List Byte := kdf (slice (r.slot (d.rd F.SR_CFG_PAIR_KEK)).value 0 32) labelPairEnc
def pairMacKey (d : Dev) (r : Strongroom) : List Byte := kdf (slice (r.slot (d.rd F.SR_CFG_PAIR_KEK)).value 0 32) labelPairMac

/-- Values of slots under the key stream of a transfer: slot i of it takes blocks 2i and 2i + 1. -/
def cryptSlots (key iv : List Byte) (l : List (Nat × KeySlot)) : List (Nat × KeySlot) :=
  l.zipIdx.map fun e => (e.1.1, { e.1.2 with value := if e.1.2.type = 0 then [] else aesCtr key (beBytes 16 (ofBe iv + 2 * e.2)) (slice e.1.2.value 0 32) })

/-- What the tag of a transfer covers. -/
def slotBytes (l : List (Nat × KeySlot)) (counter : Nat) (iv : List Byte) : List Byte :=
  leBytes 4 counter ++ iv ++ l.flatMap fun e => leBytes 2 e.1 ++ leBytes 1 e.2.type ++ leBytes 1 e.2.sflags ++ leBytes 2 e.2.usage ++ leBytes 4 e.2.gen ++ e.2.value

/-- Send every `PAIR` slot, encrypted and authenticated (R552, R590) (DESIGN CHOICE, log entry 25). -/
def sendPairSlots (x : WithSr) : WithSr :=
  let (d, r) := x
  let (n, d) := d.draw
  let iv := beBytes 16 n
  let l := cryptSlots (pairEncKey d r) iv r.pairSlots
  (d.sendLink (.srSlots l r.pairCounter iv (cmac (pairMacKey d r) (slotBytes l r.pairCounter iv))), r)

/-- Is there a slot for pair resynchronisation: `PAIR_KEK` names a `PAIR` slot with `UPDATE_KEK` (R594)? -/
def kekUsable (d : Dev) (r : Strongroom) : Bool :=
  let n := d.rd F.SR_CFG_PAIR_KEK
  n != 0 && (r.slot n).pair && (r.slot n).uses useKek

/-- May a pair become SYNCHRONISED: no `PAIR` slot is written, or they can be brought to the same content (R594, R689)? -/
def kekServes (d : Dev) (r : Strongroom) : Bool := r.pairSlots.isEmpty || kekUsable d r

/-- The receiving unit commits the transfer as one message under R579, and takes the sender's pair counter. Slots that are the same
already are left as they are (DEDUCED, log entry 103). A transfer whose tag is wrong, or that would leave more than 128 slots with `BULK`, is
refused (R590, R601). -/
def takePairSlots (slots : List (Nat × KeySlot)) (counter : Nat) (iv mac : List Byte) (x : WithSr) : WithSr :=
  let (d, r) := x
  let got := cryptSlots (pairEncKey d r) iv slots
  let staged := (got.filter fun e => decide (sget r.slots e.1 ≠ e.2)).map fun e => (e.1, e.2, false)
  if r.lifecycle = 4 ∨ !kekUsable d r ∨ mac ≠ cmac (pairMacKey d r) (slotBytes slots counter iv) ∨ 128 < (d.storeNext r).bulkWith staged then
    ({ d with pair := { d.pair with slotsBad := true } }, r)
  else
    let d := { d with pair := { d.pair with slotsBad := false } }
    if staged = [] ∧ counter = r.pairCounter then (d, r)
    else stageTransfer ({ d with transfer := some { page := 5, staged, counter, pair := true } }, r)

end Sys2Proof.Machine
end

