-- ==== Sys2Proof/Machine/Cipher.lean ====
section
/-! DEFINITION. Tenant cipher queues: the operations 0x40 to 0x45, each on the descriptor at the head of the tenant's cipher
queue (R597–R600, R611–R621, R624). -/

namespace Sys2Proof.Machine

/-- Opcodes of R613. -/
def cEncrypt : Nat := 0x40
def cDecrypt : Nat := 0x41
def cMacGen : Nat := 0x42
def cMacVerify : Nat := 0x43
def cUnwrap : Nat := 0x44
def cSign : Nat := 0x45

/-- Does an operation run in the byte-serial core: an unwrap, a signature, or one whose slot has no `BULK` (R596, R614)? -/
def Dev.serial (d : Dev) (sr : Strongroom) (f : Fetched) : Bool :=
  match f.item.body with
  | .cipher op b => decide (cUnwrap ≤ op) || !(d.boundKey sr b.handle f.db).any (·.uses useBulk)
  | _ => false

/-- The byte-serial core serves one operation at a time, in ascending accession number of the doorbell writes: has an operation its turn
before those of every other cipher queue, with none at work that waits for the companion (R614, R619)? -/
def Dev.cipherTurn (d : Dev) (sr : Strongroom) (f : Fetched) : Bool :=
  !d.serial sr f || (d.blob.isNone && (List.range 16).all fun u =>
    (d.ring u cipherRing).items.all fun g => !(d.serial sr g && accBefore g.db f.db))

/-- The descriptor at the head of a tenant's cipher queue, where it carries the opcode and has its turn. -/
def Dev.cipherHead (d : Dev) (sr : Strongroom) (t op : Nat) : Option (Fetched × CipherBody) :=
  if !d.runs ∨ d.quiet then none
  else match (d.ring t cipherRing).items with
    | [] => none
    | f :: _ => match f.item.body with
      | .cipher o b => if o = op ∧ d.cipherTurn sr f then some (f, b) else none
      | _ => none

/-- Take the head off. -/
def Dev.cipherTake (d : Dev) (t : Nat) : Dev := d.modRing t cipherRing fun g => { g with items := g.items.drop 1 }

/-- Transits by which an operation is late: it is carried over once (R62, R407, R612). -/
def Dev.lateBy (d : Dev) (h : HostRef) : Nat := min 1 (d.kept.transit - h.transit)

/-- A tenant operation ends with a code (R613, R616, R624): a carried one that succeeds ends OK_DELAYED (R62, R612). -/
def Dev.cipherEnd (d : Dev) (t : Nat) (f : Fetched) (code : Nat) : Dev :=
  let d := if code = 0 then d.bump F.OPS_OK_COUNT [t]
    else if code = 0x51 then d.bump F.OPS_AUTH_FAIL_COUNT [t]
    else if code = 0x50 then d.bump F.OPS_KEY_WITHDRAWN_COUNT [t]
    else d.bump F.OPS_REFUSED_COUNT [t]
  let late := if code = 0 then d.lateBy f.ref else 0
  d.complete f.ref (if late = 0 then code else 1) 0 late

/-- The request of a descriptor. -/
def cipherReq (op : Nat) (b : CipherBody) : CipherReq :=
  { op, mode := b.mode, tagLen := b.tagLen, ivLen := b.ivLen, length := b.length, aadLen := b.aadLen }

/-- Operations 0x40 to 0x43 (R597, R598, R613, R614) (DEDUCED, log entry 65). -/
def tenantCipher (t op : Nat) (sr : Strongroom) (d : Dev) : Dev :=
  match d.cipherHead sr t op with
  | none => d
  | some (f, b) =>
    let d := d.cipherTake t
    let q := cipherReq op b
    if !q.ok ∨ 1024 < b.aadLen then d.cipherEnd t f 0x12
    else
      match d.useKey sr b.handle f.db q.need (d.tgrant t b.handle) false with
      | .error code => d.cipherEnd t f code
      | .ok k =>
        let d := if k.uses useBulk then d.bump F.TENANT_BLOCKS_COUNT [d.rd F.CQ_CFG_PIPE [t]] q.blocks else d
        match q.run k.aesKey b.src with
        | none => d.cipherEnd t f 0x51
        | some (data, tag) =>
          let out := if op = cMacGen then tag else data ++ tag
          let d := if op = cMacVerify then d else d.writeHost t b.dst out
          d.cipherEnd t f 0

/-- Sign (R615): the nonce comes from the CTR_DRBG, so it is a free value (log entry 1). -/
def tenantSign (t : Nat) (sr : Strongroom) (d : Dev) : Dev :=
  match d.cipherHead sr t cSign with
  | none => d
  | some (f, b) =>
    let d := d.cipherTake t
    if b.mode ≠ 0 ∨ b.length ≠ 32 ∨ b.tagLen ≠ 0 ∨ b.aadLen ≠ 0 ∨ b.ivLen ≠ 0 then d.cipherEnd t f 0x12
    else if !handleOk b.handle ∨ !d.tgrant t b.handle then d.cipherEnd t f 0x12
    else
      match d.boundKey sr b.handle f.db with
      | none => d.cipherEnd t f 0x50
      | some k =>
        if k.type ≠ 3 ∨ !k.uses useSign then d.cipherEnd t f 0x12
        else
          let (nonce, d) := d.draw
          let sig := ecdsaSign k.value (slice b.src 0 32) (1 + nonce % (p256N - 1))
          (d.writeHost t b.dst sig).cipherEnd t f 0

/-! ### Unwrap (R618–R621) -/

/-- Layout, attributes, identity and target of a blob (R619, first check). -/
def Dev.blobForm (d : Dev) (sr : Strongroom) (t : Nat) (b : List Byte) : Bool :=
  let ty := byteAt b 5
  let fl := byteAt b 6
  let us := ofLe (slice b 8 2)
  let n := ofLe (slice b 10 2)
  let id := slice b 16 16
  ofLe (slice b 0 4) == 0x57425652 && byteAt b 4 == 1 && (ty == 1 || ty == 2) && (fl == 0 || fl == 1 || fl == 4 || fl == 5) &&
    byteAt b 7 == 0 && (slice b 44 4).all (· == 0#8) && us &&& 0xFDF0 == 0 &&
    attrOk { type := ty, sflags := fl, usage := us } &&
    (id == sr.identity || (bitAt fl 0 && id == d.peerId)) &&
    d.on F.CQ_UNWRAP_VALID [t] && decide (4 ≤ n) && decide (n < 512) && decide (d.rd F.CQ_UNWRAP_FIRST [t] ≤ n) &&
    decide (n ≤ d.rd F.CQ_UNWRAP_LAST [t]) && (sr.lifecycle == 1 || sr.lifecycle == 2)

/-- A slot as the unwraps that wait for the boundary leave it. -/
def Dev.pendingSlot (d : Dev) (sr : Strongroom) (n : Nat) : KeySlot :=
  match (d.unwraps.reverse).find? fun u => u.slot == n with
  | some u => u.new
  | none => sr.slot n

/-- Would a slot with `BULK` be the 129th (R601)? -/
def Dev.bulkFull (d : Dev) (sr : Strongroom) (n : Nat) (new : KeySlot) : Bool :=
  let m := sput (d.unwraps.foldl (fun m u => sput m u.slot u.new) sr.slots) n new
  decide (128 < (m.filter fun e => e.2.uses useBulk).length)

/-- The slot that a blob writes. -/
def blobSlot (blob : List Byte) : Nat := ofLe (slice blob 10 2)
def blobPair (blob : List Byte) : Bool := bitAt (byteAt blob 6) 0

/-- The checks of R619 in their order, under the wrapping slot as it stands (R583): the refusing code, or the new content of the slot. -/
def Dev.blobCheck (d : Dev) (sr : Strongroom) (t handle : Nat) (blob : List Byte) : Except Nat KeySlot :=
  let n := blobSlot blob
  if !d.blobForm sr t blob then .error 0x12
  else
    match d.useKey sr handle d.acc useUnwrap (d.tgrant t handle) false with
    | .error code => .error code
    | .ok k =>
      let ks := roundKeys k.aesKey
      if k.pair ≠ blobPair blob then .error 0x12
      else if gcmTag ks (slice blob 32 12) (slice blob 0 48) (slice blob 48 32) ≠ slice blob 80 16 then .error 0x51
      else
        let old := d.pendingSlot sr n
        let new : KeySlot :=
          { value := gcmCrypt ks (slice blob 32 12) (slice blob 48 32), type := byteAt blob 5, sflags := byteAt blob 6
            usage := ofLe (slice blob 8 2), gen := old.gen + 1 }
        if !attrOk new ∨ ofLe (slice blob 12 4) ≠ old.gen ∨ old.frozen ∨ old.gen = 0xFFFFFFFF ∨ d.bulkFull sr n new ∨ (blobPair blob ∧ !d.synced) then
          .error 0x12
        else if d.srBusy then .error 0x11
        else .ok new

/-- A slot's new copy is written, and the next boundary commits it (R620). -/
def writeUnwrap (u : Unwrap) (x : WithSr) : WithSr :=
  let (d, sr) := x
  (Dev.loadStaged { d with unwraps := d.unwraps ++ [u] } [u.new],
    sr.writeCopy u.slot (sr.sealCopy sr.lifecycle u.slot u.new u.new.pair (sr.ctr u.new.pair)))

/-- Unwrap (R583, R614, R618–R621): an accepted blob writes the copy; one with `PAIR` waits for the companion's verdict (R588). -/
def tenantUnwrap (t : Nat) (x : WithSr) : WithSr :=
  let (d, sr) := x
  match d.cipherHead sr t cUnwrap with
  | none => x
  | some (f, b) =>
    let d := d.cipherTake t
    let blob := slice b.src 0 96
    if d.now < sget d.unwrapBackoff t then (d.cipherEnd t f 0x10, sr)
    else if b.mode ≠ 0 ∨ b.length ≠ 96 ∨ b.tagLen ≠ 0 ∨ b.aadLen ≠ 0 ∨ b.ivLen ≠ 0 then (d.cipherEnd t f 0x12, sr)
    else
      match d.blobCheck sr t b.handle blob with
      | .error code =>
        let d := d.cipherEnd t f code
        (if code = 0x51 then { d with unwrapBackoff := sput d.unwrapBackoff t (d.now + 1000000000) } else d, sr)
      | .ok new =>
        if blobPair blob then
          (({ d with blob := some { own := some f, slot := blobSlot blob, new, late := d.lateBy f.ref } }).sendLink (.srBlob t b.handle blob), sr)
        else writeUnwrap { ref := some f.ref, slot := blobSlot blob, new, late := d.lateBy f.ref } (d, sr)

/-- The companion forwards a `PAIR` blob that it has accepted: the unit checks it in the same way and answers (R588, R619). -/
def peerBlob (t handle : Nat) (blob : List Byte) (x : WithSr) : WithSr :=
  let (d, sr) := x
  match d.blobCheck sr t handle blob with
  | .ok new =>
    if blobPair blob then (({ d with blob := some { slot := blobSlot blob, new } }).sendLink (.srBlobVerdict true), sr)
    else (d.sendLink (.srBlobVerdict false), sr)
  | .error _ => (d.sendLink (.srBlobVerdict false), sr)

/-- The `PAIR` blob in hand will not commit: the companion refused it, or the pair left SYNCHRONISED (R588). -/
def Dev.blobFails (d : Dev) : Dev :=
  match d.blob with
  | none => d
  | some b =>
    let d := { d with blob := none }
    match b.own with | some f => d.cipherEnd f.ref.tenant f 0x12 | none => d

/-- The `PAIR` blob in hand is accepted on both units: the unit writes its own copy (R588, R620). -/
def blobGo (x : WithSr) : WithSr :=
  match x.1.blob with
  | none => x
  | some b => writeUnwrap { ref := b.own.map (·.ref), slot := b.slot, new := b.new, late := b.late } ({ x.1 with blob := none }, x.2)

/-- The companion's verdict on a `PAIR` blob. -/
def peerBlobVerdict (ok : Bool) (x : WithSr) : WithSr :=
  if x.1.blob.any (·.own.isSome) then (if ok then blobGo (x.1.sendLink .srBlobGo, x.2) else (x.1.blobFails, x.2)) else x

end Sys2Proof.Machine
end

