-- ==== Sys2Proof/Machine/Engine.lean ====
section
/-! DEFINITION. Flow engines and I/O sequencers: dispatch, cycle accounting, the memory maps, the instructions of R197,
the signal primitives, the end of an item, program errors and carry-over (R45–R49, R57–R66, R184–R204, R212–R217). -/

namespace Sys2Proof.Machine

/-! ### The core and its item -/

/-- Is a core one of the flow engines? -/
def isFe (c : Nat) : Bool := c < 16

/-- Admission capacity C(L) of a core (R49). -/
def capacity (c len : Nat) : Nat :=
  if isFe c then len * 12 * 63 / 640 - 512 else len * 4 * 63 / 640 - 128

/-- `STATE` of a core: 0 stopped, 1 running, 2 quiesced, 3 booting (R224). -/
def Dev.coreState (d : Dev) (c : Nat) : Nat :=
  if isFe c then d.rd F.FLOW_STATE_STATE [c] else d.rd F.IOSEQ_STATE_STATE [c - 16]

def Dev.setCoreState (d : Dev) (c v : Nat) : Dev :=
  if isFe c then d.wr F.FLOW_STATE_STATE [c] v else d.wr F.IOSEQ_STATE_STATE [c - 16] v

/-- `ENTRY` of a core: the item running, 0xFFFF when idle. -/
def Dev.setCoreEntry (d : Dev) (c v : Nat) : Dev :=
  if isFe c then d.wr F.FLOW_STATE_ENTRY [c] v else d.wr F.IOSEQ_STATE_ENTRY [c - 16] v

/-- Does a core run an item, so that it can execute an instruction? -/
def Dev.coreBusy (d : Dev) (c : Nat) : Bool := d.runs && (d.core c).busy.isSome

/-- General registers: G0 reads 0 and ignores writes (R187). -/
def Core.get (k : Core) (r : GReg) : Word := if r.val = 0 then 0 else sget k.g r.val
def Core.set (k : Core) (r : GReg) (w : Word) : Core := if r.val = 0 then k else { k with g := sput k.g r.val w }

/-- A second operand. -/
def Core.src (k : Core) : Src → Word
  | .reg r => k.get r
  | .imm w => w

/-- The source of `MOV`: a register, `CYCLES` or `TRANSIT` (R187) (DEDUCED, log entry 94). -/
def Core.movSrc (k : Core) (transit : Nat) : MovSrc → Word
  | .reg r => k.get r
  | .cycles => BitVec.ofNat 32 k.cycles
  | .transit => BitVec.ofNat 32 transit

/-- An even–odd pair, low half in the even register (R187). -/
def Core.getPair (k : Core) (r : GReg) : DWord :=
  ((sget k.g (r.val + 1)).setWidth 64 <<< 32) ||| (k.get r).setWidth 64
def Core.setPair (k : Core) (r : GReg) (w : DWord) : Core :=
  (k.set r (w.setWidth 32)).set ⟨(r.val + 1) % 32, Nat.mod_lt _ (by decide)⟩ ((w >>> 32).setWidth 32)

/-- Byte lengths of the parts of a core's image (R220). -/
def Core.codeLen (k : Core) : Nat := k.image.col.codeLen
def Core.persistLen (k : Core) : Nat := 64 * k.image.col.persistLines
def Core.initLen (k : Core) : Nat := k.image.col.initLen

/-- The dispatch table of an image (R221). -/
def imgTable (i : Image) : List (Nat × Nat) :=
  match i.body with | .core _ _ t => t | _ => []

/-! ### The end of an item -/

/-- Discard a core's builders: cells and handles return (R196). -/
def Dev.dropBuilder (d : Dev) (c b : Nat) : Dev :=
  let x := sget (d.core c).builders b
  if x.opn then
    let d := (d.returnCells c x.fromRes (x.cells - x.fromRes)).modCore c fun k => { k with builders := sput k.builders b default }
    { d with packets := sput d.packets x.handle default }
  else d

/-- End the item of a core with a status code (R196). -/
def Dev.finish (d : Dev) (c code : Nat) : Dev :=
  match (d.core c).busy with
  | none => d
  | some it =>
    let d := [0, 1, 2, 3].foldl (fun d b => d.dropBuilder c b) d
    let d := (d.modCore c fun k => { k with busy := none, stack := [], codes := [], bulk := k.bulk + (if it.cls = .bulk then k.cycles else 0) }).setCoreEntry c 0xFFFF
    let d := d.outcome it code
    match it.handle with
    | none => d
    | some h => d.unref h

/-- A program error (R215): the item ends with REFUSED_POLICY, the ledger, `PERR` and `PROG_ERR` tell. -/
def Dev.programError (d : Dev) (c cause : Nat) : Dev :=
  let k := d.core c
  let id := match k.busy with | some it => it.entry | none => 0
  let d := (d.log 3 c 0x0A id (cause + 2 ^ 32 * (k.pc % 2 ^ 32)) 0 0x12).2
  let d := if isFe c then
      ((d.wr F.FLOW_PERR_CAUSE [c] cause).wr F.FLOW_PERR_ENTRY [c] id).wr F.FLOW_PERR_PC_PC [c] k.pc |>.bump F.PROG_ERR_FE_COUNT [c]
    else
      ((d.wr F.IOSEQ_PERR_CAUSE [c - 16] cause).wr F.IOSEQ_PERR_ENTRY [c - 16] id).wr F.IOSEQ_PERR_PC_PC [c - 16] k.pc |>.bump F.PROG_ERR_IS_COUNT [c - 16]
  d.finish c 0x12

/-- Is the entry a periodic task: its cycles are charged to `COST_FIXED` (R45)? -/
def AlmEntry_task (e : AlmEntry) : Bool := e.kind == 2 || e.kind == 3

/-- Charge cycles to the item of a core; more than its entry allows is a hardware fault (R45, R47). -/
def Dev.charge (d : Dev) (c n : Nat) : Dev :=
  match (d.core c).busy with
  | none => d
  | some it =>
    let d := d.modCore c fun k => { k with cycles := k.cycles + n, used := k.used + n }
    match d.entry it.entry with
    | none => d
    | some e =>
      let cost := if AlmEntry_task e then e.costFixed else e.costItem
      if cost < (d.core c).cycles then d.withdraw c 0x06 e.id else d

/-- One instruction of a core: fetched inside its code, it acts on the core, the program counter goes on, and its cycles
are charged. A core without an item executes nothing. -/
def Dev.instr (d : Dev) (c cycles : Nat) (f : Core → Core) : Dev :=
  if d.coreBusy c then
    let k := d.core c
    if k.codeLen < k.pc + 4 ∨ k.pc % 4 ≠ 0 then d.programError c 0x02
    else (d.modCore c fun k => f { k with pc := k.pc + 4 }).charge c cycles
  else d

/-- An instruction that may end in a program error. -/
def Dev.instrOr (d : Dev) (c cycles : Nat) (bad : Option Nat) (f : Core → Core) : Dev :=
  match bad with
  | none => d.instr c cycles f
  | some e =>
    if d.coreBusy c then
      (if (d.core c).codeLen < (d.core c).pc + 4 ∨ (d.core c).pc % 4 ≠ 0 then d.programError c 0x02 else d.programError c e)
    else d

/-- An odd register named as a pair is an undefined instruction (R187). -/
def pairBad (r : GReg) : Option Nat := if r.val % 2 = 1 then some 0x01 else none

/-! ### Flags and arithmetic -/

/-- The flags that `CMP` sets (R197): zero, negative and overflow of the difference; carry is open (log entry 2). -/
def Core.compare (k : Core) (a b : Word) : Core :=
  let r := a - b
  { k with z := r == 0, n := r.getLsbD 31, v := (a.getLsbD 31 != b.getLsbD 31) && (r.getLsbD 31 != a.getLsbD 31),
           c := Config.cmpCarry a b }

/-- A flag's value. -/
def Core.flag (k : Core) : FlagName → Bool
  | .z => k.z | .c => k.c | .n => k.n | .v => k.v | .nv => k.nv

/-- `MUL`: 32 × 32 to 64 bits; where a signed and an unsigned reading differ, the high word is open (log entry 4). -/
def mul64 (a b : Word) : DWord :=
  let u := a.setWidth 64 * b.setWidth 64
  let s := a.signExtend 64 * b.signExtend 64
  if u = s then u else ((Config.mulHigh a b).setWidth 64 <<< 32) ||| (u &&& 0xFFFFFFFF#64)

/-- `DIV`: a divisor of 0 gives 0 and overflow (R197); where a signed and an unsigned reading differ the quotient is open. -/
def divide (a b : Word) : Word × Bool :=
  if b = 0 then (0, true)
  else if a.udiv b = a.sdiv b then (a.udiv b, false) else (Config.divOpen a b, false)

/-- `SHL`; by 32 or more it is open (log entry 3). -/
def shiftLeft (a b : Word) : Word := if b.toNat < 32 then a <<< b.toNat else Config.shiftWide a b

/-- Bit field extract and insert; bits beyond bit 31 read 0 and are dropped (DESIGN CHOICE, log entry 9). -/
def bitField (a : Word) (pos len : Nat) : Word := BitVec.ofNat 32 (a.toNat / 2 ^ pos % 2 ^ len)
def bitInsert (a b : Word) (pos len : Nat) : Word :=
  let m := BitVec.ofNat 32 ((2 ^ len - 1) * 2 ^ pos)
  (a &&& ~~~m) ||| (BitVec.ofNat 32 (b.toNat * 2 ^ pos) &&& m)

/-- Leading zeros, population count and byte swap of a word. -/
def leadingZeros (a : Word) : Nat := ((List.range 32).find? fun i => a.getLsbD (31 - i)).getD 32
def popCount (a : Word) : Nat := ((List.range 32).filter fun i => a.getLsbD i).length
def byteSwap (a : Word) : Word := BitVec.ofNat 32 (ofBe (leBytes 4 a.toNat))

/-! ### Memory maps (R188–R192, R217) -/

/-- Data memory of a core: bytes, and the place of its persistent area. -/
def dmemBase (c : Nat) : Nat := if isFe c then 0x10000000 else 0
def dmemSize (c : Nat) : Nat := if isFe c then 0x80000 else 0x10000
def Dev.persistAt (d : Dev) (c : Nat) : Nat := if isFe c then 0 else (d.core c).codeLen

/-- Is a data-memory offset inside the persistent area (R189, R217)? -/
def Dev.inPersist (d : Dev) (c off : Nat) : Bool :=
  let p := d.persistAt c
  decide (p ≤ off) && decide (off < p + (d.core c).persistLen)

/-- A byte of a core's data memory. -/
def Dev.dmem (d : Dev) (c off : Nat) : Byte :=
  if d.inPersist c off then sget d.kept.persist (0x100000 * c + (off - d.persistAt c)) else sget (d.core c).mem off

/-- Store a byte into a core's data memory. -/
def Dev.dmemPut (d : Dev) (c off : Nat) (b : Byte) : Dev :=
  if d.inPersist c off then d.modK fun k => { k with persist := sput k.persist (0x100000 * c + (off - d.persistAt c)) b }
  else d.modCore c fun k => { k with mem := sput k.mem off b }

/-- Bytes from an address of data memory. -/
def Dev.dmemBytes (d : Dev) (c addr n : Nat) : List Byte :=
  (List.range n).map fun i => d.dmem c (addr - dmemBase c + i)

/-- Store bytes at an address of data memory. -/
def Dev.dmemStore (c : Nat) : Nat → List Byte → Dev → Dev
  | _, [], d => d
  | addr, b :: r, d => Dev.dmemStore c (addr + 1) r (d.dmemPut c (addr - dmemBase c) b)

/-- Does a range lie wholly in a core's data memory? -/
def inDmem (c addr n : Nat) : Bool := decide (dmemBase c ≤ addr) && decide (addr + n ≤ dmemBase c + dmemSize c)

/-- The item context (R192). A periodic task has no packet, so its `SHELFMARK`, `ACCESSION`, stamp and `RESOURCE` are open (DESIGN CHOICE, log entry 93). -/
def Dev.context (d : Dev) (c : Nat) : List Byte :=
  match (d.core c).busy with
  | none => List.replicate 128 0
  | some it =>
    if isFe c then
      let p := match it.handle with | some h => d.pkt h | none => default
      let host := it.host.isSome
      let open_ (i n : Nat) (l : List Byte) : List Byte :=
        if it.handle.isSome then l else (List.range n).map fun k => Config.taskContext it.acc (i + k)
      let hdr (h : Hdr) : List Byte :=
        leBytes 1 h.kind ++ leBytes 1 (h.inst % 16 + 16 * h.level) ++ leBytes 2 (h.off.getD 0xFFFF)
      leBytes 4 (it.handle.getD 0) ++ leBytes 2 p.data.length ++ open_ 6 2 (leBytes 2 p.cls.shelf) ++ open_ 8 6 (leBytes 6 it.acc) ++
        leBytes 2 it.entry ++ open_ 16 8 (leBytes 4 p.stampNs ++ leBytes 4 p.stampSec) ++ open_ 24 1 (leBytes 1 p.res) ++
        leBytes 1 (it.carried.toNat + 2 * host.toNat + 16 * (if host then p.tenant % 16 else 0)) ++ leBytes 1 p.cls.flags ++
        leBytes 1 p.cls.verdict ++ leBytes 2 p.cls.pm ++ leBytes 1 p.cls.hdrs.length ++ [0] ++ leBytes 4 it.transit ++
        leBytes 4 p.cls.hash ++ List.replicate 8 0 ++ slice (p.cls.hdrs.map hdr).flatten 0 64 ++ slice p.cls.built 0 16
    else slice (List.replicate 14 0 ++ leBytes 2 it.entry ++ List.replicate 16 0 ++ leBytes 4 it.transit) 0 128

/-- The packet window: bytes 0–255 of the item's packet (R191), of the edited one after a `PKT_EDIT` (DESIGN CHOICE, log entry 128). -/
def Dev.window (d : Dev) (c : Nat) : List Byte :=
  match (d.core c).busy.bind (·.handle) with
  | none => []
  | some h => (d.pkt h).data.take 256

/-- Regions a load can meet. -/
inductive Region | dmem | window | context | body | across | shared | code | none
  deriving DecidableEq, Repr

/-- The region in which an access of `n` bytes lies wholly, or the two adjacent read-only ones that it lies across (R188, R217). -/
def region (c addr n : Nat) : Region :=
  let inside (b s : Nat) : Bool := decide (b ≤ addr) && decide (addr + n ≤ b + s)
  if inside (dmemBase c) (dmemSize c) then .dmem
  else if isFe c && inside 0 0x40000 then .code
  else if isFe c && inside 0x20000000 0x100 then .window
  else if isFe c && inside 0x20000100 0x80 then .context
  else if !isFe c && inside 0x20000000 0x200 then .body
  else if !isFe c && inside 0x20000200 0x80 then .context
  else if inside 0x20000000 (if isFe c then 0x180 else 0x280) then .across
  else if inside 0x30000000 0x10000 then .shared
  else .none

/-- What stops a write of `n` bytes that must go to data memory: a range that only reads, or none of the map (R215). -/
def dstBad (c addr n : Nat) : Option Nat :=
  match region c addr n with | .dmem => none | .none => some 0x02 | _ => some 0x03

/-- What stops a read that must come from data memory. -/
def srcBad (c addr n : Nat) : Option Nat := if inDmem c addr n then none else some 0x02

/-- What stops a read of an authenticated message, which may stand in the packet window as well (R203, R206). -/
def msgBad (c addr n : Nat) : Option Nat :=
  match region c addr n with | .dmem | .window => none | _ => some 0x02

/-- Bytes of an access. -/
def szBytes : Size → Nat
  | .byte => 1 | .half => 2 | .word => 4 | .dword => 8

/-- The bytes a load reads. Shared words read as at the start of the transit (R214). -/
def Dev.loadBytes (d : Dev) (c addr n : Nat) : List Byte :=
  match region c addr n with
  | .dmem => d.dmemBytes c addr n
  | .window => slice (d.window c) (addr - 0x20000000) n
  | .context => slice (d.context c) (addr - (if isFe c then 0x20000100 else 0x20000200)) n
  | .body => slice d.body (addr - 0x20000000) n
  | .shared => slice (leBytes 8 (sget d.kept.shared ((addr - 0x30000000) / 8)).toNat) (addr % 8) n
  | _ => []

/-- What stops a load (R215): undefined pair, outside the map, misaligned. -/
def loadBad (c addr : Nat) (sz : Size) (r : GReg) : Option Nat :=
  if sz = .dword ∧ r.val % 2 = 1 then some 0x01
  else if region c addr (szBytes sz) = .none ∨ region c addr (szBytes sz) = .code then some 0x02
  else if addr % (szBytes sz) ≠ 0 then some 0x04
  else none

/-- What stops a store (R215). -/
def Dev.storeBad (d : Dev) (c addr : Nat) (sz : Size) (r : GReg) : Option Nat :=
  let col := (d.core c).image.col
  if sz = .dword ∧ r.val % 2 = 1 then some 0x01
  else match region c addr (szBytes sz) with
    | .none => some 0x02
    | .dmem => if addr % (szBytes sz) ≠ 0 then some 0x04 else none
    | .shared =>
      let w := (addr - 0x30000000) / 8
      if w < col.svFirst ∨ col.svFirst + col.svCount ≤ w then some 0x03
      else if addr % (szBytes sz) ≠ 0 then some 0x04 else none
    | _ => some 0x03

/-- Cost of an access (R188, R217). -/
def loadCost (c addr n : Nat) : Nat := if region c addr n = .shared then 4 else 2
def storeCost (c addr n : Nat) : Nat := if region c addr n = .shared then 2 else 1

/-- The pending value of a shared word, as its writer's last store left it (R214). -/
def Dev.sharedNow (d : Dev) (w : Nat) : DWord :=
  match d.sharedPend.reverse.find? fun e => e.1 == w with
  | some e => e.2
  | none => sget d.kept.shared w

/-- Store bytes (R188, R214). -/
def Dev.storeBytes (d : Dev) (c addr : Nat) (b : List Byte) : Dev :=
  match region c addr b.length with
  | .dmem => Dev.dmemStore c addr b d
  | .shared =>
    let w := (addr - 0x30000000) / 8
    { d with sharedPend := d.sharedPend ++ [(w, BitVec.ofNat 64 (ofLe (patch (leBytes 8 (d.sharedNow w).toNat) (addr % 8) b)))] }
  | _ => d

/-- `LD` (R188, R197). -/
def coreLoad (c : Nat) (sz : Size) (rd ra : GReg) (off : Word) (d : Dev) : Dev :=
  let addr := ((d.core c).get ra + off).toNat
  let n := (szBytes sz)
  let v := ofLe (d.loadBytes c addr n)
  d.instrOr c (loadCost c addr n) (loadBad c addr sz rd) fun k =>
    if sz = .dword then k.setPair rd (BitVec.ofNat 64 v) else k.set rd (BitVec.ofNat 32 v)

/-- `ST` (R188, R197). -/
def coreStore (c : Nat) (sz : Size) (rs ra : GReg) (off : Word) (d : Dev) : Dev :=
  let k := d.core c
  let addr := (k.get ra + off).toNat
  let v := if sz = .dword then (k.getPair rs).toNat else (k.get rs).toNat
  match d.storeBad c addr sz rs with
  | some e => d.instrOr c 0 (some e) id
  | none =>
    if d.coreBusy c ∧ k.pc + 4 ≤ k.codeLen ∧ k.pc % 4 = 0 then
      (d.storeBytes c addr (leBytes (szBytes sz) v)).instr c (storeCost c addr (szBytes sz)) id
    else d.instr c 0 id

/-! ### Control flow -/

/-- Bytes of scratch: data memory beyond persistent area and initialised data (R189). -/
def Core.scratch (k : Core) (c : Nat) : Nat :=
  dmemSize c - k.persistLen - k.initLen - (if isFe c then 0 else k.codeLen)

/-- `CALL` (R197): the return address goes on the stack in scratch; beyond scratch it is program error 0x06. -/
def coreCall (c target : Nat) (d : Dev) : Dev :=
  let k := d.core c
  let bad := if k.scratch c < 4 * (k.stack.length + 1) then some 0x06 else none
  d.instrOr c 2 bad fun k => { k with stack := k.pc :: k.stack, pc := target }

/-- `RET` (R197): with no return address on the stack the program counter is a free value (DESIGN CHOICE, log entry 10). -/
def coreReturn (c : Nat) (d : Dev) : Dev :=
  match (d.core c).stack with
  | t :: r => d.instr c 2 fun k => { k with stack := r, pc := t }
  | [] =>
    let (v, d) := d.draw
    d.instr c 2 fun k => { k with pc := v % 2 ^ 32 }

/-- `B` (R197): 1 cycle not taken, 2 taken. -/
def coreBranch (c : Nat) (f : FlagName) (want : Bool) (target : Nat) (d : Dev) : Dev :=
  let taken := (d.core c).flag f == want
  d.instr c (if taken then 2 else 1) fun k => if taken then { k with pc := target } else k

/-! ### Signal primitives (R201–R204) -/

/-- Fields of a signal descriptor. -/
def sigOrder (s : Word) : Bool := s.getLsbD 31
def sigSigned (s : Word) : Bool := s.getLsbD 30
def sigLen (s : Word) : Nat := bitsOf s.toNat 29 24 + 1
def sigStart (s : Word) : Nat := bitsOf s.toNat 11 0

/-- Buffer positions of the value bits of a big-endian signal, most significant first (R202). -/
def bigWalk : Nat → Nat → List Nat
  | 0, _ => []
  | n + 1, pos => pos :: bigWalk n (if pos % 8 = 0 then pos + 15 else pos - 1)

/-- Buffer position of each value bit, bit 0 first (R202). -/
def sigBits (s : Word) : List Nat :=
  if sigOrder s then (bigWalk (sigLen s) (sigStart s)).reverse else (List.range (sigLen s)).map (sigStart s + ·)

/-- A byte of the buffer region that a base address lies in: `none` where the signal may not reach (R203). -/
def Dev.sigByte (d : Dev) (c base i : Nat) : Option Byte :=
  match region c base 1 with
  | .window =>
    let o := base - 0x20000000 + i
    if o < 256 ∧ o < (d.window c).length then some ((d.window c).getD o 0) else none
  | .dmem => if inDmem c (base + i) 1 then some (d.dmem c (base + i - dmemBase c)) else none
  | _ => none

/-- The value of a signal, and whether a bit lay out of range (R203). -/
def Dev.sigValue (d : Dev) (c base : Nat) (s : Word) : Nat × Bool :=
  let bits := (sigBits s).map fun pos => (d.sigByte c base (pos / 8)).map fun b => b.getLsbD (pos % 8)
  ((bits.mapIdx fun i b => if b.getD false then 2 ^ i else 0).sum, bits.any (·.isNone))

/-- Deliver a value of `len` bits into a register or pair, sign- or zero-extended (R203). -/
def Core.deliver (k : Core) (rd : GReg) (len v : Nat) (signed : Bool) : Core :=
  let x : DWord := if signed then (BitVec.ofNat len v).signExtend 64 else BitVec.ofNat 64 v
  if 32 < len then k.setPair rd x else k.set rd (x.setWidth 32)

/-- A register that must be a pair for signals of more than 32 bits. -/
def sigPairBad (s : Word) (r : GReg) : Option Nat := if 32 < sigLen s ∧ r.val % 2 = 1 then some 0x01 else none

/-- `SGX` (R203). -/
def coreSgx (c : Nat) (rd : GReg) (desc : Src) (ra : GReg) (d : Dev) : Dev :=
  let k := d.core c
  let s := k.src desc
  let base := (k.get ra).toNat
  let (v, nv) := d.sigValue c base s
  let bad := match sigPairBad s rd, region c base 1 with
    | some e, _ => some e
    | none, .window => none
    | none, .dmem => none
    | none, _ => some 0x02
  d.instrOr c (if 32 < sigLen s then 5 else 3) bad fun k => { (k.deliver rd (sigLen s) v (sigSigned s)) with nv := nv }

/-- The bytes of data memory that hold a packed signal. -/
def Dev.packBits (d : Dev) (c base v : Nat) (s : Word) : Dev :=
  ((sigBits s).mapIdx fun i pos => (i, pos)).foldl (fun d e =>
    let off := base - dmemBase c + e.2 / 8
    let b := d.dmem c off
    let m : Byte := BitVec.ofNat 8 (2 ^ (e.2 % 8))
    d.dmemPut c off (if bitAt v e.1 then b ||| m else b &&& ~~~m)) d

/-- `SGP` (R204, R215): every bit lies in data memory. -/
def coreSgp (c : Nat) (rs : GReg) (desc : Src) (ra : GReg) (d : Dev) : Dev :=
  let k := d.core c
  let s := k.src desc
  let base := (k.get ra).toNat
  let v := if 32 < sigLen s then (k.getPair rs).toNat else (k.get rs).toNat
  let out := (sigBits s).findSome? fun pos => dstBad c (base + pos / 8) 1
  match sigPairBad s rs, out with
  | some e, _ => d.instrOr c 0 (some e) id
  | none, some e => d.instrOr c 0 (some e) id
  | none, none =>
    if d.coreBusy c ∧ k.pc + 4 ≤ k.codeLen ∧ k.pc % 4 = 0 then
      (d.packBits c base v s).instr c (if 32 < sigLen s then 5 else 3) id
    else d.instr c 0 id

/-- The conversion of `SGL` (R204): the value, saturated to the target's range, and whether it saturated. -/
def convert (x : Int) (blk : List Byte) : Int × Bool :=
  let a := toInt 16 (ofLe (slice blk 0 2))
  let sh := byteAt blk 2 % 32
  let b := toInt 32 (ofLe (slice blk 4 4))
  let t := BitVec.ofNat 32 (ofLe (slice blk 8 4))
  let y := (x * a) / (2 ^ sh : Int) + b
  let n := sigLen t
  let lo : Int := if sigSigned t then -(2 ^ (n - 1) : Int) else 0
  let hi : Int := if sigSigned t then (2 ^ (n - 1) : Int) - 1 else (2 ^ n : Int) - 1
  let z := clampI y lo hi
  (z, z != y)

/-- `SGL` (R204): the parameter block stands in data memory at the address in `rb`. -/
def coreSgl (c : Nat) (rd rx rb : GReg) (d : Dev) : Dev :=
  let k := d.core c
  let addr := (k.get rb).toNat
  let blk := d.dmemBytes c addr 16
  let fl := byteAt blk 3
  let t := BitVec.ofNat 32 (ofLe (slice blk 8 4))
  let wide := bitAt fl 1
  let raw := if wide then (k.getPair rx).toNat else (k.get rx).toNat
  let x : Int := if bitAt fl 0 then toInt (if wide then 64 else 32) raw else raw
  let (z, sat) := convert x blk
  let bad := if !inDmem c addr 16 then some 0x02
    else if wide ∧ rx.val % 2 = 1 then some 0x01 else sigPairBad t rd
  d.instrOr c 6 bad fun k => { (k.deliver rd (sigLen t) (ofInt (sigLen t) z) (sigSigned t)) with nv := sat }

/-- `END` (R196): another code than OK, REFUSED_POLICY or one a helper returned is program error 0x05. -/
def coreEnd (c code : Nat) (d : Dev) : Dev :=
  if d.coreBusy c then
    let k := d.core c
    if k.codeLen < k.pc + 4 ∨ k.pc % 4 ≠ 0 then d.programError c 0x02
    else if code = 0 ∨ code = 0x12 ∨ k.codes.contains code then
      let d := d.charge c 2
      if d.runs then d.finish c code else d
    else d.programError c 0x05
  else d

/-- The word fetched is no instruction, or calls a helper of no number: it ends the item as program error 0x01 (R215). -/
def coreUndefined (c : Nat) (d : Dev) : Dev := d.instrOr c 0 (some 0x01) id

/-- An item ends at `END`, or at an undefined instruction or helper number, which names no code (R196, R215). -/
def coreEnds (c : Nat) (code : Option Nat) (d : Dev) : Dev :=
  match code with
  | some n => coreEnd c n d
  | none => coreUndefined c d

/-! ### Dispatch and carry-over -/

/-- The group of an item in the order of R60, 1 to 5. -/
def Item.group (i : Item) : Nat :=
  match i.cls, i.carried || i.held.isSome with
  | .safety, false => 1
  | .safety, true => 2
  | .control, true => 2
  | .control, false => 3
  | .bulk, true => 4
  | .bulk, false => 5

/-- Does item `a` come before `b` (R60)? A task counts as numbered at the boundary that opens its transit: it comes before what
entered after that boundary, and before the tasks of higher `ENTRY_ID`. -/
def Item.before (a b : Item) : Bool :=
  decide (a.group < b.group) || (a.group == b.group &&
    (accBefore a.acc b.acc || (a.acc == b.acc &&
      ((a.handle.isNone && b.handle.isSome) || (a.handle.isNone == b.handle.isNone && decide (a.entry < b.entry))))))

/-- Cycles that the SAFETY and CONTROL work of a core may still take in the open transit (R50, R57): the whole contract of an
active entry whose window has not opened, and otherwise what waits. -/
def Dev.dueRoom (d : Dev) (c : Nat) : Nat :=
  match d.alm with
  | none => 0
  | some a =>
    let sc := a.entries.filter fun e => (e.kind == 1 || AlmEntry_task e) && e.resource == c && decide (e.cls < 2) && AlmEntry_active a e d.kept.transit
    (sc.map fun e =>
      if d.now < d.point e.winOpen then e.costFixed + e.bound * e.costItem
      else ((d.core c).queue.filter fun i => i.entry == e.id && !i.carried && !i.excess && i.held.isNone && decide (i.elig ≤ d.kept.transit)).length *
        (if AlmEntry_task e then e.costFixed else e.costItem)).sum

/-- May an item of group 2 start (R62): it fits C(L), and what is left of the transit, beside the work of its contract that is
still due, in C(L) as in the share of C(L) that the time left of the nominal transit gives (DEDUCED, log entry 92)? -/
def Dev.carryFits (d : Dev) (c cost : Nat) : Bool :=
  let cap := capacity c d.len
  let need := cost + d.dueRoom c
  decide (need ≤ cap - ((d.core c).used - (d.core c).bulk)) && decide (need ≤ cap * (d.len - (d.now - d.tickStart)) / d.len)

/-- May an item be dispatched now (R48, R62, R193): eligible, its window open, and one of group 2 or of class BULK fits what is left? The
whole cost of a BULK task counts (DESIGN CHOICE, log entry 109). -/
def Dev.canStart (d : Dev) (c : Nat) (i : Item) : Bool :=
  match d.entry i.entry with
  | none => false
  | some e =>
    let open_ := decide (i.elig ≤ d.kept.transit) && d.gateOpen c && !(i.excess && !i.carried && i.held.isNone) && decide (d.point e.winOpen ≤ d.now)
    let left := d.tickStart * 64 + d.len * 63 - d.now * 64    -- in 1/64 ns
    let cyc := if isFe c then left * 12 / 640 else left * 4 / 640
    open_ && (i.group != 2 || d.carryFits c (if AlmEntry_task e then e.costFixed else e.costItem)) && (i.cls != .bulk || (decide (e.costItem + (if AlmEntry_task e then e.costFixed else 0) ≤ capacity c d.len - (d.core c).used) &&
      decide (e.costItem + (if AlmEntry_task e then e.costFixed else 0) ≤ cyc)))

/-- The item that an idle core takes (R60, R193). -/
def Dev.pick (d : Dev) (c : Nat) : Option Item :=
  (d.core c).queue.foldl (fun best i =>
    if d.canStart c i then
      match best with
      | none => some i
      | some b => if i.before b then some i else some b
    else best) none

/-- Start an item: program counter at the dispatch table's address, `NV` 0, nothing charged yet (R187, R193, R194). -/
def dispatchCore (c : Nat) (d : Dev) : Dev :=
  if !d.runs ∨ d.coreState c ≠ 1 ∨ (d.core c).busy.isSome then d
  else
    match d.pick c with
    | none => d
    | some i =>
      match (imgTable (d.core c).image).find? fun t => t.1 == i.entry with
      | none => d
      | some t =>
        let d := d.modCore c fun k =>
          { k with busy := some i, queue := k.queue.erase i, pc := t.2, nv := false, cycles := 0, stack := [], codes := [] }
        d.setCoreEntry c i.entry

/-- Carry-over at the start of a transit (R62, R63): an excess or unserved BULK item is carried once; a carried item that
was not served completes REFUSED_BUDGET. What a core's gate holds waits for it, and completes REFUSED_BUDGET where it is not
served in the transit that the apply boundary opened (R710). -/
def Dev.carryItems (c : Nat) : List Item → Dev → Dev
  | [], d => d
  | i :: r, d =>
    let n := d.kept.transit
    let put (j : Item) (d : Dev) : Dev := d.modCore c fun k => { k with queue := k.queue ++ [j] }
    if n ≤ i.elig then Dev.carryItems c r (put i d)
    else if !d.gateOpen c then Dev.carryItems c r (put { i with held := i.held.or (some (if i.carried then i.elig - 1 else i.elig)) } d)
    else if i.held.isSome then
      if n ≤ d.appliedAt then Dev.carryItems c r (put i d)
      else
        let d := (d.bump F.HELD_REFUSED_COUNT).outcome i 0x10
        Dev.carryItems c r (match i.handle with | some h => d.unref h | none => d)
    else if i.carried then
      let d := d.outcome i 0x10
      Dev.carryItems c r (match i.handle with | some h => d.unref h | none => d)
    else Dev.carryItems c r (put { i with carried := true, elig := n } d)

/-- The carry-over of one core (DEDUCED, log entry 49). -/
def carryCore (c : Nat) (d : Dev) : Dev :=
  let q := (d.core c).queue
  Dev.carryItems c q (d.modCore c fun k => { k with queue := [] })

/-- SAFETY or CONTROL work of a core that was due in the transit that ends and is unfinished: a hardware fault (R47). So is a BULK item
still in hand: it has used more than the cost with which it started, for R48 keeps its cost inside the transit (DEDUCED, log entry 108). -/
def Dev.overdue (d : Dev) (c : Nat) : Option Nat :=
  let k := d.core c
  match k.busy with
  | some i => some i.entry
  | none =>
    if !d.gateOpen c then none
    else (k.queue.find? fun i => i.cls != .bulk && !i.carried && !i.excess && i.held.isNone && decide (i.elig ≤ d.kept.transit)).map (·.entry)

/-- Do the periodic tasks of a core come up: it has an image and is not quiesced? In a swap they wait for the core (R710). -/
def Dev.tasksCome (d : Dev) (c : Nat) : Bool := d.coreState c == 1 || d.coreState c == 3

/-- The periodic tasks, active in a transit, of the cores chosen (R60, R193): one item each, in order as if numbered at the boundary. -/
def Dev.startTasksOn (d : Dev) (a : Almanac) (p : Nat → Bool) : Dev :=
  a.entries.foldl (fun d e =>
    if AlmEntry_task e && AlmEntry_active a e d.kept.transit && p e.resource && d.tasksCome e.resource then
      d.modCore e.resource fun k =>
        { k with queue := k.queue ++ [{ entry := e.id, cls := clsOf e.cls, acc := d.acc, transit := d.kept.transit, elig := d.kept.transit }] }
    else d) d

def Dev.startTasks (d : Dev) (a : Almanac) : Dev := d.startTasksOn a fun _ => true

/-- The kept stores with the stores of the open transit to shared words, which no core sees before the boundary, but which are lines written
in this transit (R214, R670, R673). -/
def Dev.keptNow (d : Dev) : Kept := { d.kept with shared := d.sharedPend.foldl (fun m e => sput m e.1 e.2) d.kept.shared }

/-- The cores' work at a boundary: cycles of the transit that ended are shown, stores to shared words become visible
(R214, R224). -/
def coresBoundary (d : Dev) : Dev :=
  let d := (List.range 20).foldl (fun d c =>
    let u := (d.core c).used
    let d := if isFe c then d.wr F.FLOW_LOAD_CYCLES [c] u else d.wr F.IOSEQ_LOAD_CYCLES [c - 16] u
    if u = 0 then d else d.modCore c fun k => { k with used := 0, bulk := 0 }) d
  { d with kept := d.keptNow, sharedPend := [] }

end Sys2Proof.Machine
end

