-- ==== Sys2Proof/Machine/Output.lean ====
section
/-! DEFINITION. The output stage: channels and their ratings, demand, output commands and the die budget arbiter, latch
sets and the commit strobe, ramps and PWM bases (R460–R462, R474–R497, R507). -/

namespace Sys2Proof.Machine

/-! ### Channels (R460, R461) -/

/-- Class: 0 H, 1 M, 2 L, 3 half-bridge leg. -/
def chanClass (ch : Nat) : Nat :=
  let j := chanLocal ch
  if j < 4 then 0 else if j < 16 then 1 else if j < 32 then 2 else 3

/-- By class: R_on in mΩ, rated current in mA, current limit in mA, shortest PWM period in 6.25 ns, energy account limit in
µJ, drain in 0.1 W, single-pulse rating in µJ. -/
def ronOf (c : Nat) : Nat := [4, 12, 40, 15].getD c 0
def ratedOf (c : Nat) : Nat := [20000, 8000, 2500, 10000].getD c 0
def limitOf (c : Nat) : Nat := [120000, 50000, 12000, 30000].getD c 0
def minPeriodOf (c : Nat) : Nat := [80000, 6400, 6400, 6400].getD c 0
def accountOf (c : Nat) : Nat := [2000000, 400000, 100000, 400000].getD c 0
def drainOf (c : Nat) : Nat := [15, 6, 2, 6].getD c 0
def pulseOf (c : Nat) : Option Nat := [none, some 120000, some 35000, none].getD c none

/-- The current that flows where the load tries to draw `ma`: it is held at the class limit (R463), in both directions on a leg. -/
def heldCurrent (ch : Nat) (ma : Int) : Int := clampI ma (-(limitOf (chanClass ch) : Int)) (limitOf (chanClass ch))

/-- The PWM state of a channel. -/
def pwmState (ch : Nat) : Nat := if ch < 64 then 2 else 3

/-- Does a trip or a lockout hold the channel OFF? -/
def Chan.down (c : Chan) : Bool := c.tripped || c.locked

/-- Applied state: after trips (R469). -/
def Chan.outState (c : Chan) : Nat := if c.down then 0 else c.state


/-- A field of a channel's registers. -/
def Dev.chf (d : Dev) (f : Fld) (ch : Nat) : Nat := d.rd f [chanDie ch, chanLocal ch]

/-- A field of a die's registers as the die itself applies it: in a hold, as it stood when the hold began (R29, R503, R730). -/
def Dev.dieRd (d : Dev) (f : Fld) (ix : List Nat) : Nat :=
  let x := d.die (ix.getD 0 0)
  if x.hold then fldGet x.cfg f ix else d.rd f ix

/-- A field of a channel's registers as its die applies it. -/
def Dev.dieChf (d : Dev) (f : Fld) (ch : Nat) : Nat := d.dieRd f [chanDie ch, chanLocal ch]

/-- The duty a ramp has reached, rounded down (R480). -/
def Chan.dutyNow (c : Chan) : Nat :=
  if c.rampLen ≤ c.rampPos then c.duty
  else (((c.rampFrom : Int) + ((c.duty : Int) - c.rampFrom) * c.rampPos / c.rampLen)).toNat

/-- Applied duty and phase: after trips, ramp and throttle (R469, R480, R499). -/
def Chan.outDuty (c : Chan) : Nat :=
  if c.down then 0 else match c.throttle with | some t => min t c.dutyNow | none => c.dutyNow
def Chan.outPhase (c : Chan) : Nat := if c.down then 0 else c.phase

/-- Does the thermal throttle reduce the duty of a channel (R474, R498)? -/
def Chan.throttled (c : Chan) (ch : Nat) : Bool := c.outState == pwmState ch && decide (c.outDuty < c.dutyNow)

/-- The status byte (R474). -/
def Chan.status (c : Chan) (ch : Nat) : Nat :=
  (decide (c.outState ≠ 0) && !c.baseOff).toNat + 2 * c.tripped.toNat + 4 * c.locked.toNat + 8 * c.openLoad.toNat +
    16 * c.inrushEnd.isSome.toNat + 32 * (c.throttled ch).toNat + 64 * c.offFault.toNat + 128 * c.fwFault.toNat

/-- What drives a channel (R475–R477). -/
def Dev.driveOf (d : Dev) (ch : Nat) (c : Chan) : Drive :=
  let x := d.die (chanDie ch)
  { state := c.outState, duty := c.outDuty, phase := c.outPhase
    base := if c.baseOff then 0 else sget x.bases c.base, since := sget x.baseAt c.base }

/-- A channel as its die holds it. -/
def Dev.chan (d : Dev) (ch : Nat) : Chan := sget d.chans ch

/-- Put a channel whose drive was `was`: a change of its drive is noted, but what it changes from at the instant of a change never drove (R481). While the device runs and drives, the kept copy follows
(R507); a unit of a pair that does not drive keeps its companion's (R675). -/
def Dev.putChan (d : Dev) (ch : Nat) (c : Chan) (was : Drive) : Dev :=
  let c := if d.driveOf ch c = was ∨ c.swungAt = d.now then c else { c with swungAt := d.now, driveWas := was }
  let d := { d with chans := sput d.chans ch c }
  if d.runs && !d.quiet then d.modK fun k => { k with chans := d.chans } else d

/-- Change a channel. -/
def Dev.modChan (d : Dev) (ch : Nat) (f : Chan → Chan) : Dev :=
  d.putChan ch (f (d.chan ch)) (d.driveOf ch (d.chan ch))

/-- The payload of the record of an output change (R109). -/
def Chan.change (c : Chan) (ch cause : Nat) : List Byte :=
  leBytes 1 ch ++ leBytes 1 c.outState ++ leBytes 2 c.outDuty ++ leBytes 1 cause ++ [0, 0, 0]

/-- The recorder's record of an output change; the change takes an accession number (R106, R109). -/
def Dev.recOutput (d : Dev) (ch cause loc : Nat) : Dev :=
  let (a, d) := d.number
  d.recChange a 4 (chanDie ch) loc ((d.chan ch).change ch cause)

/-- Change a channel and record the change of its output, where there is one. A die in hold logs what it does, and the recorder has
it at reclaim (R506). -/
def Dev.changeChan (d : Dev) (ch cause loc : Nat) (f : Chan → Chan) : Dev :=
  let c := d.chan ch
  let d := d.modChan ch f
  let c' := d.chan ch
  if (d.die (chanDie ch)).hold ∨ !d.runs then d
  else if c.outState = c'.outState ∧ c.outDuty = c'.outDuty ∧ c.outPhase = c'.outPhase ∧ c.baseOff = c'.baseOff then d
  else d.recOutput ch cause loc

/-! ### Demand (R490, R491), in units of 1/4,096,000,000 mW -/

def mwUnit : Nat := 4096000000

/-- `f` of R490 in 1/4,096. -/
def demandF (ch state duty : Nat) : Nat :=
  if ch < 64 then (if state = 0 then 0 else if state = 1 then 4096 else duty) else (if state = 0 then 0 else 4096)

/-- The demand of a channel in a commanded state. -/
def Dev.demand (d : Dev) (ch state duty : Nat) : Nat :=
  (d.chf F.CH_LOAD_RATED_MA ch) ^ 2 * ronOf (chanClass ch) * demandF ch state duty + d.chf F.CH_LOAD_EXTRA_MW ch * 10 * mwUnit

/-- The commanded state of a channel with every admitted command applied: state, duty, phase. -/
def Dev.commanded (d : Dev) (ch : Nat) : Nat × Nat × Nat :=
  let look (l : Latch) (old : Nat × Nat × Nat) : Nat × Nat × Nat := if l.used then (l.state, l.duty, l.phase) else old
  let c := d.chan ch
  look (sget d.latchNext ch) (look (sget d.latch ch) (look (sget d.strobe ch) (c.state, c.duty, c.phase)))

/-- The demand that a die has granted, and that of its channels outside SAFETY. -/
def Dev.granted (d : Dev) (die : Nat) : Nat :=
  ((dieChans die).map fun ch => let s := d.commanded ch; d.demand ch s.1 s.2.1).sum
def Dev.grantedOther (d : Dev) (die : Nat) : Nat :=
  ((dieChans die).map fun ch => let s := d.commanded ch; if d.chf F.CH_CFG_CLASS ch = 0 then 0 else d.demand ch s.1 s.2.1).sum

/-- Do a die's budgets hold (R491)? -/
def Dev.budgetOk (d : Dev) (die : Nat) : Bool :=
  let b := d.rd F.PD_BUDGET_BUDGET_MW [die]
  let s := d.rd F.PD_BUDGET_SAFETY_MW [die]
  let need := ((dieChans die).map fun ch =>
    if d.chf F.CH_CFG_CLASS ch = 0 then d.demand ch 1 0 else 0).sum
  decide (1000 ≤ b) && decide (b ≤ 7000) && decide (s ≤ b) && decide (need ≤ s * mwUnit)

/-! ### Output commands (R483–R497) -/

/-- Is the channel a leg of a bridge (R482)? -/
def Dev.bridged (d : Dev) (ch : Nat) : Bool :=
  let j := chanLocal ch
  if j < 32 then false
  else d.dieRd (if j < 34 then F.PD_BRIDGE_PAIR0 else F.PD_BRIDGE_PAIR1) [chanDie ch] != 0

/-- States of the two legs for a bridge state (R482). -/
def bridgeLegs (state : Nat) : Nat × Nat :=
  [(0, 0), (1, 2), (2, 1), (2, 2), (3, 2), (2, 3)].getD state (0, 0)

/-- The channels that a command changes, each with its new state; nothing where the command is out of range (R482–R484). -/
def Dev.cmdLegs (d : Dev) (c : OutCmd) : Option (List (Nat × Nat)) :=
  if 71 < c.channel then none
  else if c.op = 1 then
    if pwmState c.channel < c.state ∨ d.bridged c.channel then none else some [(c.channel, c.state)]
  else if c.op = 2 then
    if c.channel < 64 ∨ chanLocal c.channel % 2 ≠ 0 ∨ !d.bridged c.channel ∨ 5 < c.state then none
    else some [(c.channel, (bridgeLegs c.state).1), (c.channel + 1, (bridgeLegs c.state).2)]
  else none

/-- The PWM base of a channel: does it run, and not faster than the channel's class allows (R476, R478)? -/
def Dev.pwmOk (d : Dev) (ch : Nat) : Bool :=
  let p := sget (d.die (chanDie ch)).bases (d.chf F.CH_CFG_BASE ch)
  p != 0 && decide (minPeriodOf (chanClass ch) ≤ p - 1)

/-- Who issues an output command: a tenant, or a core. -/
inductive OutSrc
  | host (h : HostRef)
  | core (c : Nat)
  deriving DecidableEq, Repr

/-- May the issuer command the channel (R484)? -/
def Dev.cmdRight (d : Dev) (ch : Nat) : OutSrc → Bool
  | .host h => d.chf F.CH_CFG_OWNER ch == h.tenant && d.chf F.CH_CFG_HOST_EN ch == 1
  | .core _ => d.chf F.CH_CFG_PROG_EN ch == 1

/-- Cause of an output change by its issuer (R109). -/
def outCause : OutSrc → Nat
  | .host _ => 1
  | .core c => if c < 16 then 2 else 3

/-- The energy account of a channel drained up to an instant, in 10⁻¹⁰ J (R470). -/
def Chan.accountAt (c : Chan) (ch now : Nat) : Nat := c.account - (now - c.drained) * drainOf (chanClass ch)

/-- Do the lockouts and the PWM bases of its channels let a command be (R476, R478, R485)? -/
def Dev.cmdStands (d : Dev) (c : OutCmd) (legs : List (Nat × Nat)) : Bool :=
  legs.all fun l => (l.2 != pwmState l.1 || d.pwmOk l.1) && (!(d.chan l.1).locked || bitAt c.flags 0 || c.state == 0)

/-- Do rights, ranges, lockouts, PWM limits and the bridge rule let a command be (R484, R485)? -/
def Dev.cmdPolicy (d : Dev) (c : OutCmd) (legs : List (Nat × Nat)) (src : OutSrc) : Bool :=
  d.cmdRight c.channel src && d.cmdStands c legs && legs.all fun l =>
    d.chf F.CH_CFG_VALID l.1 == 1 && (l.2 != pwmState l.1 || (decide (c.duty ≤ 4095) && decide (c.phase ≤ 255)))

/-- Does `CLEAR` find a channel's account or temperature too high (R485)? -/
def Dev.clearBlocked (d : Dev) (legs : List (Nat × Nat)) : Bool :=
  legs.any fun l => (d.chan l.1).hot || decide (accountOf (chanClass l.1) * 10000 < 4 * (d.chan l.1).accountAt l.1 d.now)

/-- The rise in demand of a command: over all its channels, and over those outside SAFETY, old and new. -/
def Dev.cmdDemand (d : Dev) (c : OutCmd) (legs : List (Nat × Nat)) (all : Bool) : Nat × Nat :=
  let ls := legs.filter fun l => all || d.chf F.CH_CFG_CLASS l.1 != 0
  ((ls.map fun l => let s := d.commanded l.1; d.demand l.1 s.1 s.2.1).sum, (ls.map fun l => d.demand l.1 l.2 c.duty).sum)

/-- Does the arbiter take a command (R492, R493)? -/
def Dev.cmdFits (d : Dev) (c : OutCmd) (legs : List (Nat × Nat)) (cls : Nat) (carried : Bool) : Bool :=
  let die := chanDie c.channel
  let (old, new) := d.cmdDemand c legs true
  let (oldN, newN) := d.cmdDemand c legs false
  let room := (d.rd F.PD_BUDGET_BUDGET_MW [die] - d.rd F.PD_BUDGET_SAFETY_MW [die]) * mwUnit
  decide (new ≤ old) || cls == 0 ||
    ((carried || cls != 2 || !(d.arb.any fun a => a.cls == 1 && chanDie a.cmd.channel == die)) &&
      decide (d.grantedOther die + newN ≤ room + oldN))

/-- The pending state of one channel under a command, which replaces `old` (R486, R488): only a PWM state has a duty, a phase and a ramp
(R483; DESIGN CHOICE, log entry 149), and the `CLEAR` of an admitted command stands (R469, R485). -/
def pendingState (c : OutCmd) (l : Nat × Nat) (cause : Nat) (old : Latch) : Latch :=
  let pwm := l.2 == pwmState l.1
  { used := true
    state := l.2
    duty := if pwm then c.duty else 0
    phase := if pwm then c.phase else 0
    ramp := if pwm then c.ramp else 0
    clear := bitAt c.flags 0 || (old.used && old.clear)
    cause := cause }

/-- Put an admitted command into its die's latch set; after the cut, into the next transit's (R486, R488). -/
def Dev.admitCmd (d : Dev) (c : OutCmd) (legs : List (Nat × Nat)) (cause : Nat) : Dev :=
  let put (m : Sparse Latch) : Sparse Latch := legs.foldl (fun m l =>
    smod m l.1 (pendingState c l cause)) m
  if d.cutDone then { d with latchNext := put d.latchNext } else { d with latch := put d.latch }

/-- Is a command within the contract of its channel's almanac entry; none where the channel has no entry (R495)? -/
def Dev.cmdContract (d : Dev) (ch : Nat) : Option Bool × Dev :=
  match d.alm.bind fun a => a.entries.find? fun e => e.kind == 6 && e.trigger == ch with
  | none => (none, d)
  | some e => let (excess, d) := d.arrive e; (some !excess, d)

/-- Carry a command to the next transit. -/
def Dev.carryCmd (d : Dev) (c : OutCmd) (cls : Nat) (src : OutSrc) : Dev :=
  let a : ArbCmd := match src with
    | .host h => { cmd := c, cls, host := some h, core := 0xFF, transit := d.kept.transit }
    | .core k => { cmd := c, cls, core := k, transit := d.kept.transit }
  { d with arb := d.arb ++ [a] }

/-- A command takes a place in a die's queue of this transit (R494) (DEDUCED, log entry 140). -/
def Dev.queueCmd (d : Dev) (die : Nat) : Dev := { d with arbUsed := smod d.arbUsed die (· + 1) }

/-- An output command reaches its die's arbiter, which decides it as it comes (R484–R497). On a full queue a SAFETY command beyond its contract
is carried; one to a channel without an entry counts as BULK there (R494, R495). A die in hold, or before its
first strobe, accepts none (R503, R732), which counts as a die that is not there (DESIGN CHOICE, log entry 172). -/
def Dev.outCmd (d : Dev) (c : OutCmd) (src : OutSrc) : Nat × Dev :=
  let die := chanDie c.channel
  match d.cmdLegs c with
  | none => (0x12, d.bump F.CMD_REFUSED_POLICY_COUNT [die % 2])
  | some legs =>
    if !d.gateOpen (0x70 + die) then (0x20, d.absent (0x70 + die))
    else if !(d.die die).ready ∨ (d.die die).hold then (0x20, d)
    else if !d.cmdPolicy c legs src then (0x12, d.bump F.CMD_REFUSED_POLICY_COUNT [die])
    else if bitAt c.flags 0 ∧ d.clearBlocked legs then (0x10, d)
    else
      let cls := d.chf F.CH_CFG_CLASS c.channel
      let (within, d) := d.cmdContract c.channel
      if 256 ≤ sget d.arbUsed die ∧ !(cls = 0 ∧ within = some true) then
        if cls = 0 ∧ within = some false then (1, (d.queueCmd die).carryCmd c 1 src) else (0x11, d.bump F.CMD_REFUSED_FULL_COUNT [die])
      else
        let d := d.queueCmd die
        if d.cmdFits c legs cls false then
          let late := d.cutDone
          (if late then 1 else 0, d.admitCmd c legs (outCause src))
        else (1, d.carryCmd c cls src)

/-- The final outcome of a carried command: a host item completes, a program's is counted and reported (R406, R497). -/
def Dev.carriedDone (d : Dev) (a : ArbCmd) (code : Nat) : Dev :=
  match a.host with
  | some h => d.completeHeld h code 0 (if code = 1 then 1 else 0)
  | none =>
    let die := chanDie a.cmd.channel
    let d := if code = 1 then d.bump F.CMD_DELAYED_COUNT [die]
      else if code = 0x10 then d.bump F.CMD_REFUSED_BUDGET_COUNT [die] else d
    d.event (d.chf F.CH_CFG_OWNER a.cmd.channel) 0x0106 code a.cmd.channel (detail16 (leBytes 1 code ++ leBytes 1 a.core)) (d.peerHeld a.transit)

/-- Decide the commands that were carried, CONTROL before BULK, each in the order they came; what forbids them by then does (R60, R485,
R492). -/
def Dev.serveCarried : List ArbCmd → Dev → Dev
  | [], d => d
  | a :: r, d =>
    let die := chanDie a.cmd.channel
    let src := match a.host with | some h => OutSrc.host h | none => OutSrc.core a.core
    let d := match d.cmdLegs a.cmd with
      | none => d.carriedDone a 0x12
      | some legs =>
        if !d.gateOpen (0x70 + die) then d.carriedDone a 0x20
        else if !(d.die die).ready ∨ (d.die die).hold then d.carriedDone a 0x20
        else if !d.cmdPolicy a.cmd legs src then (d.bump F.CMD_REFUSED_POLICY_COUNT [die]).carriedDone a 0x12
        else if bitAt a.cmd.flags 0 ∧ d.clearBlocked legs then d.carriedDone a 0x10
        -- the service class for power is that of the channel, also of a SAFETY command beyond its contract (R491, R495)
        else if d.cmdFits a.cmd legs (if d.chf F.CH_CFG_CLASS a.cmd.channel = 0 then 0 else a.cls) true then (d.admitCmd a.cmd legs (outCause src)).carriedDone a 1
        else d.carriedDone a 0x10
    Dev.serveCarried r d

/-- A boundary serves what was carried, which keeps its places in the queue of the transit that opens (R494). -/
def arbBoundary (d : Dev) : Dev :=
  let l := d.arb
  let used := l.foldl (fun m a => smod m (chanDie a.cmd.channel) (· + 1)) []
  Dev.serveCarried (l.filter (fun a => a.cls == 1) ++ l.filter (fun a => a.cls != 1)) { d with arb := [], arbUsed := used }

/-! ### The latch set at the boundary (R479, R480, R486, R487) -/

/-- A channel that turns on from OFF opens its inrush window (R466). -/
def Dev.openInrush (d : Dev) (ch : Nat) (c c' : Chan) : Chan :=
  if c.outState = 0 ∧ c'.outState ≠ 0 then
    { c' with inrushEnd := some (d.now + d.dieChf F.CH_LOAD_INRUSH ch * 500000), onSince := some d.now }
  else if c'.outState = 0 then { c' with inrushEnd := none, onSince := none } else c'

/-- The duty from which a ramp starts: the applied duty in PWM, full from ON or HIGH, else 0 (R480; DEDUCED, log entry 22). -/
def Chan.rampStart (c : Chan) (ch : Nat) : Nat :=
  if c.state = pwmState ch then c.dutyNow else if c.state = 1 then 4095 else 0

/-- A channel at a boundary as `c'`: on its base of that boundary, and with its inrush window where it turns on (R25, R466, R475). -/
def Dev.driven_ (d : Dev) (ch : Nat) (c c' : Chan) : Chan :=
  let base := d.chf F.CH_CFG_BASE ch
  d.openInrush ch c { c' with base, baseOff := c'.state == pwmState ch && sget (d.die (chanDie ch)).bases base == 0 }

/-- A die applies one pending state. -/
def Dev.applyLatch (d : Dev) (ch : Nat) (l : Latch) : Dev :=
  let retry := d.chf F.CH_CFG_RETRY ch
  d.changeChan ch l.cause d.now fun c =>
    let c1 := if l.clear then { c with locked := false, tripped := false, fwFault := false, retryLeft := retry } else c
    let c2 := { c1 with
      state := l.state, duty := l.duty, phase := l.phase, rampFrom := c.rampStart ch, rampLen := l.ramp, rampPos := 0 }
    d.driven_ ch c c2

/-- The ramps of a die move at a boundary (R480). A tripped or locked-out channel keeps the duty that it returns to (R469) (DEDUCED, log entry 151). -/
def rampStep (die : Nat) (d : Dev) : Dev :=
  (dieChans die).foldl (fun d ch =>
    let c := d.chan ch
    if c.rampPos < c.rampLen ∧ !c.down then
      d.changeChan ch 1 d.now fun c =>
        if c.rampPos + 1 = c.rampLen then { c with rampLen := 0, rampPos := 0 } else { c with rampPos := c.rampPos + 1 }
    else d) d

/-- Changes of `PWM_BASEb`, and of a channel's `BASE`, take effect at a boundary (R25, R476); a die in hold keeps its PWM generator
(R503). -/
def basesBoundary (die : Nat) (d : Dev) : Dev :=
  if (d.die die).hold then d
  else
  let before := d
  let new : Sparse Nat := [0, 1, 2, 3].foldl (fun m b =>
    if d.on F.PWM_BASE_ENABLE [die, b] then sput m b (d.rd F.PWM_BASE_PERIOD [die, b] + 1) else m) []
  let old := (d.die die).bases
  let fresh (b : Nat) : Bool := sget new b != 0 && sget new b != sget old b
  let since : Sparse Nat := [0, 1, 2, 3].foldl (fun m b => if fresh b then sput m b d.now else m) (d.die die).baseAt
  let d := if old = new then d else d.modDie die fun x => { x with bases := new, baseAt := since }
  (dieChans die).foldl (fun d ch =>
    let c := d.chan ch
    let base := d.chf F.CH_CFG_BASE ch
    let off := c.state == pwmState ch && sget new base == 0
    let was := before.driveOf ch c
    if c.baseOff = off ∧ c.base = base ∧ d.driveOf ch c = was then d
    else
      let d := d.putChan ch { c with baseOff := off, base } was
      if c.baseOff = off ∨ !d.runs then d else d.recOutput ch 1 d.now) d

/-- The nearest whole number to a quotient. -/
def nearest (a b : Nat) : Nat := (2 * a + b) / (2 * b)

/-- Is a PWM in its on-phase at an instant (R475, R477)? The points are rounded to 6.25 ns, and the on-time wraps. -/
def Drive.onPhase (x : Drive) (t : Nat) : Bool :=
  let period := x.base - 1
  let first := nearest (x.phase * period) 256
  let last := nearest (x.phase * 16 * period + x.duty * period) 4096
  period != 0 && decide (((t - x.since) * 4 / 25 + period - first % period) % period < last - first)

/-- Is a channel's output driven at an instant: in its ON state, or in the on-phase of its PWM (R477, R481)? On a leg this is its high switch. -/
def Dev.driven (d : Dev) (ch t : Nat) : Bool :=
  let x := d.driveOf ch (d.chan ch)
  x.state == 1 || (x.state == pwmState ch && x.onPhase t)

/-- The switches of a leg that its drive calls for at an instant, high and low (R481): in PWM the high switch conducts in the on-phase and
the low one otherwise. -/
def Drive.leg (x : Drive) (t : Nat) : Bool × Bool :=
  if x.state = 1 then (true, false)
  else if x.state = 2 then (false, true)
  else if x.state = 3 ∧ 1 < x.base then (x.onPhase t, !x.onPhase t)
  else (false, false)

/-- What a leg's drive called for at an instant, back to the drive before the present one (DEDUCED, log entry 142). -/
def Dev.legWants (d : Dev) (ch t : Nat) : Bool × Bool :=
  let c := d.chan ch
  if t < c.swungAt then c.driveWas.leg t else (d.driveOf ch c).leg t

/-- The switches of a leg at an instant (R481): a switch does not conduct within `DEAD` × 50 ns after the other one did. -/
def Dev.legSwitches (d : Dev) (ch t : Nat) : Bool × Bool :=
  let dead := d.dieRd F.PD_BRIDGE_DEAD [chanDie ch] * 50
  let w := d.legWants ch t
  let clash := (List.range (dead + 1)).any fun k => let v := d.legWants ch (t - k); (w.1 && v.2) || (w.2 && v.1)
  if clash then (false, false) else w

/-- The 28-byte block of an output command (R483); reserved bits are ignored (R8). -/
def outBlock (b : List Byte) : OutCmd :=
  { channel := byteAt b 0, op := byteAt b 1, state := byteAt b 2, flags := byteAt b 3, duty := ofLe (slice b 4 2),
    phase := byteAt b 6, ramp := ofLe (slice b 8 2) }

end Sys2Proof.Machine
end

