-- ==== Sys2Proof/Machine/Tables.lean ====
section
/-! DEFINITION. The tables of the classifier as `TBL_CMD` and the `TABLE` command write, read and invalidate them, the
Catalogue's configuration write with the freshness record, the indirection tables, and stream filters and meters
(R142, R143, R153–R158, R164, R168–R172, R181, R207, R208, R317–R319). -/

namespace Sys2Proof.Machine

/-! ### The Catalogue and the freshness record -/

/-- The 64 bytes of a Catalogue entry (R171). -/
def catBytes (e : CatEntry) : List Byte :=
  leBytes 1 e.kind ++ leBytes 1 e.resource ++ leBytes 1 e.policy ++ leBytes 1 e.state ++ slice e.address 0 6 ++
    slice e.prevAddress 0 6 ++ leBytes 6 e.changedAt ++ leBytes 1 e.wakeRole ++ leBytes 1 e.ownerTenant ++ leBytes 8 e.name ++
    leBytes 4 e.lastSeen ++ leBytes 2 e.liveTimeout ++ leBytes 2 e.rateLimit ++ leBytes 2 e.rateSpan ++ leBytes 2 e.rateCount ++
    leBytes 4 e.freshTx ++ leBytes 4 e.freshRx ++ leBytes 4 e.impostors ++ leBytes 4 e.overrates ++ List.replicate 4 0

/-- What identifies an entry's node in its freshness line: `ADDRESS`, or `NAME` for a J1939 node (R207). -/
def CatEntry.lineKey (e : CatEntry) : Nat := if e.kind = 2 then e.name else ofLe (slice e.address 0 6)

/-- Does the freshness line of an index match its entry (R207)? -/
def FreshLine.matchesEntry (l : FreshLine) (e : CatEntry) : Bool :=
  l.kind == e.kind && l.resource == e.resource && l.key == e.lineKey

/-- The freshness values of an entry that a configuration write creates or rewrites (R208). -/
def Dev.restoreFresh (d : Dev) (i : Nat) : Dev :=
  let e := d.cat i
  let l := sget d.marks i
  if e.kind = 0 then d
  else if l.matchesEntry e then d.modCat i fun e => { e with freshTx := l.txMark, freshRx := l.rxMark }
  else
    let d := d.modCat i fun e => { e with freshTx := 0, freshRx := 0 }
    { d with marks := sput d.marks i { kind := e.kind, resource := e.resource, key := e.lineKey } }

/-- The marks follow the freshness values at a sleep commit and at an external reset (R207). -/
def Dev.saveMarks (d : Dev) : Dev :=
  { d with marks := d.kept.catalogue.foldl (fun m x =>
      let l := sget m x.1
      if x.2.kind ≠ 0 ∧ l.matchesEntry x.2 then sput m x.1 { l with txMark := x.2.freshTx, rxMark := x.2.freshRx } else m) d.marks }

/-- A configuration write of a Catalogue entry at an accession number: only the configuration fields change (R172). -/
def Dev.catWrite (d : Dev) (i : Nat) (b : List Byte) (acc : Nat) : Dev :=
  let d := d.modCat i fun e =>
    let a := slice b 4 6
    let e := if slice e.address 0 6 = a then e else { e with address := a, prevAddress := e.address, changedAt := acc }
    { e with
      kind := byteAt b 0, resource := byteAt b 1, policy := byteAt b 2 % 8, wakeRole := byteAt b 22,
      ownerTenant := byteAt b 23 % 16, name := ofLe (slice b 24 8), liveTimeout := ofLe (slice b 36 2),
      rateLimit := ofLe (slice b 38 2), rateSpan := ofLe (slice b 40 2) }
  d.restoreFresh i

/-! ### Table operations (R153, R154, R158, R181) -/

/-- What a table operation answers: code, index, whether nothing was found, and the bytes read. -/
structure TblAnswer where
  code : Nat := 0
  index : Nat := 0
  missing : Bool := false
  data : List Byte := []
  deriving DecidableEq, Repr, Inhabited

/-- Every packet committed before a table write is looked up with the tables as they stood (R158): its classification comes
first. -/
def Dev.settleClassify (d : Dev) : Dev := d.toClassify.foldl (fun d h => classifyPkt h d) d

/-- Places of the exact table. -/
def exactPlaces : Nat := 131072

/-- The place for a new key (R154): the hash, and whether relocation finds a place before the table is full, are open.
No placed entry changes its index (DESIGN CHOICE, log entry 187). -/
def Dev.exactPlace (d : Dev) : Option Nat × Dev :=
  let (x, d) := d.draw
  let (y, d) := d.draw
  if exactPlaces ≤ d.kept.exact.length ∨ y % 2 = 1 then (none, d)
  else ((List.range (d.kept.exact.length + 1)).map (fun k => (x + k) % exactPlaces) |>.find? fun i => !(sget d.kept.exact i).valid, d)

/-- Operations on the exact table (R154). -/
def Dev.exactOp (d : Dev) (op : Nat) (b : List Byte) : TblAnswer × Dev :=
  let key := ofLe (slice b 0 18)
  let res := ofLe (slice b 20 8)
  match d.kept.exact.find? fun e => e.2.valid && e.2.key == key with
  | some (i, e) =>
    if op = 1 then ({ index := i }, d.modK fun k => { k with exact := sput k.exact i { e with result := res } })
    else if op = 2 then ({ index := i, data := leBytes 18 key ++ [0, 0] ++ leBytes 8 e.result }, d)
    else ({ index := i }, d.modK fun k => { k with exact := sput k.exact i default })
  | none =>
    if op ≠ 1 then ({ missing := true }, d)
    else
      match d.exactPlace with
      | (none, d) => ({ code := 0x11 }, d)
      | (some i, d) => ({ index := i }, d.modK fun k => { k with exact := sput k.exact i { valid := true, key, result := res } })

/-- Operations on the TCAM (R153). -/
def Dev.tcamOp (d : Dev) (op i : Nat) (b : List Byte) : TblAnswer × Dev :=
  let e := sget d.kept.tcam i
  if op = 1 then
    let new : TcamEntry := { valid := bitAt (byteAt b 88) 0, value := ofLe (slice b 0 40), mask := ofLe (slice b 40 40), result := ofLe (slice b 80 8) }
    ({ index := i }, d.modK fun k => { k with tcam := sput k.tcam i new })
  else if op = 2 then
    ({ index := i, data := leBytes 40 e.value ++ leBytes 40 e.mask ++ leBytes 8 e.result ++ leBytes 4 e.valid.toNat }, d)
  else ({ index := i }, d.modK fun k => { k with tcam := sput k.tcam i { e with valid := false } })

/-- Operations on the Catalogue; a read counts as the read of R177. To invalidate an entry clears its configuration fields, `KIND` among
them (R172) (DEDUCED, log entry 126). -/
def Dev.catOp (d : Dev) (op i acc : Nat) (b : List Byte) : TblAnswer × Dev :=
  if op = 1 then ({ index := i }, d.catWrite i b acc)
  else if op = 2 then ({ index := i, data := catBytes (d.cat i) }, d.modCat i fun e => { e with reported := false })
  else ({ index := i }, d.catWrite i [] acc)

/-- Entries of a table by its code: TCAM, exact, action, pattern, template, Catalogue. -/
def tblSize (t : Nat) : Nat := [16384, 131072, 4096, 4096, 256, 16384].getD t 0

/-- One table operation at an accession number (R142, R154, R158, R181). -/
def Dev.tblOp (d : Dev) (t op i acc : Nat) (b : List Byte) : TblAnswer × Dev :=
  if op = 0 ∨ 3 < op ∨ 5 < t ∨ (t ≠ 1 ∧ tblSize t ≤ i) ∨ (t = 3 ∧ op ≠ 2 ∧ !d.gradeF) then ({ code := 0x12, index := i }, d)
  else
    let d := if op = 2 then d else d.settleClassify
    let raw (m : Sparse Nat) (n : Nat) (put : Sparse Nat → Dev) : TblAnswer × Dev :=
      if op = 1 then ({ index := i }, put (sput m i (ofLe (slice b 0 n))))
      else if op = 2 then ({ index := i, data := leBytes n (sget m i) }, d)
      else ({ index := i }, put (sput m i 0))
    match t with
    | 0 => d.tcamOp op i b
    | 1 => d.exactOp op b
    | 2 => raw d.kept.actions 64 fun m => d.modK fun k => { k with actions := m }
    | 3 => raw d.kept.patterns 80 fun m => d.modK fun k => { k with patterns := m }
    | 4 => raw d.kept.templates 128 fun m => d.modK fun k => { k with templates := m }
    | _ => d.catOp op i acc b

/-- The 128 staged bytes of `TBL_DATA`. -/
def Dev.tblData (d : Dev) : List Byte := ((List.range 32).map fun i => leBytes 4 (d.rd F.TBL_DATA_DATA [i])).flatten

/-- Put bytes read into `TBL_DATA`. -/
def Dev.putTblData (d : Dev) (b : List Byte) : Dev :=
  (List.range (cdiv b.length 4)).foldl (fun d i => d.wr F.TBL_DATA_DATA [i] (ofLe (slice b (4 * i) 4))) d

/-- May a `TBL_CMD` operation run: after SEAL only tenants' commands change entries (R183)? -/
def Dev.sealed (d : Dev) : Bool := d.on F.BOOT_STATUS_SEALED

/-- `TBL_CMD` with `GO` (R158, R181): its number is taken when the register shell performs it. -/
def tblCommand (t op i : Nat) (d : Dev) : Dev :=
  if d.sealed then d
  else
    let d := ((d.wr F.TBL_CMD_INDEX [] i).wr F.TBL_CMD_TABLE [] t).wr F.TBL_CMD_OP [] op
    let (acc, d) := d.number
    let (a, d) := d.tblOp t op i acc d.tblData
    let d := ((d.wr F.TBL_STATUS_CODE [] a.code).wr F.TBL_STATUS_INDEX [] a.index).wr F.TBL_STATUS_NOT_FOUND [] a.missing.toNat
    if op = 2 then d.putTblData a.data else d

/-! ### Indirection (R168, R169) -/

/-- Packets of a bucket in a queue. -/
def inBucket (t i : Nat) (e : QEntry) : Bool := e.bucket == some (t, i)

/-- Does a queue still hold packets of a bucket? -/
def Dev.bucketWaits (d : Dev) (q t i : Nat) : Bool :=
  (d.queue q).items.any (inBucket t i) || (d.queue q).ext.any fun x => inBucket t i x.2

/-- Rewrite one indirection entry: a bucket whose packets still wait for the old ring, or that an earlier move still holds, is on the
move (R169). Bit 6 of an entry is reserved (R8, R168). An entry that was invalid has no ring of its own to wait for. -/
def Dev.moveBucket (d : Dev) (t i v : Nat) : Dev :=
  let old := d.indirEntry t i
  let v := v % 256 - v % 128 + v % 64
  let w := d.rd F.INDIR_ENTRIES [t, i / 4]
  let d := d.wr F.INDIR_ENTRIES [t, i / 4] (insBits w (8 * (i % 4) + 7) (8 * (i % 4)) v)
  let earlier := (d.buckets.filter (Moved.isOf t i)).getLast?
  let oldQ := match bitAt old 7, earlier with
    | false, some b => b.queue
    | _, _ => d.rd F.RING_CFG_B_QUEUE [t, old % 64]
  if old ≠ v ∧ (earlier.isSome ∨ (bitAt old 7 ∧ d.bucketWaits oldQ t i)) then
    { d with buckets := d.buckets ++ [{ tenant := t, bucket := i, queue := oldQ }] }
  else d

/-- Rewrite entries of a tenant's table. -/
def Dev.indirect (d : Dev) (t first : Nat) (l : List Nat) : Dev :=
  let d := d.settleClassify
  ((l.mapIdx fun k v => (first + k, v)).foldl (fun d x => d.moveBucket t x.1 x.2) d)

/-- The first move that is over: the old queue has let go of the bucket, and no earlier move of it is open (R169). `seen` lists the moves
before. -/
def Dev.moveOver (d : Dev) : List Moved → List Moved → Option Moved
  | _, [] => none
  | seen, b :: l =>
    if d.bucketWaits b.queue b.tenant b.bucket || seen.any (Moved.isOf b.tenant b.bucket) then d.moveOver (seen ++ [b]) l else some b

/-- End up to `n` moves, one after another: the packets that a move held may be those that the next move of the bucket waits for. -/
def Dev.endMoves : Nat → Dev → Dev
  | 0, d => d
  | n + 1, d =>
    match d.moveOver [] d.buckets with
    | none => d
    | some b =>
      Dev.endMoves n (b.held.foldl (fun d x => d.deliver x.2.handle x.1 x.2.bucket) { d with buckets := d.buckets.erase b })

/-- Held packets go to their new rings, in order of entry, as soon as the old one has let go of the bucket (R169, R170); a host item's
outcome is that of its push (R402). -/
def Dev.releaseBuckets (d : Dev) : Dev := Dev.endMoves d.buckets.length d

/-! ### Stream filters and meters (R317–R319, R331) -/

/-- A filter write clears `BLOCKED` (R317). -/
def Dev.filterWritten (d : Dev) (f : Nat) : Dev := d.wr F.SF_CTL_BLOCKED [f] 0

/-- A meter write refills both buckets and clears the red latch (R318, R319, R331). -/
def Dev.meterWritten (d : Dev) (m : Nat) : Dev :=
  let c := d.rd F.MTR_CBS_CBS [m] * 8000000
  let e := d.rd F.MTR_EBS_EBS [m] * 8000000
  d.modK fun k => { k with meters := smod k.meters m fun x => { x with c, e, red := false } }

/-- Clear a meter's red latch. -/
def Dev.clearRed (d : Dev) (m : Nat) : Dev := d.modK fun k => { k with meters := smod k.meters m fun x => { x with red := false } }

end Sys2Proof.Machine
end

