-- ==== Sys2Proof/Machine/Helper.lean ====
section
/-! DEFINITION. Helper calls of flow engines and I/O sequencers (R196, R198–R200, R205–R211, R219, R607, R791). The arguments
that a program passes in `G2` to `G7` are operands of the command: R199 does not say which register holds which
(DEDUCED, log entry 27). -/

namespace Sys2Proof.Machine

/-! ### The call -/

/-- What an effect answers: its code, and what `G2` and the registers after it then hold. -/
structure HelperOut where
  code : Nat := 0
  regs : List Word := []
  deriving DecidableEq, Repr, Inhabited

/-- Put results into `G2` and the registers after it. -/
def Core.results : List Word → Nat → Core → Core
  | [], _, k => k
  | w :: r, i, k => Core.results r (i + 1) (if i < 32 then { k with g := sput k.g i w } else k)

/-- `HCALL`: the effect runs to completion, its code goes to `G1` and becomes one that `END` may use (R196, R198). `fe` and
`is` are its costs on an engine and on a sequencer; a helper that a core does not have is program error 0x01 (R215, R219),
and an address that the helper cannot use gives the error that `bad` names. -/
def Dev.helper (d : Dev) (c fe : Nat) (is : Option Nat) (bad : Option Nat) (eff : Dev → HelperOut × Dev) : Dev :=
  if !d.coreBusy c then d
  else
    let k := d.core c
    let cost := if isFe c then some fe else is
    match cost with
    | none => d.programError c (if k.codeLen < k.pc + 4 ∨ k.pc % 4 ≠ 0 then 0x02 else 0x01)
    | some n =>
      if k.codeLen < k.pc + 4 ∨ k.pc % 4 ≠ 0 then d.programError c 0x02
      else
        match bad with
        | some e => d.programError c e
        | none =>
          let (o, d) := eff d
          let d := d.modCore c fun k =>
            { (Core.results o.regs 2 { k with g := sput k.g 1 (BitVec.ofNat 32 o.code) }) with pc := k.pc + 4, codes := k.codes ++ [o.code] }
          d.charge c n

/-- An answer without results. -/
def only (code : Nat) (d : Dev) : HelperOut × Dev := ({ code }, d)

/-- The argument of a helper that its rule puts into `G2` (R345, R348, R483, R607). -/
def Dev.argument (d : Dev) (c : Nat) : Nat := (sget (d.core c).g 2).toNat

/-- Blocks of 32 bytes, a part block counting whole (R199). -/
def per32 (n b : Nat) : Nat := n * cdiv b 32

/-- The handle of the packet of the item that a core runs. -/
def Dev.itemHandle (d : Dev) (c : Nat) : Option Nat := (d.core c).busy.bind (·.handle)

/-- The host item that a core serves. -/
def Dev.itemHost (d : Dev) (c : Nat) : Option HostRef := (d.core c).busy.bind (·.host)

/-- The first transit in which what an item pushes may leave: after the boundary that releases a host item (R396). -/
def Dev.releaseAt (d : Dev) (c : Nat) : Nat := if (d.itemHost c).isSome then d.releaseTransit else 0

/-- The submission point of an engine's key operation: the item's `ACCESSION` (R583). -/
def Dev.itemAcc (d : Dev) (c : Nat) : Nat := match (d.core c).busy with | some it => it.acc | none => 0

/-! ### Builders (R791) -/

def Dev.builder (d : Dev) (c b : Nat) : Builder := sget (d.core c).builders b
def Dev.setBuilder (d : Dev) (c b : Nat) (x : Builder) : Dev := d.modCore c fun k => { k with builders := sput k.builders b x }

/-- Open a builder: it takes a handle, but no cell. -/
def Dev.openBuilder (d : Dev) (c : Nat) (kind : PktKind) : Option (Nat × Dev) :=
  match ([0, 1, 2, 3].find? fun b => !(d.builder c b).opn), d.freeHandle with
  | some b, some h =>
    let d := { d with packets := sput d.packets h { used := true, kind } }
    some (b, d.setBuilder c b { opn := true, handle := h, kind })
  | _, _ => none

/-- Append bytes: cells are taken from the engine's reserve first; nothing is appended where one is missing. -/
def Dev.appendBuilder (d : Dev) (c b : Nat) (bytes : List Byte) : Bool × Dev :=
  let x := d.builder c b
  let n := (x.data ++ bytes).length
  let need := cdiv n 128 - x.cells
  if 9216 < n then (false, d)
  else
    match d.takeCells c need with
    | none => (false, d)
    | some (own, d) =>
      (true, d.setBuilder c b { x with data := x.data ++ bytes, cells := x.cells + need, fromRes := x.fromRes + own })

/-- A builder that holds given bytes. -/
def Dev.buildFrom (d : Dev) (c : Nat) (kind : PktKind) (bytes : List Byte) : HelperOut × Dev :=
  match d.openBuilder c kind with
  | none => only 0x11 d
  | some (b, d') =>
    match d'.appendBuilder c b bytes with
    | (true, d') => ({ code := 0, regs := [BitVec.ofNat 32 b] }, d')
    | (false, _) => only 0x11 d

/-- `PKT_READ` (R199). -/
def hPktRead (c dst off len : Nat) (d : Dev) : Dev :=
  d.helper c (40 + per32 4 len) none (if len = 0 then none else dstBad c dst len) fun d =>
    match d.itemHandle c with
    | none => only 0x12 d
    | some h =>
      let p := d.pkt h
      if 256 < len ∨ p.data.length < off + len then only 0x12 d
      else only 0 (Dev.dmemStore c dst (slice p.data off len) (if len = 0 then d else d.ask c 0x90 (pieces 128 off len)))

/-- `PKT_NEW` (R199, R791): the builder's number is in `G2`. -/
def hPktNew (c : Nat) (kind : PktKind) (d : Dev) : Dev :=
  d.helper c 60 none none fun d =>
    match d.openBuilder c kind with
    | none => only 0x11 d
    | some (b, d) => ({ code := 0, regs := [BitVec.ofNat 32 b] }, d)

/-- `PKT_APPEND` (R199, R791). -/
def hPktAppend (c b src len : Nat) (d : Dev) : Dev :=
  d.helper c (40 + per32 4 len) none (if len = 0 then none else srcBad c src len) fun d =>
    if 3 < b ∨ !(d.builder c b).opn then only 0x12 d
    else
      match d.appendBuilder c b (d.dmemBytes c src len) with
      | (true, d) => only 0 d
      | (false, d) => only 0x11 d

/-- `PKT_COMMIT` (R74, R199, R360, R367, R791): a builder whose push is refused stays as it is; bit 0 of `G2` tells of a lost
stamp (DEDUCED, log entry 69). -/
def hPktCommit (c b q : Nat) (timing : Option Nat) (d : Dev) : Dev :=
  d.helper c 120 none (timing.bind fun a => srcBad c a 32) fun d =>
    let x := d.builder c b
    let blk := timing.bind fun a => timingOf (d.dmemBytes c a 32)
    if 3 < b ∨ !x.opn then only 0x12 d
    else if (match blk with | none => false | some t => !d.timingOk t x.data.length q) then only 0x12 d
    else
      let (acc, d1) := d.number
      let (s, n) := d.stamp 0 d.now
      let p : Packet := { used := true, data := x.data, kind := x.kind, acc, res := c, writer := c, cells := x.cells,
                          fromRes := x.fromRes, transit := d.kept.transit, born := d.now, stampSec := s, stampNs := n, stampAt := d.now,
                          timing := blk }
      let d1 := { d1 with packets := sput d1.packets x.handle p }
      match d1.pushStamped q { handle := x.handle, ready := d.releaseAt c } with
      | (0, lost, d1) =>
        -- a packet that was written out to an extension keeps neither handle nor cells (R99)
        let d1 := if (d1.pkt x.handle).refs = 0 then d1.freePkt x.handle else d1
        ({ code := 0, regs := [if lost then 1 else 0] }, d1.setBuilder c b default)
      | (code, _, _) => only code d

/-- `PKT_FORWARD` (R77, R88, R199): a refused one drops no frame (DESIGN CHOICE, log entry 183). -/
def hPktForward (c q : Nat) (d : Dev) : Dev :=
  d.helper c 80 none none fun d =>
    match d.itemHandle c with
    | none => only 0x12 d
    | some h =>
      let (code, lost, d) := d.pushStamped q { handle := h, ready := d.releaseAt c }
      only code (d.modCore c fun k => { k with busy := k.busy.map fun i => { i with tsLost := i.tsLost || lost } })

/-- `PKT_EDIT` (R161–R166, R199, R791): the 16 bytes of the operation stand in data memory. -/
def hPktEdit (c addr : Nat) (d : Dev) : Dev :=
  let len := match d.itemHandle c with | none => 0 | some h => (d.pkt h).data.length
  d.helper c (90 + per32 4 len) none (srcBad c addr 16) fun d =>
    match d.itemHandle c with
    | none => only 0x12 d
    | some h =>
      let p := d.pkt h
      let ts := p.stampSec * 1000000000 + p.stampNs
      let op (i : Nat) : Nat := byteAt (d.dmemBytes c addr 16) i
      match editOp d.parseCfg ts op { kind := p.kind, data := p.data, templates := d.kept.templates } with
      | none => only 0x12 d
      | some e =>
        let d := d.modK fun k => { k with templates := e.templates }
        match d.storePkt { p with kind := e.kind, data := e.data, asIs := false } with
        | none => only 0x11 d
        | some (h', d) =>
          let d := d.unref h
          only 0 (d.modCore c fun k => { k with busy := k.busy.map fun it => { it with handle := some h' } })

/-- Offset of ACF message `k` of a PDU, its first message at `o` (R139). -/
def acfAt (b : List Byte) (limit : Nat) : Nat → Nat → Option Nat
  | 0, o => if o + 2 ≤ limit ∧ acfLen b o ≠ 0 then some o else none
  | k + 1, o => if o + 2 ≤ limit ∧ acfLen b o ≠ 0 then acfAt b limit k (o + acfLen b o) else none

/-- `ACF_NEXT` (R139, R165, R199): the builder's number is in `G2`. The messages stand where the packet as it now is has them. -/
def hAcfNext (c k : Nat) (d : Dev) : Dev :=
  d.helper c 100 none none fun d =>
    match d.itemHandle c with
    | none => only 0x12 d
    | some h =>
      let p := d.pkt h
      let hs := (parseBytes d.parseCfg p.kind p.data).hdrs
      match lastOff hs hkAvtp, lastOff hs hkAcf with
      | some v, some a =>
        let hl := if byteAt p.data v = 0x05 then 24 else 12
        let n := if byteAt p.data v = 0x05 then ofBe (slice p.data (v + 20) 2) else ofBe (slice p.data (v + 1) 2) % 2048
        match (if k = 0 then none else acfAt p.data (min p.data.length (v + hl + n)) k a).bind (acfPacket p.data) with
        | none => only 0x12 d
        | some (kind, bytes) => d.buildFrom c kind bytes
      | _, _ => only 0x12 d

/-! ### Folios, output commands, events, recorder, Catalogue -/

/-- `FOLIO_PUT` (R199, R246, R249–R251, R396, R791, R792): the frame is a builder's, or the item's packet. -/
def hFolioPut (c : Nat) (builder : Option Nat) (ch k : Nat) (replace : Bool) (d : Dev) : Dev :=
  let frame := match builder with
    | some b => if 3 < b ∨ !(d.builder c b).opn then none else some ((d.builder c b).kind, (d.builder c b).data)
    | none => (d.itemHandle c).map fun h => ((d.pkt h).kind, (d.pkt h).data)
  let data := match frame with | some (_, x) => (canOfBytes x).data.length | none => 0
  d.helper c (150 + per32 4 data) none none fun d =>
    match frame with
    | none => only 0x12 d
    | some (kind, bytes) =>
      if 24 ≤ ch ∨ 64 ≤ k then only 0x12 d
      else
      let d := d.ask c (canPart ch)
      if !d.gateOpen (canPart ch) then only 0x20 (d.absent (canPart ch))
      else
        let (code, d') := d.folioPut ch k 0 c replace kind bytes none (d.itemAcc c)
        only code (if code = 0 ∧ (d.itemHost c).isSome then d'.holdFolio ch k else d')

/-- `FOLIO_STATE` (R199): state in `G2`, last status in `G3`. -/
def hFolioState (c ch k : Nat) (d : Dev) : Dev :=
  d.helper c 60 none none fun d =>
    if 24 ≤ ch ∨ 64 ≤ k then only 0x12 d
    else
    let d := d.ask c (canPart ch)
    if !d.gateOpen (canPart ch) then only 0x20 (d.absent (canPart ch))
    else ({ code := 0, regs := [BitVec.ofNat 32 (d.folio ch k).st, BitVec.ofNat 32 (d.folio ch k).last] }, d)

/-- `OUT_CMD` (R199, R219, R496, R497): the 28-byte block stands in data memory. -/
def hOutCmd (c : Nat) (d : Dev) : Dev :=
  let addr := d.argument c
  d.helper c 90 (some 30) (srcBad c addr 28) fun d =>
    let b := outBlock (d.dmemBytes c addr 28)
    let (code, d) := (if b.channel < 72 then d.ask c (0x70 + chanDie b.channel) else d).outCmd b (.core c)
    only code d

/-- `EVENT` (R199, R219, R418, R791): 16 program bytes to a tenant's event ring. -/
def hEvent (c tenant addr : Nat) (d : Dev) : Dev :=
  d.helper c 80 (some 30) (srcBad c addr 16) fun d =>
    let room := d.eventRoom (tenant % 16)
    let fl := match (d.core c).busy with
      | some it => d.itemFlags it.transit (match it.handle with | some h => (d.pkt h).companion | none => false)
      | none => 0
    only (if room then 0 else 0x11) (d.event (tenant % 16) 0x001C 0 c (detail16 (d.dmemBytes c addr 16)) fl)

/-- `REC_TRIGGER` (R111–R115, R199, R219): the span's index is in `G2`. -/
def hRecTrigger (c : Nat) (d : Dev) : Dev :=
  d.helper c 60 (some 20) none fun d =>
    let (code, span, d) := (d.ask c 0x96).trigger 1
    ({ code, regs := [BitVec.ofNat 32 span] }, d)

/-- `CAT_READ` (R199): it is not the read of R177. -/
def hCatRead (c i dst : Nat) (d : Dev) : Dev :=
  d.helper c 70 none (dstBad c dst 64) fun d => only 0 (Dev.dmemStore c dst (catBytes (d.cat i)) (d.ask c 0x7E))

/-! ### Cipher operations and message authentication (R200, R205–R208, R607, R608) -/

/-- The wait W of R200: the largest `CIPHER_MAX` of the other three engines of the pipeline. -/
def Dev.cipherWait (d : Dev) (c : Nat) : Nat :=
  let m := ((List.range 16).filter fun e => e % 4 == c % 4 && e != c).foldl (fun m e => max m (d.core e).image.col.cipherMax) 0
  60 + 3 * (60 + m)

/-- `CIPHER` (R607, R608). -/
def hCipher (c : Nat) (sr : Strongroom) (d : Dev) : Dev :=
  let addr := d.argument c
  let blk := d.dmemBytes c addr 16
  let q : CipherReq := { op := byteAt blk 0, mode := byteAt blk 1, length := ofLe (slice blk 4 2), aadLen := ofLe (slice blk 6 2),
                         tagLen := byteAt blk 8, ivLen := byteAt blk 9 }
  let h := ofLe (slice blk 2 2)
  let buf := ofLe (slice blk 12 4)
  let b := q.aadLen + q.length
  let size := q.ivLen + b + q.tagLen
  let tooBig := decide (512 < b) || decide ((d.core c).image.col.cipherMax < b)
  d.helper c (120 + (if tooBig then 0 else b) + d.cipherWait c) none
    ((srcBad c addr 16).or (if tooBig ∨ !q.ok then none else dstBad c buf (max 1 size))) fun d =>
    if tooBig ∨ !q.ok then only 0x12 d
    else
      let d := d.ask c (0x8C + c % 4)
      match d.useKey sr h (d.itemAcc c) q.need (d.egrant c h) true with
      | .error code => only code d
      | .ok k =>
        let d := d.bump F.ENGINE_BLOCKS_COUNT [c % 4] q.blocks
        match q.run k.aesKey (d.dmemBytes c buf size) with
        | none => only 0x51 d
        | some (data, tag) => only 0 (Dev.dmemStore c (buf + q.ivLen + q.aadLen) (data ++ tag) d)

/-- The fields of the parameter block of `MAC_TX` and `MAC_RX` (R205). -/
structure MacBlk where
  cat : Nat := 0
  key : Nat := 0
  dataId : Nat := 0
  fvBits : Nat := 0
  macBits : Nat := 0
  window : Nat := 0
  len : Nat := 0
  deriving DecidableEq, Repr, Inhabited

def macBlk (b : List Byte) : MacBlk :=
  { cat := ofLe (slice b 0 2), key := ofLe (slice b 2 2), dataId := ofLe (slice b 4 2), fvBits := byteAt b 6,
    macBits := byteAt b 7, window := ofLe (slice b 8 4), len := ofLe (slice b 12 2) }

/-- Are the block's values in range? -/
def MacBlk.ok (m : MacBlk) : Bool :=
  decide (m.fvBits ≤ 32) && decide (24 ≤ m.macBits) && decide (m.macBits ≤ 128) && m.macBits % 8 == 0

/-- Bytes of the trailer. -/
def MacBlk.trailer (m : MacBlk) : Nat := cdiv (m.fvBits + m.macBits) 8

/-- The truncated MAC as a number (R205). -/
def macValue (m : MacBlk) (key payload : List Byte) (fv : Nat) : Nat :=
  ofBe ((cmac key (beBytes 2 m.dataId ++ payload ++ beBytes 4 fv)).take (m.macBits / 8))

/-- The trailer's bytes: freshness bits, MAC, zero bits up to a byte boundary. -/
def trailerBytes (m : MacBlk) (fv mac : Nat) : List Byte :=
  let v := (fv % 2 ^ m.fvBits * 2 ^ m.macBits + mac) * 2 ^ (8 * m.trailer - (m.fvBits + m.macBits))
  beBytes m.trailer v

/-- May an engine use a handle for authentication: `BULK`, the usage, its grant, and the slot's bits in force (R600, R608)? -/
def Dev.macKey (d : Dev) (sr : Strongroom) (c need : Nat) (m : MacBlk) : Except Nat KeySlot :=
  d.useKey sr m.key (d.itemAcc c) need (d.egrant c m.key) true

/-- `MAC_TX` (R205, R207): the payload stands at `buf`. -/
def hMacTx (c addr buf : Nat) (sr : Strongroom) (d : Dev) : Dev :=
  let m := macBlk (d.dmemBytes c addr 16)
  let b := m.len + 6
  d.helper c (180 + b + d.cipherWait c) none
    ((srcBad c addr 16).or (if m.ok then dstBad c buf (max 1 (m.len + m.trailer)) else none)) fun d =>
    if !m.ok ∨ (d.core c).image.col.cipherMax < b then only 0x12 d
    else
      let d := d.ask c (0x8C + c % 4)
      match d.macKey sr c useMacGen m with
      | .error code => only code d
      | .ok k =>
        let e := d.cat m.cat
        if e.freshTx = 0xFFFFFFFF then only 0x12 d
        else
          let fv := e.freshTx + 1
          let d := d.bump F.ENGINE_BLOCKS_COUNT [c % 4] (cdiv b 16)
          let d := if (sget d.marks m.cat).txMark ≤ fv then { d with marks := smod d.marks m.cat fun l => { l with txMark := min 0xFFFFFFFF (fv + 256) } } else d
          let d := d.modCat m.cat fun e => { e with freshTx := fv }
          only 0 (Dev.dmemStore c (buf + m.len) (trailerBytes m fv (macValue m k.aesKey (d.dmemBytes c buf m.len) fv)) d)

/-- The candidate freshness value of a received trailer (R206). -/
def candidate (m : MacBlk) (rx got : Nat) : Nat :=
  if m.fvBits = 32 then got
  else
    let c := rx / 2 ^ m.fvBits * 2 ^ m.fvBits + got
    if c ≤ rx then c + 2 ^ m.fvBits else c

/-- `MAC_RX` (R206, R207): the message stands in data memory or in the packet window. -/
def hMacRx (c addr buf : Nat) (sr : Strongroom) (d : Dev) : Dev :=
  let m := macBlk (d.dmemBytes c addr 16)
  let b := m.len + 6
  d.helper c (180 + b + d.cipherWait c) none
    ((srcBad c addr 16).or (if m.ok then msgBad c buf (max 1 (m.len + m.trailer)) else none)) fun d =>
    if !m.ok ∨ m.window = 0 ∨ 2 ^ 31 < m.window ∨ (d.core c).image.col.cipherMax < b then only 0x12 d
    else
      let d := d.ask c (0x8C + c % 4)
      match d.macKey sr c useMacVerify m with
      | .error code => only code d
      | .ok k =>
        let rx := (d.cat m.cat).freshRx
        let bits := 8 * m.trailer
        let t := ofBe (d.loadBytes c (buf + m.len) m.trailer)
        let got := t / 2 ^ (bits - m.fvBits)
        let mac := t / 2 ^ (bits - m.fvBits - m.macBits) % 2 ^ m.macBits
        let cand := candidate m rx got
        let d := d.bump F.ENGINE_BLOCKS_COUNT [c % 4] (cdiv b 16)
        if cand ≤ rx ∨ m.window < cand - rx ∨ 2 ^ 32 ≤ cand then only 0x51 d
        else if macValue m k.aesKey (d.loadBytes c buf m.len) cand ≠ mac then only 0x51 d
        else
          let d := if (sget d.marks m.cat).rxMark < cand then { d with marks := smod d.marks m.cat fun l => { l with rxMark := min 0xFFFFFFFF (cand + 255) } } else d
          only 0 (d.modCat m.cat fun e => { e with freshRx := cand })

/-! ### J1939 transport (R209–R211). The frames of the protocol are those of SAE J1939-21 (PRESUMED, log entry 28). -/

def Dev.tp (d : Dev) (c x : Nat) : TpCtx := sget (d.core c).ctx x

/-- Change a context; `TP_USE` shows the number open (R224). -/
def Dev.setTp (d : Dev) (c x : Nat) (t : TpCtx) : Dev :=
  let d := d.modCore c fun k => { k with ctx := sput k.ctx x t }
  if isFe c then d.wr F.FLOW_TP_USE_OPEN [c] ((d.core c).ctx.filter fun e => e.2.used).length else d

/-- A 29-bit identifier (R209). -/
def j1939Id (prio pgn dst src : Nat) : Nat :=
  let pf := pgn / 256 % 256
  prio % 8 * 2 ^ 26 + (if pf < 240 then pgn / 256 * 65536 + dst % 256 * 256 else pgn % 2 ^ 18 * 256) + src % 256

/-- A CAN packet of eight data bytes. -/
def j1939Frame (id : Nat) (data : List Byte) : List Byte :=
  pseudoOf { id, ide := true, dlc := data.length, len := data.length } ++ data

/-- `TP_OPEN` (R211): the context's number is in `G2` (DEDUCED, log entry 68). -/
def hTpOpen (c : Nat) (t : TpCtx) (d : Dev) : Dev :=
  d.helper c 60 none none fun d =>
    if 9208 < t.size then only 0x12 d
    else
      match (List.range 64).find? fun x => !(d.tp c x).used with
      | none => only 0x11 d
      | some x =>
        let t := { t with used := true, next := 1, window := 1, deadline := d.kept.transit + t.span, data := List.replicate t.size 0xFF#8 }
        ({ code := 0, regs := [BitVec.ofNat 32 x] }, d.setTp c x t)

/-- Sequence number that a data frame's first byte names: extended sessions count from the window's start (R211). -/
def TpCtx.seqOf (t : TpCtx) (b : Nat) : Nat := if t.mode = 2 then t.window - 1 + b else b

/-- `TP_DATA` (R210, R211): a repeated frame of the current window overwrites its earlier copy. -/
def hTpData (c x : Nat) (d : Dev) : Dev :=
  d.helper c 70 none none fun d =>
    match d.itemHandle c with
    | none => only 0x12 d
    | some h =>
      let p := d.pkt h
      let f := canOfBytes p.data
      let t := d.tp c x
      let seq := t.seqOf (byteAt f.data 0)
      let pf := if t.mode = 2 then 0xC7 else 0xEB
      let mine := t.used && !t.tx && p.kind == .can && f.ide && f.data.length == 8 && f.id / 65536 % 256 == pf &&
        f.id % 256 == t.src && f.id / 256 % 256 == t.dst
      let again := decide (t.mode ≠ 0) && decide (t.window ≤ seq) && decide (seq < t.next)
      if !mine ∨ (seq ≠ t.next ∧ !again) ∨ t.count < seq then ({ code := 0x12, regs := [0, BitVec.ofNat 32 t.next] }, d)
      else
        let t := { t with data := patch t.data (7 * (seq - 1)) (f.data.drop 1), next := max t.next (seq + 1), deadline := d.kept.transit + t.span }
        ({ code := 0, regs := [if t.count < t.next then 1 else 0] }, d.setTp c x t)

/-- `TP_CLOSE` (R209, R211): the builder's number is in `G2`. -/
def hTpClose (c x : Nat) (d : Dev) : Dev :=
  d.helper c 90 none none fun d =>
    let t := d.tp c x
    if !t.used ∨ t.tx ∨ t.next ≤ t.count then only 0x12 d
    else
      let f : CanFrame := { id := j1939Id t.prio t.pgn t.dst t.src, ide := true, dlc := 0xFF, len := t.size }
      match d.buildFrom c .can (pseudoOf f ++ t.data) with
      | (⟨0, r⟩, d) => (⟨0, r⟩, d.setTp c x default)
      | (o, d) => (o, d)

/-- The eight bytes of a connection-management frame of a session (SAE J1939-21). `n` is the packets that a CTS clears or a
DPO covers, or the reason of an Abort. -/
def tpControl (t : TpCtx) (k : TpReplyKind) (n : Nat) : List Byte :=
  let pgn := leBytes 3 t.pgn
  let ext := t.mode == 2
  match k with
  | .cts => if ext then [0x15, BitVec.ofNat 8 n] ++ leBytes 3 t.next ++ pgn else [0x11, BitVec.ofNat 8 n, BitVec.ofNat 8 t.next, 0xFF, 0xFF] ++ pgn
  | .endOfMsgAck => if ext then [0x17] ++ leBytes 4 t.size ++ pgn else [0x13] ++ leBytes 2 t.size ++ [BitVec.ofNat 8 t.count, 0xFF] ++ pgn
  | .dpo => [0x16, BitVec.ofNat 8 n] ++ leBytes 3 (t.next - 1) ++ pgn
  | .abort => [0xFF, BitVec.ofNat 8 n, 0xFF, 0xFF, 0xFF] ++ pgn

/-- `TP_REPLY` (R211): a CTS or a DPO opens a new window at the number expected next; the builder's number is in `G2`. -/
def hTpReply (c x : Nat) (kind : TpReplyKind) (n : Nat) (d : Dev) : Dev :=
  d.helper c 80 none none fun d =>
    let t := d.tp c x
    if !t.used then only 0x12 d
    else
      let pgn := if t.mode = 2 then 0xC800 else 0xEC00
      let frm := if t.tx then t.src else t.dst
      let peer := if t.tx then t.dst else t.src
      match d.buildFrom c .can (j1939Frame (j1939Id 7 pgn peer frm) (tpControl t kind n)) with
      | (⟨0, r⟩, d) => (⟨0, r⟩, if kind = .cts ∨ kind = .dpo then d.setTp c x { t with window := t.next } else d)
      | (o, d) => (o, d)

/-- Commit one data frame of a transmit context: number, handle, cells and push together (R74). -/
def Dev.commitFrame (d : Dev) (c q ready : Nat) (bytes : List Byte) : Option Dev :=
  let (acc, d1) := d.number
  let (s, n) := d.stamp 0 d.now
  match d1.storePkt { data := bytes, kind := .can, acc, res := c, writer := c, transit := d.kept.transit, born := d.now, stampSec := s, stampNs := n, stampAt := d.now } with
  | none => none
  | some (h, d1) =>
    match d1.push q { handle := h, ready } with
    | (0, d1) => some (d1.unref h)
    | _ => none

/-- Commit frames of a transmit context one by one, until one is refused; answers how many. -/
def Dev.segment (c x q ready : Nat) : Nat → Nat → Dev → Nat × Dev
  | 0, done, d => (done, d)
  | m + 1, done, d =>
    let t := d.tp c x
    if t.count < t.next then (done, d)
    else
      let pgn := if t.mode = 2 then 0xC700 else 0xEB00
      let part := (t.data.drop (7 * (t.next - 1))).take 7
      let seq := if t.mode = 2 then t.next - (t.window - 1) else t.next
      let body := [BitVec.ofNat 8 seq] ++ part ++ List.replicate (7 - part.length) 0xFF#8
      match d.commitFrame c q ready (j1939Frame (j1939Id 7 pgn t.dst t.src) body) with
      | none => (done, d)
      | some d => Dev.segment c x q ready m (done + 1) (d.setTp c x { t with next := t.next + 1 })

/-- `TP_SEGMENT` (R211): the message of a transmit context stands in data memory at `src`; `G2` holds the frames
committed. -/
def hTpSegment (c x n src q : Nat) (d : Dev) : Dev :=
  let t := d.tp c x
  let n := min 16 (min n (t.count + 1 - t.next))
  d.helper c (60 + 120 * n) none (if t.size = 0 then none else srcBad c src t.size) fun d =>
    if !t.used ∨ !t.tx then only 0x12 d
    else
      let (done, d) := Dev.segment c x q (d.releaseAt c) n 0 (d.setTp c x { t with data := d.dmemBytes c src t.size })
      ({ code := if done = n then 0 else 0x11, regs := [BitVec.ofNat 32 done] }, d)

/-- `TP_ABORT` (R211). -/
def hTpAbort (c x : Nat) (d : Dev) : Dev := d.helper c 40 none none fun d => only 0 (d.setTp c x default)

/-- The deadline of a context has passed at a boundary (R210). -/
def tpExpired (c x : Nat) (d : Dev) : Dev :=
  let t := d.tp c x
  if t.used ∧ t.deadline < d.kept.transit then (d.setTp c x default).bump F.TP_EXPIRED_COUNT [c] else d

/-! ### Time (R199, R345–R348, R676) -/

/-- `TIME_NOW` (R199, R219, R348) of the domain in `G2`: nanoseconds, sub-nanoseconds and seconds in `G2` to `G5` (DESIGN CHOICE, log entry
134). A number above 3 names no domain and is answered as one in OFF (DESIGN CHOICE, log entry 165) (DESIGN CHOICE, log entry 134). -/
def hTimeNow (c : Nat) (d : Dev) : Dev :=
  let dom := d.argument c
  d.helper c 30 (some 10) none fun d =>
    if 4 ≤ dom ∨ !d.tdRuns dom then only 0x20 d
    else
      let (s, n, sub) := splitTime (d.timeAt dom d.now)
      ({ code := 0, regs := [BitVec.ofNat 32 n, BitVec.ofNat 32 sub, BitVec.ofNat 32 s, BitVec.ofNat 32 (s / 2 ^ 32)] }, d.ask c 0x91)

/-- `SYNC_FEED` (R345): on a SHADOW unit it changes nothing (R676). -/
def hSyncFeed (c : Nat) (d : Dev) : Dev :=
  let addr := d.argument c
  d.helper c 120 none (srcBad c addr 40) fun d =>
    if d.shadow then only 0 d
    else
      let (code, d) := (d.ask c 0x91).syncFeed (d.dmemBytes c addr 40)
      only code d

end Sys2Proof.Machine
end

