-- ==== Sys2Proof/Machine/ImageForm.lean ====
section
/-! DEFINITION. The bytes of an image: colophon, core image, almanac, configuration records and calibration entries (R41, R220,
R221, R511, R699). -/

namespace Sys2Proof.Machine

/-- Field of `k` bytes at offset `o`, little-endian (R220). -/
def fieldAt (b : List Byte) (o k : Nat) : Nat := ofLe ((b.drop o).take k)

/-- The colophon in the first 128 bytes of an image, with what its checks compare: the CRC-32 of the body and the SHA-256 digest that is
signed (R220, R222). A body that ends before `BODY_LEN` has no correct CRC (DEDUCED, log entry 111). -/
def colophonOf (b : List Byte) : Colophon :=
  let len := fieldAt b 24 4
  let body := (b.drop 128).take len
  { magicOk := fieldAt b 0 4 == 0x4F4C4F43
    formatOk := fieldAt b 4 1 == 1
    kind := fieldAt b 5 1
    target := fieldAt b 6 1
    any := bitAt (fieldAt b 7 1) 0
    version := fieldAt b 8 4
    provides := fieldAt b 12 2
    requires := fieldAt b 14 2
    configId := fieldAt b 16 8
    bodyLen := len
    bodyCrc := fieldAt b 28 4
    crcOk := body.length == len && crc32 body == fieldAt b 28 4
    codeLen := fieldAt b 32 4
    initLen := fieldAt b 36 4
    persistLines := fieldAt b 40 2
    dispatchCount := fieldAt b 42 2
    svFirst := fieldAt b 44 2
    svCount := fieldAt b 46 2
    cipherMax := fieldAt b 48 2
    signer := fieldAt b 50 2
    digest := sha256 (b.take 64 ++ body)
    signature := (b.drop 64).take 64 }

/-- A byte string in pieces of `k` bytes, the first `n` of them. -/
def piecesOf (k : Nat) : Nat → List Byte → List (List Byte)
  | 0, _ => []
  | n + 1, b => b.take k :: piecesOf k n (b.drop k)

/-- The dispatch table: 8 bytes an entry, `ENTRY_ID` and the entry address (R221). -/
def dispatchOf (n : Nat) (b : List Byte) : List (Nat × Nat) :=
  (piecesOf 8 n b).map fun e => (fieldAt e 0 2, fieldAt e 4 4)

/-- One entry of an almanac image (R41). -/
def almEntryOf (b : List Byte) : AlmEntry :=
  { id := fieldAt b 0 2
    kind := fieldAt b 2 1
    resource := fieldAt b 3 1
    cls := fieldAt b 4 1 % 4
    owner := fieldAt b 5 1 % 16
    period := fieldAt b 6 2
    phase := fieldAt b 8 2
    winOpen := fieldAt b 10 2
    winClose := fieldAt b 12 2
    bound := fieldAt b 14 2
    span := fieldAt b 16 2
    carry := fieldAt b 18 2
    costItem := fieldAt b 20 4
    costFixed := fieldAt b 24 4
    trigger := fieldAt b 28 4 }

/-- Are the reserved bits of an entry 0 (R41)? -/
def almRsvOk (b : List Byte) : Bool := fieldAt b 4 1 < 4 && fieldAt b 5 1 < 16

/-- An almanac image: its header of 16 bytes and as many whole entries as `ENTRY_COUNT` says and the image has (R41). -/
def almanacOf (b : List Byte) : Almanac :=
  let count := fieldAt b 6 2
  let l := piecesOf 32 (min count ((b.length - 16) / 32)) (b.drop 16)
  { magic := fieldAt b 0 4
    len := fieldAt b 4 1
    format := fieldAt b 5 1
    count
    hyper := fieldAt b 8 4
    bytesLen := b.length
    reservedOk := fieldAt b 12 4 == 0 && l.all almRsvOk
    entries := l.map almEntryOf }

/-- The records of a configuration image, 12 bytes each (R699). -/
def recordsOf (b : List Byte) : List CfgRecord :=
  (piecesOf 12 (b.length / 12) b).map fun r =>
    { offset := fieldAt r 0 4, value := BitVec.ofNat 32 (fieldAt r 4 4), mask := BitVec.ofNat 32 (fieldAt r 8 4) }

/-- The entries of a calibration image: local index and the word of `CH_CAL`, `GAIN` above `OFFSET` (R511). -/
def calOf (b : List Byte) : List (Nat × Nat) :=
  ((piecesOf 8 36 b).zipIdx).map fun e => (e.2, fieldAt e.1 0 2 * 65536 + fieldAt e.1 2 2)

/-- The body by the colophon's kind; none where its length is not that of its parts (DEDUCED, log entry 111). -/
def bodyOf (c : Colophon) (b : List Byte) : ImageBody :=
  if c.kind = 1 ∨ c.kind = 2 then
    if b.length = c.codeLen + c.initLen + 8 * c.dispatchCount then
      .core (b.take c.codeLen) ((b.drop c.codeLen).take c.initLen) (dispatchOf c.dispatchCount (b.drop (c.codeLen + c.initLen)))
    else .none
  else if c.kind = 3 then .almanac (almanacOf b)
  else if 4 ≤ c.kind ∧ c.kind ≤ 6 then if b.length % 12 = 0 then .config (recordsOf b) else .none
  else if c.kind = 7 then if b.length = 288 then .calibration (calOf b) else .none
  else .none

/-- The image that bytes spell (R220, R221). -/
def imageOf (b : List Byte) : Image :=
  let c := colophonOf b
  { col := c, body := bodyOf c ((b.drop 128).take c.bodyLen) }

end Sys2Proof.Machine
end

