-- ==== Sys2Proof/Machine/Lin.lean ====
section
/-! DEFINITION. LIN channels: frame buffers, master schedules, slave answers, responses and errors (R266–R279, R281). -/

namespace Sys2Proof.Machine

/-- Resource code and part number of a LIN channel. -/
def linPart (ch : Nat) : Nat := 0x60 + ch

def Dev.linCh (d : Dev) (ch : Nat) : LinCh := sget d.lin ch
def Dev.modLin (d : Dev) (ch : Nat) (f : LinCh → LinCh) : Dev := { d with lin := smod d.lin ch f }
def Dev.lpos (d : Dev) (ch : Nat) : LinPos := sget d.kept.linPos ch
def Dev.modPos (d : Dev) (ch : Nat) (f : LinPos → LinPos) : Dev :=
  d.modK fun k => { k with linPos := smod k.linPos ch f }

/-- A frame buffer. -/
def Dev.linBuf (d : Dev) (ch id : Nat) : LinBuf := sget (d.linCh ch).bufs id

/-- Is the channel on? A frame that it has on the wire completes, whatever its gate (R716). -/
def Dev.linOn (d : Dev) (ch : Nat) : Bool := d.routes && d.on F.LIN_CFG_ENABLE [ch]

/-- Does the channel hear its bus: on, its gate not closed? The silent channel of a unit that does not drive does (R265, R660). -/
def Dev.linListens (d : Dev) (ch : Nat) : Bool := d.linOn ch && decide ((d.gate (linPart ch)).st ≠ 2)

/-- May the channel send, too: it is not that of the quiet unit of a pair (R265)? -/
def Dev.linRuns (d : Dev) (ch : Nat) : Bool := d.linListens ch && !d.quiet

/-- A master's break, 13 + `BREAK` bit times with a delimiter of one, and header (R271). -/
def Dev.linHead (d : Dev) (ch id : Nat) : Dev := d.emit (.linHeader ch (linPid id) (13 + d.rd F.LIN_CFG_BREAK [ch]))

/-- Role of an identifier, 0 ignore, 1 publish, 2 subscribe. -/
def Dev.linRole (d : Dev) (ch id : Nat) : Nat := d.rd F.LIN_FRAME_ROLE [ch, id]

/-- Data length of an identifier. -/
def Dev.linLen (d : Dev) (ch id : Nat) : Nat := d.rd F.LIN_FRAME_LENGTH [ch, id]

/-- The checksum of a response (ISO 17987): inverted sum with end-around carry, over the protected identifier too for the
enhanced model; frames 0x3C and 0x3D always use the classic one (R266). -/
def linChecksum (pid : Nat) (data : List Byte) (enhanced : Bool) : Nat :=
  let add (a b : Nat) : Nat := if 255 < a + b then a + b - 255 else a + b
  255 - (data.foldl (fun a b => add a b.toNat) (if enhanced then pid else 0))

def Dev.linSum (d : Dev) (ch id : Nat) (data : List Byte) : Nat :=
  linChecksum (linPid id) data (d.on F.LIN_FRAME_ENHANCED [ch, id] && id != 0x3C && id != 0x3D)

/-- The bytes of a response on the bus, at the measured bit time for a slave (R275); a silent channel leaves them to its companion
(R265, R660). -/
def Dev.linSend (d : Dev) (ch id : Nat) (data : List Byte) (bit : Option Nat) : Dev :=
  if d.quiet then d else d.emit (.linData ch data (d.linSum ch id data) bit)

/-- Does a frame of a slave that answers for `id` carry its response-error bit, from byte `frm` of its data on (R277)? -/
def Dev.linCarries (d : Dev) (ch id frm : Nat) : Bool :=
  d.on F.LIN_RESPERR_VALID [ch] && d.rd F.LIN_RESPERR_FRAME [ch] == id && !d.on F.LIN_CFG_ROLE [ch] &&
    decide (frm ≤ d.rd F.LIN_RESPERR_BIT [ch] / 8 ∧ d.rd F.LIN_RESPERR_BIT [ch] / 8 < d.linLen ch id)

/-- The response-error bit put into data that carries it. -/
def Dev.putRespErr (d : Dev) (ch : Nat) (data : List Byte) : List Byte :=
  let bit := d.rd F.LIN_RESPERR_BIT [ch]
  data.mapIdx fun i x => if i = bit / 8 then BitVec.ofNat 8 (insBits x.toNat (bit % 8) (bit % 8) (d.linCh ch).respErr.toNat) else x

/-- The data that the channel sends for an identifier: its buffer, with the response-error bit of a slave (R269, R277). -/
def Dev.linData (d : Dev) (ch id : Nat) : List Byte :=
  let b := slice (d.linBuf ch id).data 0 (d.linLen ch id)
  if d.linCarries ch id 0 then d.putRespErr ch b else b

/-- Publish a response after its header: the buffer is copied and its updated mark cleared (R269). A silent channel does the same
beside its companion, and sends nothing (R265, R674) (DEDUCED, log entry 104). -/
def Dev.linPublish (d : Dev) (ch id brk : Nat) (bit : Option Nat) : Dev :=
  let data := d.linData ch id
  let d := d.modLin ch fun c =>
    { c with bufs := smod c.bufs id fun b => { b with updated := false }, cur := some { id, publish := true, brk, data, sum := d.linSum ch id data, carries := d.linCarries ch id 0 } }
  d.linSend ch id data bit

/-- Await a response. -/
def Dev.linAwait (d : Dev) (ch id brk : Nat) (event : Option Nat) : Dev :=
  d.modLin ch fun c => { c with cur := some { id, event, brk } }

/-- No response belongs to the slot or header. -/
def Dev.linNone (d : Dev) (ch : Nat) : Dev := d.modLin ch fun c => { c with cur := none }

/-- A master's go-to-sleep frame that is due goes out once its bus is free (R274, R540). -/
def Dev.goToSleep (d : Dev) (ch : Nat) : Dev :=
  if (d.linCh ch).sleepDue && (d.linCh ch).cur.isNone then
    let data := 0 :: List.replicate 7 0xFF
    ((d.linHead ch 0x3C).emit (.linData ch data (d.linSum ch 0x3C data) none)).modLin ch fun c => { c with sleepDue := false }
  else d

/-! ### Errors of a response (R277, R278) -/

/-- The response-error bit of a slave is set (R277). -/
def Dev.linRespErr (d : Dev) (ch : Nat) : Dev :=
  if d.on F.LIN_RESPERR_VALID [ch] && !d.on F.LIN_CFG_ROLE [ch] then d.modLin ch fun c => { c with respErr := true } else d

/-- An event-triggered response with an error is a collision: the resolving table runs at the end of the slot (R272, R273). -/
def Dev.linCollide (d : Dev) (ch : Nat) (event : Option Nat) : Dev :=
  match event with
  | none => d
  | some t => (d.bump F.LIN_EVT_COLLISION_COUNT [ch]).modPos ch fun p => { p with resolve := some t }

/-- A response that is still awaited when a slot or a header begins has not come; where several may answer, none need (R272, R278). -/
def Dev.linLapse (d : Dev) (ch : Nat) : Dev :=
  match (d.linCh ch).cur with
  | none => d
  | some s => if s.heading || s.publish || s.event.isSome then d.linNone ch else (d.linNone ch).bump F.LIN_NO_RESP_COUNT [ch]

/-! ### Master schedules (R271–R274) -/

/-- Entries of a table, and its first entry; an invalid table has none. -/
def Dev.linTable (d : Dev) (ch t : Nat) : Nat × Nat :=
  if d.on F.LIN_TABLE_VALID [ch, t] then (d.rd F.LIN_TABLE_FIRST [ch, t], d.rd F.LIN_TABLE_COUNT [ch, t]) else (0, 0)

/-- Go on at an index of a table: past its end, a resolving run returns to the table that it interrupted, and any other begins
again (R273). Answers the table, the index and the returns still open. -/
def Dev.linGoOn (d : Dev) (ch t i : Nat) : List (Nat × Nat) → Nat × Nat × List (Nat × Nat)
  | [] => (t, if (d.linTable ch t).2 ≤ i then 0 else i, [])
  | b :: r => if (d.linTable ch t).2 ≤ i then d.linGoOn ch b.1 b.2 r else (t, i, b :: r)

/-- The table that runs when no collision is being resolved. -/
def Dev.linBase (d : Dev) (ch : Nat) : Nat :=
  match (d.lpos ch).back.getLast? with
  | some b => b.1
  | none => d.rd F.LIN_SCHED_ACTIVE [ch]

/-- The end of a slot: a table switch, a collision-resolving run and its return, or the next entry (R273, R274). A collision inside
a resolving run interrupts that run in turn. Answers the table and the index of the next slot. -/
def Dev.linNext (d : Dev) (ch : Nat) : Nat × Nat × LinPos :=
  let p := d.lpos ch
  let act := d.rd F.LIN_SCHED_ACTIVE [ch]
  let next := if p.started then p.index + 1 else p.index
  match p.req with
  | some t => (t, 0, { p with started := true, index := 0, req := none, resolve := none, back := [] })
  | none =>
    let (t, i, back) := d.linGoOn ch act next p.back
    match p.resolve with
    | some k =>
      if (d.linTable ch k).2 = 0 then (t, i, { p with started := true, index := i, resolve := none, back })
      else (k, 0, { p with started := true, index := 0, resolve := none, back := (t, i) :: back })
    | none => (t, i, { p with started := true, index := i, back })

/-- The updated frame of a sporadic group with the lowest identifier (R272). -/
def Dev.sporadic (d : Dev) (ch group : Nat) : Option Nat :=
  (List.range 64).find? fun i =>
    d.linRole ch i == 1 && d.on F.LIN_FRAME_SPORADIC [ch, i] && d.rd F.LIN_FRAME_GROUP [ch, i] == group && (d.linBuf ch i).updated

/-- Send break and header of an identifier: its response follows once the header is complete (R269). -/
def Dev.linHeaderOut (d : Dev) (ch id : Nat) (publish : Bool) (event : Option Nat) : Dev :=
  (d.linHead ch id).modLin ch fun c => { c with cur := some { heading := true, id, publish, event, brk := d.now } }

/-- The slot of a schedule entry (R272). -/
def Dev.linSlotKind (d : Dev) (ch e : Nat) : Dev :=
  let id := d.rd F.LIN_ENTRY_FRAME [ch, e]
  match d.rd F.LIN_ENTRY_KIND [ch, e] with
  | 0 =>
    match d.linRole ch id with
    | 0 => (d.linHead ch id).linNone ch
    | role => d.linHeaderOut ch id (role == 1) none
  | 1 => d.linHeaderOut ch id false (some (d.rd F.LIN_ENTRY_RESOLVE [ch, e]))
  | 2 =>
    match d.sporadic ch (id % 16) with
    | some i => d.linHeaderOut ch i true none
    | none => d.linNone ch
  | 3 => if (d.linBuf ch 0x3C).updated then d.linHeaderOut ch 0x3C true none else d.linNone ch
  | 4 => d.linHeaderOut ch 0x3D false none
  | _ => d.linNone ch

/-- A master's slot starts at a boundary, its break within 2 µs of it (R271): the schedule runs, and the slot before it is over
(DEDUCED, log entry 39). -/
def linSlot (ch : Nat) (d : Dev) : Dev :=
  let p := d.lpos ch
  if !d.linRuns ch ∨ !d.gateOpen (linPart ch) ∨ !d.on F.LIN_CFG_ROLE [ch] ∨ !d.on F.LIN_SCHED_RUN [ch] ∨ (d.linCh ch).asleep ∨
      d.now < (d.linCh ch).notBefore ∨ d.kept.transit < p.nextAt ∨ d.tickStart + 2000 < d.now then d
  else
    let d := d.linLapse ch
    let (t, i, p) := d.linNext ch
    let (first, count) := d.linTable ch t
    if count = 0 then d
    else
      let e := first + i
      let d := d.modPos ch fun _ => { p with nextAt := d.kept.transit + d.rd F.LIN_ENTRY_SLOT [ch, e] }
      let d := ((d.wr F.LIN_SCHED_ACTIVE [ch] t).wr F.LIN_STATUS_ENTRY [ch] e).wr F.LIN_STATUS_STATE [ch] 1
      d.linSlotKind ch e

/-- A table switch is asked for (R274). -/
def requestTable (ch t : Nat) (d : Dev) : Dev :=
  (d.wr F.LIN_SCHED_REQUEST [ch] t).modPos ch fun p => { p with req := some t }

/-- `LIN_SCHED.REQUEST` is written: the table that runs already is no request, and withdraws one that waits (R274). -/
def requestWritten (ch t : Nat) (d : Dev) : Dev :=
  if t = d.linBase ch then d.modPos ch fun p => { p with req := none } else requestTable ch t d

/-! ### Slave headers (R275, R276) -/

/-- The answer to an event-triggered header: the associated frame's protected identifier, then its data; a response-error bit of either frame
that lies behind the identifier is in it (R277). -/
def Dev.linEventAnswer (d : Dev) (ch id brk : Nat) (bit : Option Nat) : Dev :=
  let a := d.rd F.LIN_FRAME_ASSOC [ch, id]
  if (d.linBuf ch a).updated then
    let data := slice (BitVec.ofNat 8 (linPid a) :: (d.linData ch a).drop 1) 0 (d.linLen ch id)
    let data := if d.linCarries ch id 1 then d.putRespErr ch data else data
    let carries := d.linCarries ch id 1 || d.linCarries ch a 1 && decide (d.rd F.LIN_RESPERR_BIT [ch] / 8 < d.linLen ch id)
    let d := d.modLin ch fun c =>
      { c with bufs := smod c.bufs a fun b => { b with updated := false }, cur := some { id := a, publish := true, brk, data, sum := d.linSum ch id data, carries } }
    d.linSend ch id data bit
  else d.linNone ch

/-- A master's own header is complete: the buffer of a published frame is copied now, and a subscribed response awaited (R269). -/
def Dev.linHeadDone (d : Dev) (ch pid : Nat) : Dev :=
  match (d.linCh ch).cur with
  | none => d
  | some s =>
    if d.quiet ∨ !s.heading ∨ linPid s.id ≠ pid then d
    else if s.publish then d.linPublish ch s.id s.brk none else d.linAwait ch s.id s.brk s.event

/-- Is a break of `brkLen` ns at least 11 bit times of the configured rate (R275)? -/
def Dev.breakOk (d : Dev) (ch brkLen : Nat) : Bool := decide (11 * 1000000000 ≤ brkLen * d.rd F.LIN_CFG_BAUD [ch])

/-- Does a measured bit time of `bit` ns lie within ±14 % of the configured one (R275)? -/
def Dev.syncOk (d : Dev) (ch bit : Nat) : Bool :=
  let x := 100 * bit * d.rd F.LIN_CFG_BAUD [ch]
  decide (86 * 1000000000 ≤ x ∧ x ≤ 114 * 1000000000)

/-- A break of `brkLen` ns and a header with protected identifier `pid` have passed on the bus: a slave answers, at the bit time of
`bit` ns that it measures; for a driving master it is its own header (DESIGN CHOICE, log entry 129). A break that is too short
begins no header. While its gate drains it begins no response (R716). The silent master of a unit that does not drive hears its companion's headers (R660, R674). -/
def linHeader (ch pid brkLen bit brk : Nat) (d : Dev) : Dev :=
  let master := d.on F.LIN_CFG_ROLE [ch]
  if !d.linOn ch then d
  else if master ∧ !d.quiet then d.linHeadDone ch pid
  else if !d.linListens ch then d
  else if !d.breakOk ch brkLen then d
  else if !d.syncOk ch bit then (d.linLapse ch).bump F.LIN_SYNC_ERR_COUNT [ch]
  else if linPid (pid % 64) ≠ pid then (d.linLapse ch).bump F.LIN_PARITY_ERR_COUNT [ch]
  else
    let id := pid % 64
    let rate := if master then none else some bit
    let d := d.linLapse ch
    let d := (d.modLin ch fun c => { c with asleep := false, wake := 0 }).wr F.LIN_STATUS_STATE [ch] 1
    if id = 0x3C then if master then if !d.gateOpen (linPart ch) then d.linNone ch else d.linPublish ch id brk rate else d.linAwait ch id brk none
    else if master ∧ id = 0x3D then d.linAwait ch id brk none
    else
      match d.linRole ch id with
      | 1 =>
        if !d.gateOpen (linPart ch) then d.linNone ch
        else if !master ∧ d.on F.LIN_FRAME_EVENT [ch, id] then d.linEventAnswer ch id brk rate
        else if id = 0x3D ∧ !(d.linBuf ch id).updated then d.linNone ch
        else d.linPublish ch id brk rate
      | 2 => d.linAwait ch id brk none
      | _ => d.linNone ch

/-! ### Responses (R270, R273, R277, R278) -/

/-- How a response went, once its bytes are judged (R278). -/
inductive LinEnd | good | checksum | framing | bitErr | missing
  deriving DecidableEq, Repr

/-- Judge a response: one that the channel sends must read back as sent, where it is not silent; one that it receives has the length
of its entry and the checksum of its model (R266, R270, R278). -/
def Dev.linJudge (d : Dev) (ch : Nat) (s : LinSlot) (r : LinResp) : LinEnd :=
  match r with
  | .framing => .framing
  | .bitErr => .bitErr
  | .missing => .missing
  | .bytes data sum =>
    if s.publish then if d.quiet || (data == s.data && sum.toNat == s.sum) then .good else .bitErr
    else if data.length ≠ d.linLen ch s.id then .missing
    else if sum.toNat = d.linSum ch s.id data then .good else .checksum

/-- Count an error of a response (R278). -/
def Dev.linCount (d : Dev) (ch : Nat) (r : LinEnd) : Dev :=
  match r with
  | .good => d
  | .checksum => d.bump F.LIN_CHECKSUM_ERR_COUNT [ch]
  | .framing => d.bump F.LIN_FRAMING_ERR_COUNT [ch]
  | .bitErr => d.bump F.LIN_BIT_ERR_COUNT [ch]
  | .missing => d.bump F.LIN_NO_RESP_COUNT [ch]

/-- The data bytes of a response. -/
def respData : LinResp → List Byte
  | .bytes b _ => b
  | _ => []

/-- Commit a response as a LIN packet (R131, R270). -/
def Dev.linCommit (d : Dev) (ch id brk : Nat) (data : List Byte) : Dev :=
  let (s, n) := d.stamp 0 brk
  let b := leBytes 1 (linPid id) ++ leBytes 1 data.length ++ leBytes 1 (d.linSum ch id data) ++ [0] ++ data
  match d.commit { data := b, kind := .lin, res := linPart ch, writer := linPart ch, stampSec := s, stampNs := n, stampAt := brk } with
  | some (_, d) => d
  | none => d.dropNoCell (linPart ch)

/-- The response of the header in hand has ended, or did not come; a frame that was on the wire as the gate closed completes (R716). A response that did not come is no error in a response that the
slave received (R277) (DEDUCED, log entry 95). -/
def Dev.linEnded (d : Dev) (ch : Nat) (r : LinResp) : Dev :=
  if !d.linOn ch then d
  else
    match (d.linCh ch).cur with
    | none => d
    | some s =>
      let judged := d.linJudge ch s r
      let held := d
      let d := d.linNone ch
      if s.heading then held
      else if s.publish then
        if judged = .good then
          if s.carries then d.modLin ch fun c => { c with respErr := false } else d
        else (d.linCount ch judged).linRespErr ch
      else if judged = .good then d.linCommit ch s.id s.brk (respData r)
      else if r = .missing then if s.event.isSome then d else d.linCount ch judged
      else (((d.rewindPacket (linPart ch) (4 + d.linLen ch s.id)).linCount ch judged).linRespErr ch).linCollide ch s.event

/-- A response ends; a go-to-sleep frame that waits for the bus follows (R274, R540). -/
def linResponse (ch : Nat) (r : LinResp) (d : Dev) : Dev := (d.linEnded ch r).goToSleep ch

/-! ### Publishing (R268) -/

/-- The next packet of the `LIN_PUB` queue replaces its identifier's buffer, or is rejected; it waits while the channel's gate is not open
(DEDUCED, log entry 147). -/
def linPublishUpdate (ch : Nat) (d : Dev) : Dev :=
  let q := d.rd F.LIN_PUB_QUEUE [ch]
  if !d.runs ∨ !d.on F.LIN_PUB_VALID [ch] ∨ !d.gateOpen (linPart ch) then d
  else
    match d.front q with
    | none => d
    | some e =>
      let p := d.pkt e.handle
      let d := (d.pop q).unref e.handle
      let id := byteAt p.data 0 % 64
      let data := p.data.drop 4
      let n := d.linLen ch id
      -- a slave subscribes to frame 0x3C whatever its entry says (R276)
      if p.kind = .lin ∧ d.linRole ch id = 1 ∧ (id ≠ 0x3C ∨ d.on F.LIN_CFG_ROLE [ch]) ∧ byteAt p.data 1 = n ∧ data.length = n then
        d.modLin ch fun c => { c with bufs := sput c.bufs id { data := slice data 0 8, updated := true } }
      else d.bump F.LIN_PUB_REJECT_COUNT [ch]

end Sys2Proof.Machine
end

