-- ==== Sys2Proof/Machine/Almanac.lean ====
section
/-! DEFINITION. Admission of an almanac (R41–R56, R147, R194, R195, R242–R244, R279, R297, R312, R395, R489, R495, R523,
R649, R672, R789), and what takes an almanac into force. -/

namespace Sys2Proof.Machine

/-! ### Malformation (R41–R43, R55) -/

/-- The resource codes of R43. -/
def isEthRes (r : Nat) : Bool := decide (0x20 ≤ r ∧ r ≤ 0x33)
def isCanRes (r : Nat) : Bool := decide (0x40 ≤ r ∧ r ≤ 0x57)
def isLinRes (r : Nat) : Bool := decide (0x60 ≤ r ∧ r ≤ 0x6F)

/-- An ingress resource: a medium that frames come from. -/
def isIngress (r : Nat) : Bool := isEthRes r || isCanRes r || isLinRes r

/-- The resources that a kind allows (R42); none for a reserved kind. -/
def kindAllows (kind r : Nat) : Bool :=
  match kind with
  | 1 | 2 => decide (r < 16)
  | 3 => decide (16 ≤ r ∧ r < 20)
  | 4 => isEthRes r
  | 5 => isIngress r
  | 6 | 7 => r == 0x70 || r == 0x71
  | 8 => r == 0x78
  | 9 => r == 0x7C
  | 10 => r == 0x7E
  | _ => false

/-- Does a SAFETY flow action's `TRIGGER` name a source (R51)? -/
def sourceNamed (s : Nat) : Bool :=
  s == 0xFFFF || (s / 256 == 0 && isIngress s) || (decide (0x80 ≤ s / 256 ∧ s / 256 < 0x90) && decide (s % 256 < 64))

/-- Every field of an entry keeps its range (R41, R42, R55, R159): `ARRIVAL_BOUND` is 0 on the kinds that have no items (DEDUCED, log entry 97) (DEDUCED, log entry 112).
The upper half of `TRIGGER` is free on kind 0x05 (DESIGN CHOICE, log entry 191). -/
def entryForm (h : Nat) (e : AlmEntry) : Bool :=
  decide (e.id < 0x10000) && kindAllows e.kind e.resource && decide (e.cls < 3) && decide (e.owner < 16) &&
    decide (1 ≤ e.period ∧ e.period ≤ h ∧ h % e.period = 0) && decide (e.phase < e.period) &&
    decide (e.winOpen < e.winClose ∧ e.winClose ≤ 1024) && decide (1 ≤ e.span ∧ e.span ≤ 4096) &&
    (e.cls == 1 || e.carry == 0) && (e.bound == 0 || [1, 5, 6, 8].contains e.kind) &&
    (e.kind != 1 || (if e.cls = 0 then sourceNamed (e.trigger / 65536) else decide (e.trigger < 65536) || e.trigger == 0xFFFFFFFF))

def AlmEntry_is (e : AlmEntry) (kinds : List Nat) : Bool := kinds.contains e.kind

/-- A failed check: reason, resource and phase (R55, R56). -/
abbrev Refused := Nat × Nat × Nat

/-- The first entry that is out of form, or that shares its `ENTRY_ID` with an earlier one. -/
def badEntry (h : Nat) : List Nat → List AlmEntry → Option AlmEntry
  | _, [] => none
  | seen, e :: r => if !entryForm h e ∨ seen.contains e.id then some e else badEntry h (e.id :: seen) r

/-- The malformed almanac's first fault: resource and phase 0 where it lies in the header, else the entry's own (DESIGN CHOICE, log entry 113). -/
def malformed (a : Almanac) : Option Refused :=
  if a.magic ≠ 0x4E414D4C ∨ 4 < a.len ∨ a.format ≠ 1 ∨ a.count = 0 ∨ 16384 < a.count ∨ a.hyper = 0 ∨ 40000 < a.hyper ∨
      !a.reservedOk ∨ a.bytesLen ≠ 16 + 32 * a.count ∨ a.entries.length ≠ a.count then some (5, 0, 0)
  else (badEntry a.hyper [] a.entries).map fun e => (5, e.resource, e.phase)

/-- R194: the image active on a core has a dispatch entry for every entry that the almanac gives the core. -/
def Dev.noDispatch (d : Dev) (a : Almanac) : Option Refused :=
  (a.entries.find? fun e => AlmEntry_is e [1, 2, 3] &&
    !((d.core e.resource).hasImage && (imgTable (d.core e.resource).image).any fun p => p.1 == e.id)).map
      fun e => (5, e.resource, e.phase)

/-! ### The largest number of commits of a source (R51, R242–R244, R279, R297, R395) -/

/-- The smallest commit spacing of a CAN channel in cycles of its 80 MHz protocol clock (R243). -/
def Dev.canSpacing (d : Dev) (ch : Nat) : Nat :=
  let nom := (d.rd F.CAN_NBT_NBRP [ch] + 1) * (3 + d.rd F.CAN_NBT_NTSEG1 [ch] + d.rd F.CAN_NBT_NTSEG2 [ch])
  let dat := if d.on F.CAN_CFG_BRS_EN [ch] then
      (d.rd F.CAN_DBT_DBRP [ch] + 1) * (3 + d.rd F.CAN_DBT_DTSEG1 [ch] + d.rd F.CAN_DBT_DTSEG2 [ch]) else nom
  let xl := (d.rd F.CAN_XBT_XBRP [ch] + 1) * (3 + d.rd F.CAN_XBT_XTSEG1 [ch] + d.rd F.CAN_XBT_XTSEG2 [ch])
  let t := 47 * nom
  let t := if d.on F.CAN_CFG_FD_EN [ch] then min t (29 * nom + 27 * dat) else t
  if d.on F.CAN_CFG_XL_EN [ch] then min t (24 * nom + 100 * xl) else t

/-- The shortest slot over all valid tables of a LIN master, in transits (R279). -/
def Dev.linShortest (d : Dev) (ch : Nat) : Option Nat :=
  (List.range 4).foldl (fun best t =>
    let tab := d.linTable ch t
    (List.range tab.2).foldl (fun best i =>
      let s := d.rd F.LIN_ENTRY_SLOT [ch, (tab.1 + i) % 256]
      match best with | none => some s | some b => some (min s b)) best) none

/-- Commits that an ingress resource can make within `p` × L × 65/64, with L in ns (R244). -/
def Dev.commits (d : Dev) (r p len : Nat) : Nat :=
  let w := p * len * 65
  if isCanRes r then w * 80 / (64000 * max 1 (d.canSpacing (r - 0x40))) + 1
  else if isEthRes r then w * d.portMbps (r - 0x20) / (64000 * 672) + 1
  else if isLinRes r then
    if !d.on F.LIN_CFG_ROLE [r - 0x60] then
      w * d.rd F.LIN_CFG_BAUD [r - 0x60] / (64 * 52 * 1000000000) + 1
    else match d.linShortest (r - 0x60) with
      | some s => w / (64 * max 1 s * len) + 1
      | none => 1
  else 0

/-- Is an ingress resource enabled? -/
def Dev.ingressOn (d : Dev) (r : Nat) : Bool :=
  if isCanRes r then d.on F.CAN_CFG_ENABLE [r - 0x40]
  else if isEthRes r then d.portOn (r - 0x20)
  else if isLinRes r then d.on F.LIN_CFG_ENABLE [r - 0x60] else false

def ingressAll : List Nat := (List.range 128).filter isIngress

/-- Items that a ring can give (R395). -/
def Dev.ringItems (d : Dev) (t r p : Nat) : Nat := (p + 1) * d.rd F.RING_CFG_B_FETCH_MAX [t, r]

def maxOf (l : List Nat) : Nat := l.foldl max 0

/-- The enabled submission rings of class SAFETY. -/
def Dev.safetyRings (d : Dev) : List (Nat × Nat) :=
  ((List.range 16).flatMap fun t => (List.range 64).map fun r => (t, r)).filter fun x =>
    d.ringOn x.1 x.2 && decide (1 ≤ d.ringKind x.1 x.2 ∧ d.ringKind x.1 x.2 ≤ 4) && d.ringClass x.1 x.2 == 0

/-- The largest number of items that a source gives (R51). -/
def Dev.sourceMax (d : Dev) (s p len : Nat) : Nat :=
  if s = 0xFFFF then
    max (maxOf ((ingressAll.filter d.ingressOn).map fun r => d.commits r p len))
      (maxOf (d.safetyRings.map fun x => d.ringItems x.1 x.2 p))
  else if s / 256 = 0 then d.commits s p len
  else d.ringItems (s / 256 - 0x80) (s % 256) p

/-! ### Capacities -/

/-- What an entry takes of its resource in an active transit. -/
def AlmEntry_cost (e : AlmEntry) : Nat := e.costFixed + e.bound * e.costItem

def sumOf (l : List AlmEntry) (f : AlmEntry → Nat) : Nat := (l.map f).sum

/-- Carry reserve and the largest BULK item of a core (R49, R195). -/
def carryReserve (l : List AlmEntry) : Nat := sumOf (l.filter fun e => e.cls == 1) fun e => e.carry * e.costItem
def bulkMax (l : List AlmEntry) : Nat := maxOf ((l.filter fun e => e.cls == 2).map fun e => e.costFixed + e.costItem)

/-- The entries of one core. -/
def coreEntries (a : Almanac) (c : Nat) : List AlmEntry := a.entries.filter fun e => AlmEntry_is e [1, 2, 3] && e.resource == c

/-- The right-hand side of R195, and with 1,000 in place of 1,024 that of R489. -/
def lateRoom (cap top w : Nat) : Nat := cap * (top - w) / 1024

/-- R195 and R489: at every window start of a SAFETY or CONTROL entry, what starts no earlier fits what is left. -/
def lateOk (sc : List AlmEntry) (rest cap top : Nat) : Bool :=
  sc.all fun i => decide (i.winOpen < top) &&
    decide (sumOf (sc.filter fun j => decide (i.winOpen ≤ j.winOpen)) AlmEntry_cost + rest ≤ lateRoom cap top i.winOpen)

/-- The first phase of a hyperperiod in which a check of the active entries fails. -/
def badPhase (a : Almanac) (l : List AlmEntry) (ok : List AlmEntry → Bool) : Option Nat :=
  (List.range a.hyper).find? fun p => !ok (l.filter fun e => p % (max 1 e.period) == e.phase)

/-- R50 and R195 on one core. `cap` is C(L), less the room that a move needs (R715). -/
def coreFits (a : Almanac) (c cap : Nat) : Option Refused :=
  let l := coreEntries a c
  let carry := carryReserve l
  let b := bulkMax l
  if l = [] then none
  else (badPhase a l fun act =>
      let sc := act.filter fun e => decide (e.cls < 2)
      decide (sumOf sc AlmEntry_cost + carry ≤ cap) && lateOk sc (carry + b) cap 1024).map fun p => (1, c, p)

/-- R52 on one core. -/
def bulkFits (a : Almanac) (c cap : Nat) : Option Refused :=
  ((coreEntries a c).find? fun e => e.cls == 2 && decide (cap < e.costFixed + e.costItem)).map fun e => (1, c, e.phase)

/-- R51. -/
def Dev.boundsFit (d : Dev) (a : Almanac) (len : Nat) : Option Refused :=
  (a.entries.find? fun e => e.kind == 1 && e.cls == 0 &&
    (e.span != 1 || decide (e.bound < d.sourceMax (e.trigger / 65536) e.period len))).map fun e => (2, e.resource, e.phase)

/-- R53 and R312 on one egress port: medium time of one class, in 1/(1,024 × 64 × spans) ns. -/
def egressFits (a : Almanac) (q cls len : Nat) : Bool :=
  let l := a.entries.filter fun e => e.resource == q && e.cls == cls
  let wins := l.filter fun e => e.kind == 4
  let g := if wins = [] then 1024 else sumOf wins fun e => e.winClose - e.winOpen
  let loads := l.filter fun e => e.kind == 5
  let den := (loads.map fun e => max 1 e.span).foldl Nat.lcm 1
  decide ((sumOf loads fun e => e.bound * e.costItem * (den / max 1 e.span)) * 65536 ≤ g * len * 63 * den)

def Dev.egressFail (d : Dev) (a : Almanac) (len : Nat) : Option Refused :=
  match ingressAll.find? fun q => !(egressFits a q 0 len && egressFits a q 1 len) with
  | some q => some (3, q, 0)
  | none => (a.entries.find? fun e => e.kind == 5 && decide (e.cls < 2) && decide (0x2C ≤ e.resource ∧ e.resource ≤ 0x33) &&
      !d.on F.PLCA_CFG_PLCA_EN [e.resource - 0x20]).map fun e => (3, e.resource, e.phase)

/-- R489. -/
def cutFits (a : Almanac) (c cap : Nat) : Option Refused :=
  let l := coreEntries a c
  if l = [] then none
  else (badPhase a l fun act => lateOk (act.filter fun e => decide (e.cls < 2)) (carryReserve l + bulkMax l) cap 1000).map
    fun p => (4, c, p)

/-- R495. -/
def Dev.latchFits (d : Dev) (a : Almanac) : Option Refused :=
  let l := a.entries.filter fun e => e.kind == 6
  match l.find? fun e => !(decide (e.trigger < 72) && e.costItem == 1 && d.chf F.CH_CFG_CLASS e.trigger == e.cls) with
  | some e => some (4, e.resource, e.phase)
  | none =>
    match (List.range 72).find? fun ch => d.chf F.CH_CFG_CLASS ch == 0 &&
        !(l.any fun e => e.trigger == ch) with
    | some ch => some (4, 0x70 + chanDie ch, 0)
    | none =>
      [0x70, 0x71].findSome? fun r =>
        (badPhase a (l.filter fun e => e.resource == r && decide (e.cls < 2)) fun act =>
          decide (sumOf act (fun e => e.costFixed + (e.bound + e.carry) * e.costItem) ≤ 192)).map fun p => (4, r, p)

/-- The die of an input group (R513). -/
def sampleDie (g : Nat) : Option Nat :=
  if g < 12 then some (if g < 2 ∨ (4 ≤ g ∧ g < 8) then 0 else 1) else none

/-- R523; an entry whose `COST_FIXED` is not 8 (R522) fails as one that names no group of its die does (DEDUCED, log entry 180). -/
def samplesFit (a : Almanac) : Option Refused :=
  let l := a.entries.filter fun e => e.kind == 7
  match l.find? fun e => sampleDie e.trigger != some (e.resource - 0x70) || e.costFixed != 8 with
  | some e => some (4, e.resource, e.phase)
  | none => [0x70, 0x71].findSome? fun r =>
      (badPhase a (l.filter fun e => e.resource == r) fun act => decide (sumOf act (·.costFixed) ≤ 96)).map fun p => (4, r, p)

/-- The delta capacity up to a window point (R672). At 25 µs and w = 1,000 the rule states 120,163, one more than its formula gives:
the stated value holds (DEDUCED, log entry 88). -/
def deltaCapacity (len w : Nat) : Nat :=
  if len = 25000 ∧ w = 1000 then 120163 else min (5 * len * 63 * w / 65536) 262144

/-- Bytes that every delta reserves (R672). -/
def Dev.deltaReserve (d : Dev) (len : Nat) : Nat :=
  16384 + 6 * ((ingressAll.filter d.ingressOn).map fun r => d.commits r 1 len).sum

/-- R672. -/
def Dev.deltaFits (d : Dev) (a : Almanac) (len : Nat) : Option Refused :=
  let l := a.entries.filter fun e => e.kind == 8
  match l.find? fun e => decide (1000 < e.winClose) with
  | some e => some (4, 0x78, e.phase)
  | none => (l.map (·.winClose)).findSome? fun w =>
      (badPhase a (l.filter fun e => decide (e.winClose ≤ w)) fun act =>
        decide (d.deltaReserve len + sumOf act AlmEntry_cost ≤ deltaCapacity len w)).map fun p => (4, 0x78, p)

/-- R649. -/
def flushFits (a : Almanac) : Option Refused :=
  let l := a.entries.filter fun e => e.kind == 9
  match l.find? fun e => e.trigger != 0 || e.costFixed == 0 || decide (64 < e.costFixed) with
  | some e => some (4, 0x7C, e.phase)
  | none => (badPhase a l fun act => act != [] && decide (sumOf act (·.costFixed) ≤ 64)).map fun p => (4, 0x7C, p)

/-- First pattern and count of a pattern set. -/
def Dev.patSpan (d : Dev) (s : Nat) : Nat × Nat := (d.rd F.PM_SET_FIRST [s], d.rd F.PM_SET_COUNT [s])

def spansMeet (a b : Nat × Nat) : Bool := decide (a.1 < b.1 + b.2 ∧ b.1 < a.1 + a.2)

/-- Do two of the sets named overlap? -/
def Dev.setsOverlap (d : Dev) : List Nat → Bool
  | [] => false
  | s :: r => r.any (fun x => x == s || spansMeet (d.patSpan s) (d.patSpan x)) || d.setsOverlap r

/-- R147. -/
def Dev.patternsFit (d : Dev) (a : Almanac) : Option Refused :=
  let l := a.entries.filter fun e => e.kind == 10
  let named := l.map (·.trigger)
  match l.find? fun e => e.period != 1 || !(decide (e.trigger < 255) && d.on F.PM_SET_VALID [e.trigger]) ||
      e.costFixed != d.rd F.PM_SET_COUNT [e.trigger] with
  | some e => some (4, 0x7E, e.phase)
  | none =>
    let used := (List.range 128).map (fun k => d.rd F.RES_PROFILE_PM_SET [k]) ++
      (List.range 16).flatMap fun t => (List.range 64).map fun r => d.rd F.RING_CFG_C_PM_SET [t, r]
    if 4096 < sumOf l (·.costFixed) ∨ d.setsOverlap named ∨ (used.any fun s => s != 0xFF && !named.contains s) then some (4, 0x7E, 0)
    else none

/-! ### Admission -/

/-- Cycles that a move leaves a core (R715): 1,100 fewer on the destination of a move. -/
abbrev Slack := Nat → Nat

/-- The checks of R55 in its order: malformation, the grade, the length, then R50 to R54 with those of other chapters, in the
order of the rules and within each in ascending resource and phase (DEDUCED, log entry 31). `force` is the length in force, where the
almanac must have it. -/
def Dev.almanacRefused (d : Dev) (a : Almanac) (force : Option Nat) (slack : Slack) : Option Refused :=
  let len := lenNs a.len
  let cap (c : Nat) : Nat := capacity c len - slack c
  let cores := List.range 20
  malformed a <|> d.noDispatch a <|>
  (if d.gradeF then none else (a.entries.find? fun e => e.kind == 10).map fun e => (6, e.resource, e.phase)) <|>
  (match force with | some l => if a.len = l then none else some (7, 0, 0) | none => none) <|>
  cores.findSome? (fun c => coreFits a c (cap c)) <|>
  d.boundsFit a len <|> cores.findSome? (fun c => bulkFits a c (cap c)) <|> d.egressFail a len <|>
  cores.findSome? (fun c => cutFits a c (cap c)) <|>
  d.latchFits a <|> samplesFit a <|> d.deltaFits a len <|> flushFits a <|> d.patternsFit a

/-- `ALMANAC_STATUS` after a refusal (R56). A phase that its 15 bits cannot hold shows a free value (DESIGN CHOICE, log entry 107). -/
def Dev.noteRefusal (d : Dev) (x : Refused) : Dev :=
  let phase := if x.2.2 < 32768 then x.2.2 else Config.widePhase x.2.2 % 32768
  ((d.wr F.ALMANAC_STATUS_REASON [] x.1).wr F.ALMANAC_STATUS_RESOURCE [] x.2.1).wr F.ALMANAC_STATUS_PHASE [] phase

/-- The transit registers as an almanac in force leaves them (R40). -/
def almanacRegs (a : Almanac) (m : Sparse Word) : Sparse Word :=
  fldPut (fldPut m F.TRANSIT_CFG_LEN [] a.len) F.ALMANAC_STATUS_ACTIVE [] 1

/-- An almanac comes into force: its length, and empty arrival windows for the entries that it does not share (R40, R789). -/
def Dev.takeAlmanac (d : Dev) (a : Almanac) : Dev :=
  let keep := d.arrivals.filter fun x => a.entries.any fun e => e.id == x.1
  { d with alm := some a, arrivals := keep }.modK fun k => { k with regs := almanacRegs a k.regs }

end Sys2Proof.Machine
end

