-- ==== Sys2Proof/Machine/Secy.lean ====
section
/-! DEFINITION. MACsec: the SecTAG, protection on egress and verification on ingress, packet numbers and their exhaustion
(R321–R328, R587, R609, R610). The SecTAG and the GCM inputs are those of IEEE 802.1AE, which R321 names (PRESUMED, log entry 26). -/

namespace Sys2Proof.Machine

/-- Suites with extended packet numbers, and with 256-bit keys (R330). -/
def Dev.xpn (d : Dev) (n : Nat) : Bool := decide (2 ≤ d.rd F.SECY_CFG_SUITE [n])
def Dev.secKeyType (d : Dev) (n : Nat) : Nat := if d.rd F.SECY_CFG_SUITE [n] % 2 = 0 then 1 else 2

/-- Range of packet numbers (R326). -/
def Dev.pnRange (d : Dev) (n : Nat) : Nat := if d.xpn n then 2 ^ 64 else 2 ^ 32

/-- Confidentiality offset in bytes. -/
def Dev.secOffset (d : Dev) (n : Nat) : Nat := [0, 30, 50].getD (d.rd F.SECY_CFG_OFFSET [n]) 0

/-- The 64-bit number in the two halves of an association. -/
def Dev.txPn (d : Dev) (n a : Nat) : Nat := d.rd F.TXSA_PN_LO_V [n, a] + (if d.xpn n then 2 ^ 32 * d.rd F.TXSA_PN_HI_V [n, a] else 0)
def Dev.rxPn (d : Dev) (n c a : Nat) : Nat :=
  d.rd F.RXSA_PN_LO_V [n, c, a] + (if d.xpn n then 2 ^ 32 * d.rd F.RXSA_PN_HI_V [n, c, a] else 0)
def Dev.setTxPn (d : Dev) (n a v : Nat) : Dev :=
  let d := d.wr F.TXSA_PN_LO_V [n, a] (v % 2 ^ 32)
  if d.xpn n then d.wr F.TXSA_PN_HI_V [n, a] (v / 2 ^ 32) else d
/-- Raise the lowest acceptable PN of a receive association, to the top of its range at most (DEDUCED, log entry 164). -/
def Dev.setRxPn (d : Dev) (n c a v : Nat) : Dev :=
  let v := min v (d.pnRange n - 1)
  let d := d.wr F.RXSA_PN_LO_V [n, c, a] (v % 2 ^ 32)
  if d.xpn n then d.wr F.RXSA_PN_HI_V [n, c, a] (v / 2 ^ 32) else d

/-- Owner's event record on a transmit association (R326, R417). -/
def Dev.pnEvent (d : Dev) (n a what : Nat) : Dev :=
  d.event (d.rd F.PORT_CFG_OWNER [n]) 0x0018 0 (ethPart n) (detail16 (leBytes 1 what ++ leBytes 1 a))

/-- Move a transmit association's next PN on, reporting three quarters of the range and exhaustion (R326). -/
def Dev.advancePn (d : Dev) (n a by_ : Nat) : Dev :=
  let old := d.txPn n a
  let new := old + by_
  let r := d.pnRange n
  if r ≤ new then ((d.setTxPn n a 0).wr F.TXSA_CTL_EXHAUSTED [n, a] 1).pnEvent n a 2
  else
    let d := d.setTxPn n a new
    if old < 3 * (r / 4) ∧ 3 * (r / 4) ≤ new then d.pnEvent n a 1 else d

/-- After a restart or a takeover every transmit association resumes at its mirrored next PN plus 8,192 (R327). -/
def resumePns (d : Dev) : Dev :=
  (List.range 80).foldl (fun d i =>
    let n := i / 4
    let a := i % 4
    if d.on F.TXSA_CTL_VALID [n, a] ∧ !d.on F.TXSA_CTL_EXHAUSTED [n, a] then d.advancePn n a 8192 else d) d

/-- SCI bytes of a register pair. -/
def Dev.txSci (d : Dev) (n : Nat) : List Byte := leBytes 4 (d.rd F.TX_SCI_LO_SCI [n]) ++ leBytes 4 (d.rd F.TX_SCI_HI_SCI [n])
def Dev.rxSci (d : Dev) (n c : Nat) : List Byte :=
  leBytes 4 (d.rd F.RXSC_SCI_LO_SCI [n, c]) ++ leBytes 4 (d.rd F.RXSC_SCI_HI_SCI [n, c])

/-- GCM IV: SCI and PN, or for the XPN suites SSCI and PN exclusive-or the salt. -/
def secIv (xpn : Bool) (sci : List Byte) (ssci : Nat) (salt : List Byte) (pn : Nat) : List Byte :=
  if xpn then xorBytes (leBytes 4 ssci ++ beBytes 8 pn) salt else sci ++ beBytes 4 pn

def Dev.txSalt (d : Dev) (n a : Nat) : List Byte :=
  leBytes 4 (d.rd F.TXSA_SALT0_V [n, a]) ++ leBytes 4 (d.rd F.TXSA_SALT1_V [n, a]) ++ leBytes 4 (d.rd F.TXSA_SALT2_V [n, a])
def Dev.rxSalt (d : Dev) (n c a : Nat) : List Byte :=
  leBytes 4 (d.rd F.RXSA_SALT0_V [n, c, a]) ++ leBytes 4 (d.rd F.RXSA_SALT1_V [n, c, a]) ++
    leBytes 4 (d.rd F.RXSA_SALT2_V [n, c, a])

/-- Does a key serve an association (R609, R610)? -/
def secKeyOk (k : KeySlot) (type need : Nat) : Bool := k.type == type && k.uses useBulk && k.uses need

/-- The key of an association's handle for a frame bound before or after a commit (R583, R585, R599, R600): the key, that it
is withdrawn (0x50), or that the association is not usable (0x12). -/
def Dev.secKey (d : Dev) (sr : Strongroom) (n handle need : Nat) (before : Superseded → Bool) : Except Nat KeySlot :=
  if !handleOk handle ∨ !d.tgrant (d.rd F.PORT_CFG_OWNER [n]) handle then .error 0x12
  else
    let k := match d.superseded.find? fun s => s.slot == handle && before s with
      | none => some (sr.slot handle)
      | some s => s.key
    match k with
    | none => .error 0x50
    | some k => if secKeyOk k (d.secKeyType n) need then .ok k else .error 0x12

/-- The SecTAG without its EtherType: TCI and AN, SL, PN, SCI (IEEE 802.1AE, 9.3). -/
def Dev.secTag (d : Dev) (n a pn user : Nat) : List Byte :=
  let sc := d.on F.SECY_CFG_SCI_EN [n]
  let enc := d.on F.SECY_CFG_ENCRYPT [n]
  let tci := 64 * (d.rd F.SECY_CFG_ES [n]) + 32 * sc.toNat + 16 * (d.rd F.SECY_CFG_SCB [n]) + 12 * enc.toNat + a
  [BitVec.ofNat 8 tci, BitVec.ofNat 8 (if user < 48 then user else 0)] ++ beBytes 4 (pn % 2 ^ 32) ++
    (if sc then d.txSci n else [])

/-- Protect a frame with an association and its key (R323). -/
def Dev.secProtect (d : Dev) (n a pn : Nat) (key f : List Byte) : List Byte :=
  let user := f.drop 12
  let tag := [0x88#8, 0xE5#8] ++ d.secTag n a pn user.length
  let ks := roundKeys key
  let iv := secIv (d.xpn n) (d.txSci n) (d.rd F.TXSA_SSCI_V [n, a]) (d.txSalt n a) pn
  if d.on F.SECY_CFG_ENCRYPT [n] then
    let o := min (d.secOffset n) user.length
    let aad := f.take 12 ++ tag ++ user.take o
    let c := gcmCrypt ks iv (user.drop o)
    aad ++ c ++ gcmTag ks iv aad c
  else
    let aad := f.take 12 ++ tag ++ user
    aad ++ gcmTag ks iv aad []

/-- Does the SecY protect a frame that a port sends (R322)? -/
def Dev.secured (d : Dev) (n : Nat) (f : List Byte) : Bool :=
  d.on F.PORT_CFG_MACSEC_EN [n] && !d.secExempt n (etherType f) && d.on F.SECY_CFG_PROTECT [n]

/-- The SecY on egress (R322, R323, R325, R326): the frame to send, or nothing where it is released. `acc` is the
accession number of the packet's commit. -/
def Dev.secEgress (d : Dev) (sr : Strongroom) (n acc : Nat) (f : List Byte) : Option (List Byte) × Dev :=
  if !d.on F.PORT_CFG_MACSEC_EN [n] ∨ d.secExempt n (etherType f) then (some f, d)
  else if !d.on F.SECY_CFG_PROTECT [n] then (some f, d.bump F.OUT_UNTAGGED_COUNT [n])
  else
    let a := d.rd F.SECY_CFG_TX_AN [n]
    if !d.on F.TXSA_CTL_VALID [n, a] ∨ d.on F.TXSA_CTL_EXHAUSTED [n, a] then (none, d.bump F.OUT_SA_NOT_IN_USE_COUNT [n])
    else
      match d.secKey sr n (d.rd F.TXSA_CTL_KEY_HANDLE [n, a]) useEncrypt fun s => accBefore acc s.acc with
      | .error code => (none, if code = 0x50 then d.bump F.OUT_KEY_WITHDRAWN_COUNT [n] else d.bump F.OUT_SA_NOT_IN_USE_COUNT [n])
      | .ok k =>
        let f' := d.secProtect n a (d.txPn n a) k.aesKey f
        let d := d.bump F.OUT_PROTECTED_COUNT [n]
        let d := if d.on F.SECY_CFG_ENCRYPT [n] then d.bump F.OUT_ENCRYPTED_COUNT [n] else d
        (some f', (d.bump F.TRAFFIC_BLOCKS_COUNT [if n < 2 then n else if n < 6 then 2 else 3] (cdiv f.length 16)).advancePn n a 1)

/-- What a received SecTAG says: AN, E and C bits, SCI, low PN, header length, and the length of the frame without what padded it. -/
structure SecTagIn where
  an : Nat := 0
  enc : Bool := false
  sci : Option (List Byte) := none
  pn : Nat := 0
  len : Nat := 8
  whole : Nat := 0
  deriving DecidableEq, Repr

/-- Read the SecTAG of a frame whose EtherType is 0x88E5; none where it is malformed (IEEE 802.1AE, 9.12): a low PN of 0 is, but for the
XPN suites, and a short length that disagrees with a frame that no padding brought to 60 bytes. -/
def secTagOf (xpn : Bool) (f : List Byte) : Option SecTagIn :=
  let t := byteAt f 14
  let sl := byteAt f 15
  let sc := bitAt t 5
  let es := bitAt t 6
  let scb := bitAt t 4
  let len := if sc then 16 else 8
  let user := f.length - (12 + len + 16)
  let pn := ofBe (slice f 16 4)
  if bitAt t 7 ∨ (sc ∧ (es ∨ scb)) ∨ bitAt t 3 ≠ bitAt t 2 ∨ 48 ≤ sl ∨ f.length < 12 + len + 16 ∨ user < sl ∨
      (sl ≠ 0 ∧ sl < user ∧ 60 < f.length) ∨ (sl = 0 ∧ user < 48) ∨ (pn = 0 ∧ !xpn) then none
  else
    let sci := if sc then some (slice f 20 8)
      else if es then some (slice f 6 6 ++ [0, if scb then 0 else 1]) else none
    some { an := t % 4, enc := bitAt t 3, sci, pn, len, whole := 12 + len + (if sl = 0 then user else sl) + 16 }

/-- The full PN of a frame (IEEE 802.1AE, 10.6.2): the XPN suites recover the high half from the lowest acceptable PN. -/
def recoverPn (xpn : Bool) (low lowest : Nat) : Nat :=
  if !xpn then low
  else
    let hi := lowest / 2 ^ 32
    if 2 ^ 31 ≤ lowest % 2 ^ 32 ∧ low < 2 ^ 31 then (hi + 1) * 2 ^ 32 + low else hi * 2 ^ 32 + low

/-- What the SecY makes of a frame: rewound, or committed with its bytes and its `ETH_FLAGS` bits. -/
inductive SecIn
  | rewind
  | take (f : List Byte) (flags : Nat)
  deriving DecidableEq, Repr

/-- A frame whose SCI and association are known (R324): columns by `VALIDATE` (0 Disabled, 1 Check, 2 Strict). -/
def Dev.secVerify (d : Dev) (sr : Strongroom) (n v c sof : Nat) (t : SecTagIn) (f : List Byte) : SecIn × Dev :=
  let dis := v == 0
  let raw : SecIn := .take f 0
  let f := f.take t.whole
  let noSa (d : Dev) : SecIn × Dev := (if dis then raw else .rewind, d.bump F.IN_NOT_USING_SA_COUNT [n])
  if !d.on F.RXSA_CTL_VALID [n, c, t.an] then noSa d
  else
    match d.secKey sr n (d.rd F.RXSA_CTL_KEY_HANDLE [n, c, t.an]) useDecrypt fun s => decide (sof < s.since) with
    | .error code => if code = 0x50 then (.rewind, d.bump F.IN_KEY_WITHDRAWN_COUNT [n]) else noSa d
    | .ok k =>
      let lowest := d.rxPn n c t.an
      let pn := recoverPn (d.xpn n) t.pn lowest
      let ks := roundKeys k.aesKey
      let iv := secIv (d.xpn n) (d.rxSci n c) (d.rd F.RXSA_SSCI_V [n, c, t.an]) (d.rxSalt n c t.an) pn
      let hdr := f.take (12 + t.len)
      let user := (f.drop (12 + t.len)).take (f.length - (12 + t.len + 16))
      let icv := f.drop (f.length - 16)
      let o := if t.enc then min (d.secOffset n) user.length else user.length
      let aad := hdr ++ user.take o
      let good := gcmTag ks iv aad (user.drop o) == icv
      let plain := f.take 12 ++ user.take o ++ gcmCrypt ks iv (user.drop o)
      let d := d.bump F.TRAFFIC_BLOCKS_COUNT [if n < 2 then n else if n < 6 then 2 else 3] (cdiv f.length 16)
      if !good then
        if t.enc then (if dis then raw else .rewind, d.bump F.IN_NOT_VALID_COUNT [n])
        else if v = 2 then (.rewind, d.bump F.IN_NOT_VALID_COUNT [n])
        else if v = 1 then (.take (f.take 12 ++ user) 16, d.bump F.IN_INVALID_COUNT [n])
        else (raw, d)
      else if pn < lowest then
        if d.on F.SECY_CFG_REPLAY [n] then (if dis then raw else .rewind, d.bump F.IN_LATE_COUNT [n])
        else (if dis then raw else .take plain 0, d.bump F.IN_DELAYED_COUNT [n])
      else
        let next := pn + 1 - d.rd F.SECY_WINDOW_WINDOW [n]
        let d := if lowest < next then d.setRxPn n c t.an next else d
        (if dis then raw else .take plain 32, d.bump F.IN_OK_COUNT [n])

/-- The SecY on ingress (R322, R324). `sof` is the instant of the start-of-frame delimiter. -/
def Dev.secIngress (d : Dev) (sr : Strongroom) (n sof : Nat) (f : List Byte) : SecIn × Dev :=
  if !d.on F.PORT_CFG_MACSEC_EN [n] ∨ d.secExempt n (etherType f) then (.take f 0, d)
  else
    let v := d.rd F.SECY_CFG_VALIDATE [n]
    let d := if v = 0 then d.bump F.IN_UNCHECKED_COUNT [n] else d
    if etherType f ≠ 0x88E5 then
      if v = 2 then (.rewind, d.bump F.IN_NO_TAG_COUNT [n])
      else (.take f (if v = 1 then 16 else 0), d.bump F.IN_UNTAGGED_COUNT [n])
    else
      match secTagOf (d.xpn n) f with
      | none => (if v = 0 then .take f 0 else .rewind, d.bump F.IN_BAD_TAG_COUNT [n])
      | some t =>
        let chan := [0, 1, 2, 3].find? fun c => d.on F.RXSC_CTL_VALID [n, c] &&
          (match t.sci with | none => true | some s => d.rxSci n c == s)
        match chan with
        | none =>
          if v = 2 then (.rewind, d.bump F.IN_NO_SCI_COUNT [n])
          else (.take f (if v = 1 then 16 else 0), d.bump F.IN_UNKNOWN_SCI_COUNT [n])
        | some c => d.secVerify sr n v c sof t f

end Sys2Proof.Machine
end

