-- ==== Sys2Proof/Machine/Ethernet.lean ====
section
/-! DEFINITION. Ethernet ports: the receive path, egress selection, windows, the shaper, launch times, PLCA and link state
(R284–R314, R361–R369, R676). -/

namespace Sys2Proof.Machine

/-! ### Receive path (R288–R297) -/

/-- The address filter (R289). -/
def Dev.addrPasses (d : Dev) (n : Nat) (f : List Byte) : Bool :=
  let dst := slice f 0 6
  d.on F.PORT_CFG_PROMISC [n] ||
    (dst == List.replicate 6 0xFF#8 && d.on F.PORT_CFG_BCAST [n]) ||
    ((List.range 8).any fun k => d.on F.ADDR_HI_VALID [n, k] &&
      dst == leBytes 4 (d.rd F.ADDR_LO_ADDR_LO [n, k]) ++ leBytes 2 (d.rd F.ADDR_HI_ADDR_HI [n, k])) ||
    (dst == [0x01, 0x80, 0xC2, 0x00, 0x00, 0x0E] && (List.range 4).any fun i => bitAt (d.rd F.TD_PORTS_PORTS [i]) n)

/-- Receive errors (R293): is a frame undeliverable, its `ETH_FLAGS` bits 2:0, and the counters advanced. -/
def Dev.rxErrors (d : Dev) (n len : Nat) (fcs code : Bool) : Bool × Nat × Dev :=
  let runt := decide (len + 4 < 64)
  let huge := decide (9216 < len)
  let long := decide (d.rd F.PORT_MAXLEN_MAX_LEN [n] < len) && !huge
  let d := if fcs then d.bump F.RX_FCS_ERR_COUNT [n] else d
  let d := if code then d.bump F.RX_CODE_ERR_COUNT [n] else d
  let d := if runt then d.bump F.RX_RUNT_COUNT [n] else d
  let d := if long || huge then d.bump F.RX_OVERSIZE_COUNT [n] else d
  let bad := runt || huge || (fcs && !d.on F.PORT_CFG_BAD_FCS [n]) || (code && !d.on F.PORT_CFG_BAD_CODE [n]) ||
    (long && !d.on F.PORT_CFG_BAD_LONG [n])
  (bad, fcs.toNat + 2 * code.toNat + 4 * long.toNat, d)

/-- Advance a 64-bit octet counter (R332) (DEDUCED, log entry 67). -/
def Dev.octets (d : Dev) (lo hi : Fld) (n len : Nat) : Dev :=
  let v := min (2 ^ 64 - 1) (d.rd lo [n] + 2 ^ 32 * d.rd hi [n] + len)
  let d := (d.wr lo [n] (v % 2 ^ 32)).wr hi [n] (v / 2 ^ 32)
  { d with pendReads := noteAdded (regKey lo.reg [n]) len d.pendReads }

/-- The instant less a port's latency, in 2⁻¹⁶ ns of the domain's time (R343). -/
def Dev.rxStamp (d : Dev) (n sof : Nat) : Int := d.timeAt 0 sof - toInt 24 (d.rd F.PORT_LAT_RX_LAT [n]) * 256

/-- An Ethernet frame has been received, through the stages of R288 in their order: stamped, filtered, decrypted, checked, committed
whole or not at all (R296). -/
def ethReceive (n sof : Nat) (f : EthFrame) (sr : Strongroom) (d : Dev) : Dev :=
  if !d.routes ∨ !d.portOn n ∨ !d.portUp n ∨ (d.gate (ethPart n)).st = 2 then d
  else if !d.addrPasses n f.bytes then d.bump F.RX_ADDR_FILTERED_COUNT [n]
  else if etherType f.bytes = 0x8808 then d.bump F.RX_MAC_CONTROL_COUNT [n]
  else
    match d.secIngress sr n sof f.bytes with
    | (.rewind, d) => d.rewindPacket (ethPart n) f.bytes.length
    | (.take b sec, d) =>
      let (bad, flags, d) := d.rxErrors n f.bytes.length f.fcsErr f.codeErr
      if bad then d.rewindPacket (ethPart n) (min 9216 f.bytes.length)
      else
        let t := splitTime (d.rxStamp n sof)
        let node := if 12 ≤ n ∧ d.on F.PLCA_CFG_PLCA_EN [n] ∧ d.on F.LINK_STATUS_PLCA_ACTIVE [n] then f.nodeId else 0xFF
        match d.commit { data := b, kind := .eth, res := ethPart n, writer := ethPart n, stampSec := t.1, stampNs := t.2.1,
                         stampAt := sof, stampOff := -(toInt 24 (d.rd F.PORT_LAT_RX_LAT [n]) * 256),
                         bad := flags, sec, nodeId := node } with
        | none => d.dropNoCell (ethPart n)
        | some (_, d) => (d.bump F.RX_OK_COUNT [n]).octets F.RX_OCTETS_LO_COUNT F.RX_OCTETS_HI_COUNT n (f.bytes.length + 4)

/-! ### Windows and the shaper (R302–R305) -/

/-- A window edge: the gate of a service class on a port follows the windows (R302) (DEDUCED, log entry 70). -/
def windowEdge (n cls : Nat) (d : Dev) : Dev :=
  let d := d.creditsNow n
  let open_ := d.windowOpen n cls
  d.modPort n fun p => { p with shut := p.shut.filter (· != cls) ++ (if open_ then [] else [cls]) }

/-- The gates of a port as its windows stand now. -/
def portEdges (n : Nat) (d : Dev) : Dev := if d.portOn n then [0, 1, 2].foldl (fun d c => windowEdge n c d) d else d

/-- Window edges at a transit boundary, for every port; heads that outlast their windows leave, and those that this boundary lets out at a
port that is off (R302, R304, R307). -/
def portsBoundary (d : Dev) : Dev := (List.range 20).foldl (fun d n => settlePort n (portEdges n d)) d

/-! ### Selection and transmission (R299–R303, R361–R365) -/

/-- The 8 bytes of a preamble with its delimiter, on the medium. -/
def Dev.preamble (d : Dev) (n : Nat) : Nat := d.byteTime n 8

/-- Has a full-duplex port been idle for as long as a preamble takes? -/
def Dev.portIdle (d : Dev) (n : Nat) : Bool := decide (n < 12) && decide ((d.port n).busyUntil + d.preamble n ≤ d.now)

/-- The time in a domain at which a delimiter sent now passes the reference plane of a port (R343). -/
def Dev.planeTime (d : Dev) (n dom loc : Nat) : Int := d.timeAt dom loc + toInt 24 (d.rd F.PORT_LAT_TX_LAT [n]) * 256

/-- May a frame go by its launch time (R364)? On a full-duplex port that is idle its delimiter would pass the reference plane at that time
or after it; elsewhere the time itself must have come. -/
def Dev.launchReady (d : Dev) (n : Nat) (t : TimingBlock) : Bool :=
  !t.launchEn || (if d.portIdle n then decide (launchTime t ≤ d.planeTime n t.domain d.now) else d.launchDue t)

/-- Does the head of a full-duplex port that has been idle leave at its launch time itself, its preamble sent ahead (R364)? -/
def Dev.onLaunch (d : Dev) (n : Nat) (p : Packet) : Bool :=
  match p.timing with
  | none => false
  | some t => t.launchEn && d.portIdle n && d.launchReady n t && decide (d.planeTime n t.domain d.now ≤ launchTime t + 4 * nsUnit)

/-- The instant at which the delimiter of a frame passes that is chosen now: its preamble goes before it (R287) (DEDUCED,
DEDUCED, log entry 66). -/
def Dev.delimAt (d : Dev) (n : Nat) (p : Packet) : Nat := if d.onLaunch n p then d.now else d.now + d.preamble n

/-- Is a traffic class eligible (R299)? -/
def Dev.tcEligible (d : Dev) (n k : Nat) : Bool :=
  match d.tcHead n k with
  | none => false
  | some e =>
    let p := d.pkt e.handle
    let cls := d.tcClass n k
    let gate := !(d.port n).shut.contains cls
    let credit := !d.shaped n k || decide (0 ≤ (sget (d.port n).tc k).credit)
    let fits := match d.gateCloses n cls with
      | none => true
      | some t => decide (d.delimAt n p + d.byteTime n (wireBytes (d.sentLen n p.data)) ≤ t)
    let launch := match p.timing with
      | some t => d.launchReady n t
      | none => true
    gate && credit && fits && launch

/-- The class chosen: the highest eligible one. -/
def Dev.chooseTc (d : Dev) (n : Nat) : Option Nat := [7, 6, 5, 4, 3, 2, 1, 0].find? fun k => d.tcEligible n k

/-- Ones'-complement sum of the 16-bit words of a byte string. -/
def sum16 (l : List Byte) : Nat := ((List.range (cdiv l.length 2)).map fun i => ofBe (slice l (2 * i) 2)).sum

/-- Fold carries. -/
def fold16 (n : Nat) : Nat := let a := n / 65536 + n % 65536; let b := a / 65536 + a % 65536; b / 65536 + b % 65536

/-- Update a UDP checksum for changed bytes (R362), whole 16-bit words of the frame taken from the first changed one on: the
old words leave the sum and the new ones enter it. -/
def fixChecksum (old new : List Byte) (o : Nat) : List Byte :=
  if o = 0 then new
  else
    let c := ofBe (slice old o 2)
    let clear (l : List Byte) : List Byte := patch l o [0, 0]
    let s := (65535 - c) + fold16 (sum16 (clear new)) + (65535 - fold16 (sum16 (clear old)))
    patch new o (beBytes 2 (65535 - fold16 s))

/-- Add to a correctionField, saturating (R361). -/
def addCorrection (b : List Byte) (o : Nat) (x : Int) : List Byte :=
  let v := toInt 64 (ofBe (slice b (o + 8) 8)) + x
  let v := if v < -9223372036854775808 ∨ 9223372036854775807 < v then 9223372036854775807 else v
  patch b (o + 8) (beBytes 8 (ofInt 64 v))

/-- Insertion of the egress time (R361, R362). -/
def insertTime (t : TimingBlock) (egress : Int) (b : List Byte) : List Byte :=
  let o := t.ptpOffset
  let (s, ns, sub) := splitTime egress
  let new :=
    if t.insert = 1 then addCorrection (patch (patch b (o + 34) (beBytes 6 s)) (o + 40) (beBytes 4 ns)) o sub
    else if t.insert = 2 then
      addCorrection b o (egress - ((t.refSec : Int) * secUnits + (t.refNs : Int) * nsUnit + t.refSub))
    else b
  if t.insert = 0 then b else fixChecksum b new t.csumOffset

/-- The frame check sequence of a frame (R300). -/
def fcsOf (b : List Byte) : List Byte := leBytes 4 (crc32 b)

/-- Send the head of a class (R300, R305): insertion, MACsec, padding, FCS. The credit of its class falls from the preamble on. -/
def sendHead (n k : Nat) (e : QEntry) (sr : Strongroom) (d : Dev) : Dev :=
  let p := d.pkt e.handle
  let dom := match p.timing with | some t => t.domain | none => 0
  let delim := d.delimAt n p
  let egress := d.planeTime n dom delim
  let late := match p.timing with
    | some t => d.launchLate n k e t
    | none => false
  let d := if late then d.bump F.TX_LATE_COUNT [n] else d
  let b := match p.timing with | some t => insertTime t egress p.data | none => p.data
  let slot := if d.secured n b then some (d.rd F.TXSA_CTL_KEY_HANDLE [n, d.rd F.SECY_CFG_TX_AN [n]]) else none
  match d.secEgress sr n p.acc b with
  | (none, d) => d.dropHead n k e
  | (some b, d) =>
    let wire := b ++ List.replicate (60 - b.length) 0
    let dur := d.byteTime n (wireBytes wire.length)
    let d := d.fillStamp n e true egress
    let d := (d.emit (.ethFrame n (wire ++ fcsOf wire))).departed (d.tcQueue n k) e.tally
    let d := (d.bump F.TX_OK_COUNT [n]).octets F.TX_OCTETS_LO_COUNT F.TX_OCTETS_HI_COUNT n (wire.length + 4)
    let d := d.modPort n fun p => { p with busyUntil := delim + dur, wireUntil := delim + d.byteTime n (wireBytes wire.length - 12), wireKey := slot }
    let rate : Int := 1000 * (d.portMbps n : Int)
    let spent : Int := ((d.idleSlope n k : Int) - rate) * ((delim + dur - d.now : Nat) : Int) -
      rate * ((d.now + d.preamble n - delim : Nat) : Int)
    let d := d.modTc n k fun t =>
      { t with launched := false, leftAt := d.now, credit := if d.shaped n k then t.credit + spent else t.credit,
               upTo := if d.shaped n k then delim + dur else t.upTo }
    ((d.pop (d.tcQueue n k)).unref e.handle).settleClass n k

/-- Does a SHADOW unit send the head of a class: only a peer-delay message on a port of `PAIR_STBY_TX` (R676)? -/
def Dev.standbySends (d : Dev) (n k : Nat) : Bool := match d.tcHead n k with | some e => d.sendsFrom n (d.pkt e.handle) | none => false

/-- A packet that has reached the head of a class is kept by a SHADOW unit, and counted once (R676). -/
def Dev.keepHead (d : Dev) (n k : Nat) : Dev :=
  match d.tcHead n k with
  | some e => if e.held ∨ d.standbySends n k ∨ !d.tcEligible n k then d
    else ({ d with queues := smod d.queues (d.tcQueue n k) fun (g : Queue) =>
      { g with items := g.items.map fun x => if x = e then { x with held := true } else x } }).bump F.STBY_SUPPRESSED_COUNT
  | none => d

/-- A SHADOW unit's opportunity: heads that it does not send hold back no other class (R676). -/
def shadowOne (n : Nat) (sr : Strongroom) (d : Dev) : Dev :=
  let ks := [7, 6, 5, 4, 3, 2, 1, 0]
  let d := ks.foldl (fun d k => d.keepHead n k) d
  match ks.find? fun k => d.tcEligible n k && d.standbySends n k with
  | none => d
  | some k => match d.tcHead n k with | some e => sendHead n k e sr d | none => d

/-- The port selects and sends one frame (R299). -/
def transmitOne (n : Nat) (sr : Strongroom) (d : Dev) : Dev :=
  let d := settlePort n (d.creditsNow n)
  if !d.portOn n ∨ !d.portUp n ∨ !d.gateOpen (ethPart n) ∨ d.now < (d.port n).busyUntil then d
  else if d.quiet then shadowOne n sr d
  else
    match d.chooseTc n with
    | none => d
    | some k => match d.tcHead n k with | some e => sendHead n k e sr d | none => d

/-- Is the port able to use PLCA: T1S, PLCA on, its link up? -/
def Dev.plcaOn (d : Dev) (n : Nat) : Bool := decide (12 ≤ n) && d.portOn n && d.portUp n && d.on F.PLCA_CFG_PLCA_EN [n]

/-- Send one frame of a PLCA opportunity that may still send `left`; where no class is eligible none is sent. -/
def Dev.plcaSend (d : Dev) (n left : Nat) (sr : Strongroom) : Dev :=
  let d' := transmitOne n sr d
  if (d'.port n).busyUntil ≤ d.now then d' else d'.modPort n fun p => { p with burst := left - 1 }

/-- The port's own PLCA opportunity: it chooses and sends its first frame, or lets the opportunity pass (R310, R311). -/
def plcaOpportunity (n : Nat) (sr : Strongroom) (d : Dev) : Dev :=
  if d.routes ∧ d.plcaOn n ∧ d.on F.LINK_STATUS_PLCA_ACTIVE [n] then
    (d.modPort n fun p => { p with burst := 0 }).plcaSend n (1 + d.rd F.PLCA_CFG_MAX_BC [n]) sr
  else d

/-- May the port go on with its burst: it has frames left, and the pause since the end of its last frame is no longer than the burst
timer (R309, R310; PRESUMED, log entry 131)? -/
def Dev.burstOpen (d : Dev) (n : Nat) : Bool :=
  d.plcaOn n && d.on F.LINK_STATUS_PLCA_ACTIVE [n] && decide (0 < (d.port n).burst) &&
    decide (d.now + d.byteTime n 12 ≤ (d.port n).busyUntil + 100 * d.rd F.PLCA_BURST_BURST_TMR [n])

/-- A transmit opportunity of a full-duplex port, or of a T1S port without PLCA; with PLCA, one within the port's burst, whose frame is
chosen afresh (R299, R310, R312). -/
def transmitOpportunity (n : Nat) (sr : Strongroom) (d : Dev) : Dev :=
  if !d.routes then d
  else if 12 ≤ n ∧ d.on F.PLCA_CFG_PLCA_EN [n] then
    if d.burstOpen n then d.plcaSend n (d.port n).burst sr else d
  else transmitOne n sr d

/-! ### Link and PLCA state (R286, R307–R311) -/

/-- The event record of a change of `UP` or `PLCA_ACTIVE` (R308, R417). -/
def Dev.linkEvent (d : Dev) (n : Nat) : Dev :=
  d.event (d.rd F.PORT_CFG_OWNER [n]) 0x0017 0 (ethPart n)
    (detail16 (leBytes 1 (d.rd F.LINK_STATUS_UP [n]) ++ leBytes 1 (d.rd F.LINK_STATUS_PLCA_ACTIVE [n])))

/-- Set `PLCA_ACTIVE`, telling of a change. -/
def Dev.setPlca (d : Dev) (n : Nat) (v : Bool) : Dev :=
  if d.on F.LINK_STATUS_PLCA_ACTIVE [n] = v then d else (d.wr F.LINK_STATUS_PLCA_ACTIVE [n] v.toNat).linkEvent n

/-- A change of the link (R286, R307, R308): `resolved` is the rate that auto-negotiation gave, where it ran. A rate other than
the configured one keeps the link down with `MISMATCH`. A frame in transmission when the link falls is lost, and counted. Through a restart
`LINK_STATUS` stands as the mirror has it (R329). -/
def linkChange (n : Nat) (up plca : Bool) (resolved : Option Nat) (d : Dev) : Dev :=
  if !d.runs then d
  else
  let bad := match resolved with
    | some r => mbpsOf (portType n) (d.rd F.PORT_CFG_MODE [n]) (r % 8) != d.portMbps n
    | none => false
  let d := d.wr F.LINK_STATUS_MISMATCH [n] bad.toNat
  let d := match resolved with | some r => d.wr F.LINK_STATUS_RESOLVED [n] (r % 8) | none => d
  let up := up && !bad && d.portOn n
  let plca := plca && up && decide (12 ≤ n) && d.on F.PLCA_CFG_PLCA_EN [n]
  let same := d.on F.LINK_STATUS_UP [n] == up && d.on F.LINK_STATUS_PLCA_ACTIVE [n] == plca
  let d := (d.wr F.LINK_STATUS_UP [n] up.toNat).wr F.LINK_STATUS_PLCA_ACTIVE [n] plca.toNat
  let lost := d.now < (d.port n).wireUntil ∧ !up
  let d := if same then d else d.linkEvent n
  let d := if lost then (d.bump F.TX_LINK_DOWN_COUNT [n]).modPort n fun p => { p with busyUntil := d.now, wireUntil := d.now } else d
  if up then d else settlePort n d

/-- A coordinator sends its beacon (R311); a unit that does not drive, or does not run, sends none (R329, R660). -/
def plcaBeacon (n : Nat) (d : Dev) : Dev :=
  if d.routes ∧ d.plcaOn n ∧ d.rd F.PLCA_CFG_NODE_ID [n] = 0 ∧ !d.quiet ∧ d.gateOpen (ethPart n) then (d.emit (.beacon n)).setPlca n true else d

/-- A follower sees no beacon in time (R311). -/
def beaconLoss (n : Nat) (d : Dev) : Dev :=
  if d.runs ∧ d.plcaOn n ∧ d.rd F.PLCA_CFG_NODE_ID [n] ≠ 0 then d.setPlca n false else d

/-- The launch time of the head of a traffic class has come (R364). -/
def launchTimeComes (n k : Nat) (d : Dev) : Dev :=
  match d.tcHead n k with
  | none => d
  | some e =>
    match (d.pkt e.handle).timing with
    | some t => if t.launchEn ∧ d.launchReady n t then d.modTc n k fun x => { x with launched := true } else d
    | none => d

/-! ### Stamp reports (R368, R369) -/

/-- The oldest stamp report is posted to its tenant, or enters as a packet for the requesting engine (R369), of which the recorder takes no record
(DESIGN CHOICE, log entry 184). -/
def stampReport (n : Nat) (d : Dev) : Dev :=
  match d.stamps.find? fun x => x.port == n with
  | none => d
  | some x =>
    let d := { d with stamps := d.stamps.erase x }
    let d := d.modPort n fun p => { p with stampsHeld := p.stampsHeld - 1 }
    match x.tenant with
    | some t =>
      d.eventAt x.acc t 0x001B 0 (ethPart n)
        (leBytes 2 x.sub ++ leBytes 4 x.ns ++ leBytes 8 x.sec ++ leBytes 2 x.cookie)
        (x.sent.toNat + 2 * x.domain) (3 * d.peerHeld x.entered + 8 * x.companion.toNat)
    | none =>
      let (s, ns) := d.stamp 0 d.now
      match d.commit { data := stampBytes x, res := ethPart n, writer := ethPart n, stampSec := s, stampNs := ns, stampAt := d.now,
                       cls := { done := true, shelf := x.shelf } } with
      | none => d.dropNoCell (ethPart n)
      | some (h, d) => ({ d with toClassify := d.toClassify.filter (· != h) }).dispose h x.shelf 0

end Sys2Proof.Machine
end

