-- ==== Sys2Proof/Machine/Descriptor.lean ====
section
/-! DEFINITION. Descriptors of the host rings and cipher queues as their bytes spell them (R399–R406, R613). -/

namespace Sys2Proof.Machine

/-! ### The envelope (R399) -/

/-- `OPCODE`, `DFLAGS.CHAIN`, `DFLAGS.TIMING`, `DFLAGS.IRQ_NOW` and `TAG` of a slot. -/
def slotOp (s : List Byte) : Nat := byteAt s 0
def slotChain (s : List Byte) : Bool := bitAt (byteAt s 1) 0
def slotTiming (s : List Byte) : Bool := bitAt (byteAt s 1) 1
def slotIrq (s : List Byte) : Bool := bitAt (byteAt s 1) 2
def slotTag (s : List Byte) : Nat := ofLe (slice s 2 2)

/-- The address of the buffer that a slot names for the device to read (R401, R403, R613; bytes 16 to 23 for `TABLE`). -/
def slotAddr (s : List Byte) : Nat := ofLe (slice s (if slotOp s = 0x23 then 16 else 8) 8)

/-! ### Frames (R401) -/

/-- The slots that continue an item, up to the first without `CHAIN`; a slot that the operand does not hold is one of zeros. -/
def chainOf : List (List Byte) → List (List Byte)
  | [] => [[]]
  | s :: r => if slotChain s then s :: chainOf r else [s]

/-- The item that a `TX_FRAME` descriptor begins: its timing block in the slot behind it, then the slots that continue it. -/
def frameItem (h : HostRead) (first : List Byte) (rest : List (List Byte)) : Nat × List (Nat × Nat) × Body :=
  let timed := slotTiming first
  let more := if slotChain first then chainOf (if timed then rest.drop 1 else rest) else []
  let parts := first :: more
  let lens := parts.map fun s => ofLe (slice s 4 2)
  let total := lens.sum
  let slots := parts.length + timed.toNat
  let good := parts.all (fun s => slotOp s == 0x01) && lens.all (fun n => decide (1 ≤ n ∧ n ≤ 9216)) && decide (total ≤ 9216) &&
    decide (slots ≤ 8)
  let frame := ((lens.zip (List.range lens.length)).map fun x => slice (h.bufs.getD x.2 []) 0 x.1).flatten
  if good then (slots, parts.map fun s => (slotAddr s, ofLe (slice s 4 2)), .txFrame h.kind frame (if timed then timingOf (rest.getD 0 []) else none)) else (slots, [], .bad)

/-! ### The other descriptors (R403–R406, R613) -/

/-- Host bytes that a cipher descriptor names at `SRC`: IV, AAD, data, and for decrypt and verify the tag (R607, R613). -/
def cipherItem (h : HostRead) (op : Nat) (s : List Byte) : Nat × Body :=
  let tagLen := byteAt s 5
  let len := ofLe (slice s 24 4)
  let aad := ofLe (slice s 28 2)
  let iv := byteAt s 30
  let n := iv + aad + len + (if op % 2 = 1 ∧ op ≤ 0x43 then tagLen else 0)
  let body (src : List Byte) : Body := .cipher op { dst := ofLe (slice s 16 8), mode := byteAt s 4, tagLen, handle := ofLe (slice s 6 2),
                                                    length := len, aadLen := aad, ivLen := iv, src }
  if 16384 < len ∨ 1024 < aad then (0, body []) else (n, body (slice (h.bufs.getD 0 []) 0 n))

/-- The body of a descriptor of one slot, with the number of host bytes that it names. -/
def slotBody (h : HostRead) (s : List Byte) : Nat × Body :=
  let data (n : Nat) : List Byte := slice (h.bufs.getD 0 []) 0 n
  let op := slotOp s
  if op = 0x02 then
    let n := ofLe (slice s 16 2)
    if n < 9 ∨ 2064 < n then (0, .bad) else (n, .txFolio (byteAt s 4) (byteAt s 5) (bitAt (byteAt s 6) 0) (data n))
  else if op = 0x03 then (0, .cancel (byteAt s 4) (byteAt s 5))
  else if op = 0x20 then (0, .recTrigger)
  else if op = 0x21 then (0, .recReadout (byteAt s 4) (ofLe (slice s 8 6)) (ofLe (slice s 16 8)) (ofLe (slice s 24 4)))
  else if op = 0x22 then (0, .recRelease (byteAt s 4))
  else if op = 0x23 then
    let n := ofLe (slice s 12 2)
    (n, .table (byteAt s 4) (byteAt s 5) (ofLe (slice s 8 4)) (ofLe (slice s 16 8)) (data n))
  else if op = 0x24 then
    let n := ofLe (slice s 6 2)
    if 512 < ofLe (slice s 4 2) + n then (0, .bad) else (n, .indirect (ofLe (slice s 4 2)) n (data n))
  else if op = 0x25 then
    let n := if byteAt s 4 = 3 then 8 else if byteAt s 4 = 4 then 16 else 0
    (n, .stream (byteAt s 4) (ofLe (slice s 6 2)) ((List.range (n / 4)).map fun i => BitVec.ofNat 32 (ofLe (slice (data n) (4 * i) 4))))
  else if op = 0x26 then
    let n := if [1, 2, 5].contains (byteAt s 5) then 32 else 0
    (n, .macsec (byteAt s 4) (byteAt s 5) (byteAt s 6) (byteAt s 7) (data n))
  else if op = 0x27 then (0, .time (byteAt s 4) (byteAt s 5) (ofLe (slice s 8 8)) (ofLe (slice s 16 4)))
  else if op = 0x28 then (0, .channel (byteAt s 4) (byteAt s 5) (byteAt s 6))
  else if op = 0x30 then (0, .outCmd (outBlock (slice s 4 28)))
  else if 0x40 ≤ op ∧ op ≤ 0x45 then cipherItem h op s
  else (0, .bad)

/-- The item at the head of a ring, taken apart (R399–R406, R613). A descriptor other than `TX_FRAME` has no continuation (DEDUCED, log
entry 137) (DEDUCED, log entry 137). -/
def itemOf (h : HostRead) : HostItem :=
  let s := h.slots.getD 0 []
  let (slots, reads, body) :=
    if slotOp s = 0x01 then frameItem h s (h.slots.drop 1)
    else if slotChain s ∨ slotTiming s then (1, [], .bad)
    else let (n, b) := slotBody h s; (1, [(slotAddr s, n)], b)
  { slots, reads, bytes := 32 * slots + (reads.map Prod.snd).sum, tag := slotTag s, irqNow := slotIrq s, body, readOk := h.readOk }

/-- A slot of a receive ring: a valid `RX_BUF` has an address aligned to 64 bytes and every reserved field 0 (R405). -/
def postedOf (s : List Byte) : Posted :=
  let addr := ofLe (slice s 8 8)
  let reserved := byteAt s 1 / 8 == 0 && (slice s 4 4).all (· == 0) && (slice s 16 16).all (· == 0)
  { tag := slotTag s, addr, ok := slotOp s == 0x10 && addr % 64 == 0 && reserved, irq := slotIrq s }

end Sys2Proof.Machine
end

