-- ==== Sys2Proof/Machine/Host.lean ====
section
/-! DEFINITION. Host ports, tenants and rings: doorbells, fetch, the descriptors and commands, the release of their effects,
receive delivery, publication and interrupts (R376–R426, R611, R612, R793, R794). -/

namespace Sys2Proof.Machine

/-! ### Doorbells (R384–R388, R398, R420, R677) -/

/-- Part number of a host port (R427). -/
def hostPart (p : Nat) : Nat := 0x80 + p

/-- Does a port serve its tenants? Its link is up, and its gate lets its own requests out. -/
def Dev.serves (d : Dev) (p : Nat) : Bool := d.on F.HOST_PORT_ENABLE [p] && d.on F.HOST_PORT_LINK_UP [p] && d.gateOpen (hostPart p)

/-- The index that the host wrote, and the device's own, as the doorbell register shows them (R425). -/
def Dev.setIndex (d : Dev) (t r v : Nat) : Dev :=
  if r = cipherRing then d.wr F.CIPHER_DOORBELL_INDEX [t] v else d.wr F.DOORBELL_INDEX [t, r] v
def Dev.setDevIndex (d : Dev) (t r v : Nat) : Dev :=
  if r = cipherRing then d.wr F.CIPHER_DOORBELL_DEV_INDEX [t] v else d.wr F.DOORBELL_DEV_INDEX [t, r] v

/-- Address of a doorbell register in BAR2, as the model places BAR2 (R425, R623). -/
def bellAddr (t r : Nat) : Nat := 0x1000000 + 0x1000 * t + (if r = cipherRing then 0x800 else 8 * r)

/-- Kinds of ring that the host fills (R381); a cipher queue is one. -/
def isSubmission (k : Nat) : Bool := (1 ≤ k && k ≤ 4) || k == 8
def isDeviceRing (k : Nat) : Bool := k == 5 || k == 6

/-- A ring stalls (R420). -/
def Dev.stall (d : Dev) (t r cause index : Nat) : Dev :=
  let d := if r = cipherRing then (d.wr F.CIPHER_CTL_STALLED [t] 1).wr F.CIPHER_CTL_CAUSE [t] cause
    else (d.wr F.RING_CTL_STALLED [t, r] 1).wr F.RING_CTL_CAUSE [t, r] cause
  d.event t 0x0001 0 (if r = cipherRing then 0x40 else r) (detail16 (leBytes 1 cause ++ [0] ++ leBytes 2 index))

/-- Why a doorbell write is invalid, as a stall cause; 0 for a valid one (R387, R420). -/
def Dev.bellFault (d : Dev) (t r v : Nat) : Nat :=
  let n := d.ringSize t r
  let g := d.ring t r
  if n ≤ v then 1
  else if isSubmission (d.ringKind t r) then
    if (v + n - g.head) % n < (g.tail + n - g.head) % n then 2 else 0
  else if (g.published + n - g.consumer) % n < (v + n - g.consumer) % n then 3 else 0

/-- The driving unit takes a doorbell write: it is numbered, and a valid one replaces the previous one (R387, R388). -/
def Dev.takeBell (d : Dev) (t r v : Nat) : Dev :=
  if !d.ringOn t r ∨ d.ringStalled t r then d
  else
    let (acc, d) := d.number
    let cause := d.bellFault t r v
    if cause ≠ 0 then d.stall t r cause v
    else if isSubmission (d.ringKind t r) then
      (d.setIndex t r v).modRing t r fun g => { g with tail := v, dbs := g.dbs ++ [(v, acc)] }
    else
      let freed := decide ((d.ring t r).consumer ≠ v)
      let d := (d.setIndex t r v).modRing t r fun g => { g with consumer := v }
      if freed then d.flushLost t r else d

/-- `ARM` re-arms the interrupt of a completion or event ring (R419). -/
def Dev.takeArm (d : Dev) (t r : Nat) : Dev :=
  if d.ringOn t r ∧ !d.ringStalled t r ∧ isDeviceRing (d.ringKind t r) then d.modRing t r fun g => { g with armed := true } else d

/-- A write of a doorbell register reaches the device through a port: a foreign page drops it (R379), a restart keeps the
last one of each ring (R398), a unit that does not drive forwards it (R677), and a port whose BARs are not assigned takes none (R737). -/
def doorbell (port t r v : Nat) (arm : Bool) (d : Dev) : Dev :=
  if d.mode = .restart then
    if d.portOf t = port ∧ d.barsOn port then
      { d with doorbells := d.doorbells.filter (fun b => !(b.1 == t && b.2.1 == r && b.2.2.2 == arm)) ++ [(t, r, v, arm)] }
    else d
  else if !d.runs ∨ !d.barsOn port then d
  else if d.portOf t ≠ port then d.bump F.DB_FOREIGN_COUNT [port]
  else if !d.serves port then d
  else if d.quiet then d.sendLink (.doorbell port (bellAddr t r + (if arm then 4 else 0)) (if arm then 1 else v) allBits)
  else if arm then d.takeArm t r
  else d.takeBell t r v

/-- After a restart the kept doorbell writes are acted on (R398). -/
def Dev.replayBells (d : Dev) : Dev :=
  let l := d.doorbells
  l.foldl (fun d b => if b.2.2.2 then d.takeArm b.1 b.2.1 else d.takeBell b.1 b.2.1 b.2.2.1) { d with doorbells := [] }

/-! ### MSI-X (R376, R419, R738) -/

/-- A word of a port's MSI-X table. The mask bit of an entry, bit 0 of its fourth word, is 1 after reset, so the table is held
with that bit inverted (PRESUMED, log entry 138). -/
def Dev.msixWord (d : Dev) (port i : Nat) : Word :=
  sget d.msix (1024 * port + i) ^^^ (if i % 4 = 3 then 1 else 0)

/-- A vector of a port fires; one whose mask bit is set in the MSI-X table waits in the pending-bit array (PRESUMED, log entry 138). -/
def Dev.fireVector (d : Dev) (port v : Nat) : Dev :=
  if bitAt (d.msixWord port (4 * v + 3)).toNat 0 then
    { d with msixPend := if d.msixPend.contains (port, v) then d.msixPend else d.msixPend ++ [(port, v)] }
  else d.emit (.msix port v)

/-- A word of a port's MSI-X table is written; a vector that is pending and no longer masked fires. -/
def Dev.msixWrite (d : Dev) (port i : Nat) (v : Nat) : Dev :=
  let d := { d with msix := sput d.msix (1024 * port + i) (BitVec.ofNat 32 v ^^^ (if i % 4 = 3 then 1 else 0)) }
  if i % 4 = 3 ∧ !bitAt v 0 ∧ d.msixPend.contains (port, i / 4) then
    ({ d with msixPend := d.msixPend.filter (· != (port, i / 4)) }).fireVector port (i / 4)
  else d

/-- The function of a port is reset: its table and pending bits are as after a reset. -/
def Dev.msixReset (d : Dev) (port : Nat) : Dev :=
  { d with msix := d.msix.filter (fun e => e.1 / 1024 != port), msixPend := d.msixPend.filter (·.1 != port) }

/-! ### Enabling, disabling and resetting a ring (R381, R419, R422, R423) -/

/-- May a ring be enabled: its kind is not 0, and a submission ring's `CQ` names a completion ring (R381, R425)? -/
def Dev.mayEnable (d : Dev) (t r : Nat) : Bool :=
  let k := d.ringKind t r
  isDeviceRing k || (isSubmission k && d.ringKind t (d.ringCq t r) == 5)

/-- Write `ENABLE` of a ring (R419, R425, R623). -/
def Dev.enableRing (d : Dev) (t r : Nat) (on : Bool) : Dev :=
  let put (d : Dev) (v : Nat) : Dev := if r = cipherRing then d.wr F.CIPHER_CTL_ENABLE [t] v else d.wr F.RING_CTL_ENABLE [t, r] v
  if !on then put d 0
  else if d.ringOn t r then d
  else if d.mayEnable t r then (put d 1).modRing t r fun g => { g with armed := true }
  else d

/-- The completions of a submission ring that are written and will not be published are discarded (R422, R423). -/
def Dev.discardDone (d : Dev) (t s : Nat) : Dev :=
  if (d.ring t s).done_ = 0 then d
  else (d.modRing t s fun x => { x with open_ := x.open_ - x.done_, done_ := 0, doneAt := 0 }).syncDrained t s

/-- The submission rings that name a completion ring. -/
def Dev.namedBy (d : Dev) (t r : Nat) : List Nat :=
  (List.range 65).filter fun s => isSubmission (d.ringKind t s) && d.ringCq t s == r

/-- `RESET` of a disabled, drained ring (R423): the other registers of the ring stay. -/
def Dev.resetRing (d : Dev) (t r : Nat) : Dev :=
  let drained := if r = cipherRing then d.on F.CIPHER_CTL_DRAINED [t] else d.on F.RING_CTL_DRAINED [t, r]
  if d.ringOn t r ∨ !drained then d
  else
    let d := (d.setIndex t r 0).setDevIndex t r 0
    let d := if r = cipherRing then (d.wr F.CIPHER_CTL_STALLED [t] 0).wr F.CIPHER_CTL_CAUSE [t] 0
      else (d.wr F.RING_CTL_STALLED [t, r] 0).wr F.RING_CTL_CAUSE [t, r] 0
    let d := if isDeviceRing (d.ringKind t r) then (d.namedBy t r).foldl (fun d s => d.discardDone t s) d else d
    -- slots that items in hand have reserved stay so until their completions are decided (R390)
    d.modRing t r fun g => { reserved := g.reserved, era := g.era + 1 }

/-- A write of `RING_CTL` or `CIPHER_CTL` with `RESET` at 1 through a port: `RESET` acts on `ENABLE` as it stood before. -/
def ringReset (port t r : Nat) (enable : Bool) (d : Dev) : Dev :=
  if !d.runs ∨ !d.barsOn port then d
  else if d.portOf t ≠ port then d.bump F.DB_FOREIGN_COUNT [port]
  else if !d.serves port then d
  else if d.quiet then
    let a := if r = cipherRing then 0x1000000 + 0x1000 * t + 0x808 else 0x1000000 + 0x1000 * t + 0x408 + 16 * r
    d.sendLink (.doorbell port a (2 ^ 30 + (if enable then 2 ^ 31 else 0)) allBits)
  else (d.resetRing t r).enableRing t r enable

/-- The completions of items that a ring has in hand will be discarded, those that wait for their turn among them (R422). -/
def Dev.voidRing (d : Dev) (t r : Nat) : Dev :=
  if (d.ring t r).inflight = [] then d
  else d.modRing t r fun g => { g with void := g.void ++ (g.inflight.map (·.acc)).filter fun a => !g.void.contains a }

/-- The records of a completion or event ring that are written and not published are discarded (R422). -/
def Dev.dropRecords (d : Dev) (t r : Nat) : Dev :=
  if isDeviceRing (d.ringKind t r) ∧ (d.ring t r).write ≠ (d.ring t r).published then
    d.modRing t r fun g => { g with write := g.published, snap := g.published, unreported := 0, irqNow := 0, irqDue := false, waited := 0, era := g.era + 1 }
  else d

/-- Every ring of a port's tenants is disabled, and what its items would write is discarded (R422). -/
def Dev.portRingsOff (d : Dev) (p : Nat) : Dev :=
  (List.range 16).foldl (fun d t =>
    if d.portOf t = p then
      (List.range 65).foldl (fun d r => (((if d.ringOn t r then d.enableRing t r false else d).discardDone t r).voidRing t r).dropRecords t r) d
    else d) d

/-- A host port's link goes down, or its function is reset: every ring of its tenants is disabled, the completions and records of what
they hold are discarded, what the host set in the function is lost, and the gate leaves OPEN (R422, R445, R448). -/
def hostPortReset (p : Nat) (linkDown : Bool) (d : Dev) : Dev :=
  let d := if linkDown then d.wr F.HOST_PORT_LINK_UP [p] 0 else d
  ({ ((d.drain (hostPart p)).msixReset p) with pcie := sput d.pcie p default }).portRingsOff p

/-- A host port's link returns; its gate, once it has closed, opens at the next boundary (R422, R439, R448) (DEDUCED, log entry 61). -/
def hostPortLinkUp (p : Nat) (d : Dev) : Dev := d.wr F.HOST_PORT_LINK_UP [p] 1

/-! ### Fetch (R389–R394) -/

/-- Bytes that a tenant may have read in one transit (R393). -/
def Dev.byteBudget (d : Dev) (t : Nat) : Nat := d.rd F.TENANT_BUDGET_BYTE_BUDGET [t] * d.len / 1000

/-- `FETCH_MAX` of a ring. -/
def Dev.fetchMax (d : Dev) (t r : Nat) : Nat := if r = cipherRing then d.rd F.CQ_CFG_FETCH_MAX [t] else d.rd F.RING_CFG_B_FETCH_MAX [t, r]

/-- Has a ring an item to give in this transit? Receive rings are not read ahead (R405). -/
def Dev.wantsItem (d : Dev) (t r : Nat) : Bool :=
  let g := d.ring t r
  let k := d.ringKind t r
  d.ringOn t r && !d.ringStalled t r && isSubmission k && k != 2 && !g.stopped && g.head != g.snap &&
    decide (g.fetched < d.fetchMax t r) && d.on F.TENANT_CFG_ENABLE [t] && d.serves (d.portOf t)

/-- May its next item be read: a completion slot can be reserved for it (R389, R390)? -/
def Dev.readable (d : Dev) (t r : Nat) : Bool := d.wantsItem t r && d.canReserve t (d.ringCq t r)

/-- Accession number of the doorbell write that made the slot at the head available (R388, R391). -/
def Dev.bellOf (d : Dev) (t r : Nat) : Nat :=
  let n := d.ringSize t r
  let g := d.ring t r
  match g.dbs.find? fun b => decide (0 < (b.1 + n - g.head) % n) with | some b => b.2 | none => 0

/-- Is a ring before another in the order of reading (R391)? -/
def Dev.readsBefore (d : Dev) (a b : Nat × Nat) : Bool :=
  let ca := d.ringClass a.1 a.2
  let cb := d.ringClass b.1 b.2
  decide (ca < cb) || (ca == cb && accBefore (d.bellOf a.1 a.2) (d.bellOf b.1 b.2))

/-- The ring that the device reads next (R391). -/
def Dev.nextRing (d : Dev) : Option (Nat × Nat) :=
  ((d.kept.rings.map fun e => (e.1 / 65, e.1 % 65)).filter fun x => d.readable x.1 x.2).foldl (fun best x =>
    match best with
    | none => some x
    | some b => if d.readsBefore x b then some x else some b) none

/-- Slots from the head up to the snapshot. -/
def Dev.slotsLeft (d : Dev) (t r : Nat) : Nat :=
  let n := d.ringSize t r
  ((d.ring t r).snap + n - (d.ring t r).head) % n

/-- Does the item stop the ring's reading for this transit: it reaches beyond the snapshot, does not fit `FETCH_MAX`, or not
the remaining byte budget (R389)? -/
def Dev.itemWaits (d : Dev) (t r : Nat) (i : HostItem) : Bool :=
  let g := d.ring t r
  decide (d.slotsLeft t r < i.slots) || (decide (d.fetchMax t r < g.fetched + i.slots) && g.fetched != 0) ||
    (decide (i.bytes ≤ d.byteBudget t) && decide (d.byteBudget t < sget d.hostBytes t + i.bytes))

/-- Does a command's body keep the ranges that no state moves (R400, R794)? -/
def bodyRange : Body → Bool
  | .recReadout span _ _ _ => decide (span < 4) || span == 15
  | .recRelease span => decide (span < 4)
  | .table tbl op _ _ _ => decide (tbl < 6) && decide (1 ≤ op) && decide (op ≤ 3)
  | .indirect first count _ => decide (first + count ≤ 512)
  | .stream op i _ => decide (1 ≤ op) && decide (op ≤ 4) && decide (i < (if op = 1 ∨ op = 3 then 1024 else 512))
  | .macsec port op chn an _ => decide (port < 20) && decide (1 ≤ op) && decide (op ≤ 6) && (op == 1 || op == 3 || op == 4 || decide (chn < 4)) && decide (an < 4)
  | .time dom op _ _ => decide (dom < 4) && (op == 1 || op == 2)
  | .channel res op tbl => (op == 1 && decide (0x40 ≤ res ∧ res ≤ 0x57)) || (op == 2 && decide (0x60 ≤ res ∧ res ≤ 0x6F ∧ tbl < 4))
  | _ => true

/-- Opcodes of each kind of ring (R400, R613). -/
def bodyFits (kind : Nat) : Body → Bool
  | .txFrame _ _ _ | .txFolio _ _ _ _ | .cancel _ _ => kind == 1
  | .rxBuf _ => kind == 2
  | .outCmd _ => kind == 4
  | .cipher _ _ => kind == 8
  | .bad => false
  | _ => kind == 3

/-- An item is read: it enters, its slots count as read, and one completion slot is reserved (R390, R392, R394, R400). -/
def Dev.readItem (d : Dev) (t r : Nat) (i : HostItem) : Dev :=
  let n := d.ringSize t r
  let head := ((d.ring t r).head + max 1 i.slots) % n
  let db := d.bellOf t r
  let (_, d) := d.reserve t (d.ringCq t r)
  let (acc, d) := d.number
  let ref : HostRef := { tenant := t, ring := r, tag := i.tag, irqNow := i.irqNow, sqHead := head, acc, transit := d.kept.transit }
  let tooBig := decide (d.byteBudget t < i.bytes)
  let d := d.modRing t r fun g =>
    { g with head, fetched := g.fetched + max 1 i.slots, open_ := g.open_ + 1, inflight := g.inflight ++ [ref],
             stopped := g.stopped || decide (d.fetchMax t r < g.fetched + i.slots),
             -- a doorbell whose slots are all read is done with
             dbs := g.dbs.filter fun b => decide ((head + n - g.head) % n < (b.1 + n - g.head) % n) }
  let d := (d.setDevIndex t r head).syncDrained t r
  -- each descriptor and each payload is a read of its own (R436, R443)
  let d := (List.range i.slots).foldl (fun d _ => d.readHost (d.portOf t) 0 32) d
  let d := if tooBig then d else i.reads.foldl (fun d x => d.readHost (d.portOf t) x.1 x.2) d
  -- an operation of a cipher queue that is refused as it is read counts too (R624)
  let refuse (d : Dev) (code : Nat) : Dev := (if r = cipherRing then d.bump F.OPS_REFUSED_COUNT [t] else d).complete ref code
  if tooBig then refuse { d with hostBytes := smod d.hostBytes t (· + 32 * i.slots) } 0x10
  else
    let d := { d with hostBytes := smod d.hostBytes t (· + i.bytes) }
    if !i.readOk then refuse (d.stall t r 4 head) 0x12
    else if !bodyFits (d.ringKind t r) i.body ∨ !bodyRange i.body then refuse d 0x12
    else d.modRing t r fun g => { g with items := g.items ++ [{ ref, item := i, born := d.now, db, rights := d.rd F.TENANT_CFG_RIGHTS [t] }] }

/-- The device reads the next item of a ring, whose turn it is by R391, in the first quarter of the transit (R392). Where no completion
slot can be reserved for it, the ring is not read on, and `CQ_FULL` tells of it (R389, R418). -/
def fetchItem (t r : Nat) (h : HostRead) (d : Dev) : Dev :=
  let i := itemOf h
  if d.routes ∧ !d.quiet ∧ !d.park.committed ∧ d.now ≤ d.point 256 then
    if d.nextRing = some (t, r) then
      if d.itemWaits t r i then d.modRing t r fun g => { g with stopped := true } else d.readItem t r i
    else if d.wantsItem t r ∧ !d.canReserve t (d.ringCq t r) then
      (d.reserve t (d.ringCq t r)).2.modRing t r fun g => { g with stopped := true }
    else d
  else d

/-! ### Items in hand -/

/-- The item at the front of a ring that the device has read, where its body is chosen by `f`. -/
def Dev.frontItem (d : Dev) (t r : Nat) (f : Body → Bool) : Option Fetched :=
  if !d.runs ∨ d.quiet then none
  else match (d.ring t r).items with
    | x :: _ => if f x.item.body then some x else none
    | [] => none

def Dev.takeItem (d : Dev) (t r : Nat) : Dev := d.modRing t r fun g => { g with items := g.items.drop 1 }

/-- The conditions of R360 that do not depend on a queue. -/
def Dev.timingFits (d : Dev) (b : TimingBlock) (len : Nat) : Bool :=
  b.insert != 3 && !(b.insert != 0 && b.stampReq) && decide (b.ptpOffset + 44 ≤ len) && d.tdRuns b.domain &&
    (!b.launchEn || decide (launchTime b ≤ d.timeAt b.domain d.now + secUnits))

/-- Does the ring push its items to its own queue (R402)? -/
def Dev.directQueue (d : Dev) (t r : Nat) : Option Nat :=
  let q := d.rd F.RING_CFG_B_QUEUE [t, r]
  if d.on F.RING_CFG_A_DIRECT [t, r] && d.rd F.RING_CFG_A_CLASS [t, r] == 2 && d.rd F.QCFG_A_OWNER [q] == t then some q else none

/-- Commit the payload of a host item, which then passes the pipeline (R79, R392, R401); it entered when its last descriptor was read. -/
def Dev.commitHost (d : Dev) (f : Fetched) (p : Packet) : Dev :=
  let port := hostPart (d.portOf f.ref.tenant)
  let (s, n) := d.stamp 0 f.born
  let p := { p with
    acc := f.ref.acc, res := port, writer := port, transit := f.ref.transit, born := f.born, stampSec := s, stampNs := n, stampAt := f.born,
    host := some f.ref, tenant := f.ref.tenant }
  match d.storePkt p with
  | none => (d.rewound port).complete f.ref 0x11
  | some (h, d) => { d with toClassify := d.toClassify ++ [h] }

/-- The device commits what it has read within the first quarter of the transit of its entry (R392). -/
def Dev.inQuarter (d : Dev) (t r : Nat) : Bool :=
  match (d.ring t r).items with
  | f :: _ => f.ref.transit == d.kept.transit && decide (d.now ≤ d.point 256)
  | [] => false

/-- The payload of the `TX_FRAME` at the front of a ring is committed (R360, R401, R402). -/
def Dev.takeFrame (d : Dev) (t r : Nat) : Dev :=
  match d.frontItem t r fun b => match b with | .txFrame _ _ _ => true | _ => false with
  | none => d
  | some f =>
    match f.item.body with
    | .txFrame kind bytes timing =>
      let d := d.takeItem t r
      let direct := d.directQueue t r
      let good := match timing, direct with
        | none, _ => true
        | some b, none => d.timingFits b bytes.length
        | some b, some q => d.timingOk b bytes.length q
      if bytes.length = 0 ∨ 9216 < bytes.length ∨ 8 < f.item.slots ∨ good = false then d.complete f.ref 0x12
      else d.commitHost f { data := bytes, kind, timing, direct }
    | _ => d

/-- The frame of the `TX_FOLIO` at the front of a ring is committed: it passes the pipeline and goes to the folio at the boundary (R403). -/
def Dev.takeFolio (d : Dev) (t r : Nat) : Dev :=
  match d.frontItem t r fun b => match b with | .txFolio _ _ _ _ => true | _ => false with
  | none => d
  | some f =>
    match f.item.body with
    | .txFolio ch k rep bytes =>
      let d := d.takeItem t r
      if 24 ≤ ch ∨ 64 ≤ k ∨ bytes.length < 9 ∨ 2064 < bytes.length then d.complete f.ref 0x12
      else d.commitHost f { data := bytes, kind := .can, folio := some (ch, k, rep) }
    | _ => d

/-- `TX_FRAME` (R360, R392, R401, R402). -/
def txFrame (t r : Nat) (d : Dev) : Dev := if d.inQuarter t r then d.takeFrame t r else d

/-- `TX_FOLIO` (R392, R403). -/
def txFolio (t r : Nat) (d : Dev) : Dev := if d.inQuarter t r then d.takeFolio t r else d

/-- An item whose effect waits for the boundary that releases it (R396), unless `ok` refuses it. -/
def Dev.defer (d : Dev) (t r : Nat) (f : Fetched) (ok : Bool) : Dev :=
  let d := d.takeItem t r
  if ok then { d with release := d.release ++ [{ ref := f.ref, body := f.item.body, ready := d.releaseTransit }] } else d.complete f.ref 0x12

/-- An effect of a host item meets a gate that is not open and waits there, in order of arrival (R450, R452). A port all of whose serials
are in use issues it at the next boundary (R439). -/
def Dev.waitAtGate (d : Dev) (p : Nat) (e : Effect) : Dev :=
  let req := hostPart (d.portOf e.ref.tenant)
  match d.issue req p 1 with
  | none => { d with release := d.release ++ [{ e with ready := d.releaseTransit }] }
  | some (s, d) => d.modGate p fun g =>
      { g with waiting := g.waiting ++ [{ serial := s, requester := req, arrived := d.kept.transit, effect := some e }] }

/-- A cancel acts where the folio is (R404). -/
def Dev.doCancel (d : Dev) (ch k : Nat) (ref : HostRef) : Dev := let (code, d) := d.cancelFolio ch k; d.complete ref code

/-- `CANCEL` of a folio whose source is the tenant (R245, R404) (DEDUCED, log entry 14): it acts at once, at its channel's gate, as it is no
effect that R396 holds back. -/
def cancelItem (t r : Nat) (d : Dev) : Dev :=
  match d.frontItem t r fun b => match b with | .cancel _ _ => true | _ => false with
  | none => d
  | some f =>
    match f.item.body with
    | .cancel ch k =>
      let d := d.takeItem t r
      if 24 ≤ ch ∨ 64 ≤ k ∨ d.rd F.FOLIO_CFG_SOURCE [ch, k] ≠ 1 ∨ d.rd F.FOLIO_CFG_SRC_ID [ch, k] ≠ t then d.complete f.ref 0x12
      else if d.gateOpen (canPart ch) then (d.ask (hostPart (d.portOf t)) (canPart ch)).doCancel ch k f.ref
      else d.waitAtGate (canPart ch) { ref := f.ref, body := f.item.body }
    | _ => d

/-- What the quarter that has passed left to commit is committed as the transit ends: the device finishes every payload read of a transit
within it (R392) (DESIGN CHOICE, log entry 166). -/
def Dev.finishReads (d : Dev) : Dev :=
  d.kept.rings.foldl (fun d e =>
    let (t, r) := (e.1 / 65, e.1 % 65)
    if d.ringKind t r = 1 then e.2.items.foldl (fun d _ => cancelItem t r ((d.takeFrame t r).takeFolio t r)) d else d) d

/-- One slot of a receive ring as the device finds it (R405): the next slot of the ring, up to its tail. Its bytes count against the tenant's
budget, which holds no posted buffer back (R393, R405) (DESIGN CHOICE, log entry 167). -/
def postBuffer (t r : Nat) (slot : List Byte) (d : Dev) : Dev :=
  let n := d.ringSize t r
  let g := d.ring t r
  if d.routes ∧ !d.quiet ∧ d.ringOn t r ∧ !d.ringStalled t r ∧ d.ringKind t r = 2 ∧ g.posted.length < (g.tail + n - g.head) % n then
    { ((d.readHost (d.portOf t) 0 32).modRing t r fun g => { g with posted := g.posted ++ [postedOf slot] }) with hostBytes := smod d.hostBytes t (· + 32) }
  else d

/-- An output command of a host item is given to its die's arbiter: one that it carries completes later (R406). -/
def Dev.giveOut (d : Dev) (c : OutCmd) (ref : HostRef) : Dev :=
  let n := d.arb.length
  let (code, d) := d.outCmd c (.host ref)
  if n < d.arb.length then d else d.completeHeld ref code 0 (if code = 1 then 1 else 0)

/-- The output command at the front of a ring goes to its die (R406): one that meets the gate of a die link that is not open waits there
(R450). -/
def Dev.takeOut (d : Dev) (t r : Nat) : Dev :=
  match d.frontItem t r fun b => match b with | .outCmd _ => true | _ => false with
  | none => d
  | some f =>
    match f.item.body with
    | .outCmd c =>
      let d := d.takeItem t r
      let p := 0x70 + chanDie c.channel
      if (d.cmdLegs c).isSome ∧ !d.gateOpen p then d.waitAtGate p { ref := f.ref, body := f.item.body }
      else (if c.channel < 72 then d.ask (hostPart (d.portOf t)) p else d).giveOut c f.ref
    | _ => d

/-- `OUT_CMD` (R392, R406). -/
def outCmdItem (t r : Nat) (d : Dev) : Dev := if d.inQuarter t r then d.takeOut t r else d

/-- Output commands that the quarter left at the front of their rings reach their dies by the cut, as host commands are never late (R392,
R486) (DESIGN CHOICE, log entry 166). -/
def Dev.finishOuts (d : Dev) : Dev :=
  d.kept.rings.foldl (fun d e =>
    if d.ringKind (e.1 / 65) (e.1 % 65) = 4 then e.2.items.foldl (fun d _ => d.takeOut (e.1 / 65) (e.1 % 65)) d else d) d

/-! ### Commands (R114, R118, R120, R158, R169, R317, R319, R323, R328, R331, R351, R352, R380, R609, R794) -/

/-- A resource's CAN or LIN channel (R43). -/
def canOf (res : Nat) : Option Nat := if 0x40 ≤ res ∧ res ≤ 0x57 then some (res - 0x40) else none
def linOf (res : Nat) : Option Nat := if 0x60 ≤ res ∧ res ≤ 0x6F then some (res - 0x60) else none

/-- Is a schedule table of a LIN channel valid? -/
def Dev.linTableOk (d : Dev) (ch t : Nat) : Bool := d.on F.LIN_TABLE_VALID [ch, t]

/-- The right that a command needs, among those with which it was read (R380, R718); a table switch needs a valid table (R794). Its ranges were judged as it was read. -/
def Dev.commandOk (d : Dev) (t rights : Nat) : Body → Bool
  | .recTrigger | .recReadout _ _ _ _ | .recRelease _ => bitAt rights 1
  | .table _ _ _ _ _ | .indirect _ _ _ | .stream _ _ _ => bitAt rights 0
  | .macsec port _ _ _ _ => d.rd F.PORT_CFG_OWNER [port] == t
  | .time _ _ _ _ => bitAt rights 2
  | .channel res op tbl => bitAt rights 4 && (op == 1 || (match linOf res with | some ch => d.linTableOk ch tbl | none => false))
  | _ => false

/-- A command at the front of a command ring is executed in ring order; its effects wait for the boundary (R396). -/
def hostCommand (t r : Nat) (sel : Body → Bool) (d : Dev) : Dev :=
  match d.frontItem t r sel with
  | none => d
  | some f => d.defer t r f (d.commandOk t f.rights f.item.body)

/-- Write a stream filter from its register words (R317, R331). -/
def Dev.writeFilter (d : Dev) (i : Nat) (w : List Word) : Dev :=
  ((d.putWord R.SF_CTL [i] (w.getD 0 0).toNat).putWord R.SF_MATCH [i] (w.getD 1 0).toNat).filterWritten i

/-- The registers of a meter, in register order (R331). -/
def meterRegs : List RegDef := [R.MTR_CIR, R.MTR_CBS, R.MTR_EIR, R.MTR_EBS]

/-- Does a slot serve an association (R609)? -/
def Dev.saKeyOk (d : Dev) (sr : Strongroom) (port handle need : Nat) : Bool :=
  let k := sr.slot (handle % 512)
  handleOk handle && d.tgrant (d.rd F.PORT_CFG_OWNER [port]) handle && secKeyOk k (d.secKeyType port) need

/-- Install a transmit association (R609): fields of the 32-byte block. -/
def Dev.installTx (d : Dev) (n a : Nat) (b : List Byte) : Dev :=
  let d := (d.wr F.TXSA_PN_LO_V [n, a] (ofLe (slice b 0 4))).wr F.TXSA_PN_HI_V [n, a] (ofLe (slice b 4 4))
  let d := (d.wr F.TXSA_SSCI_V [n, a] (ofLe (slice b 8 4))).wr F.TXSA_SALT0_V [n, a] (ofLe (slice b 12 4))
  let d := (d.wr F.TXSA_SALT1_V [n, a] (ofLe (slice b 16 4))).wr F.TXSA_SALT2_V [n, a] (ofLe (slice b 20 4))
  ((d.wr F.TXSA_CTL_KEY_HANDLE [n, a] (ofLe (slice b 24 2))).wr F.TXSA_CTL_VALID [n, a] 1).wr F.TXSA_CTL_EXHAUSTED [n, a] 0

/-- Install a receive association. -/
def Dev.installRx (d : Dev) (n c a : Nat) (b : List Byte) : Dev :=
  let d := (d.wr F.RXSA_PN_LO_V [n, c, a] (ofLe (slice b 0 4))).wr F.RXSA_PN_HI_V [n, c, a] (ofLe (slice b 4 4))
  let d := (d.wr F.RXSA_SSCI_V [n, c, a] (ofLe (slice b 8 4))).wr F.RXSA_SALT0_V [n, c, a] (ofLe (slice b 12 4))
  let d := (d.wr F.RXSA_SALT1_V [n, c, a] (ofLe (slice b 16 4))).wr F.RXSA_SALT2_V [n, c, a] (ofLe (slice b 20 4))
  ((d.wr F.RXSA_CTL_KEY_HANDLE [n, c, a] (ofLe (slice b 24 2))).wr F.RXSA_CTL_VALID [n, c, a] 1).wr F.RXSA_CTL_EXHAUSTED [n, c, a] 0

/-- A `MACSEC` command acts (R323, R328, R609): its code. The spec does not say how a removal names a transmit association: it
is the transmit one where the receive channel is not 0 to 3 (DEDUCED, log entry 30). -/
def Dev.macsecOp (d : Dev) (sr : Strongroom) (port op chn an : Nat) (b : List Byte) : Nat × Dev :=
  let h := ofLe (slice b 24 2)
  if op = 1 then if d.saKeyOk sr port h useEncrypt then (0, d.installTx port an b) else (0x12, d)
  else if op = 2 then if d.saKeyOk sr port h useDecrypt then (0, d.installRx port chn an b) else (0x12, d)
  else if op = 3 then (0, if chn < 4 then d.wr F.RXSA_CTL_VALID [port, chn, an] 0 else d.wr F.TXSA_CTL_VALID [port, an] 0)
  else if op = 4 then (0, d.wr F.SECY_CFG_TX_AN [port] an)
  else if op = 5 then
    (0, ((d.wr F.RXSC_SCI_LO_SCI [port, chn] (ofLe (slice b 0 4))).wr F.RXSC_SCI_HI_SCI [port, chn] (ofLe (slice b 4 4))).wr F.RXSC_CTL_VALID [port, chn] 1)
  else (0, d.wr F.RXSC_CTL_VALID [port, chn] 0)

/-- A readout (R118, R119): what is copied, and the completion's result; of a span that is not pinned, or with nothing to copy, 0 bytes
and the accession numbers 0 (DESIGN CHOICE, log entry 120). -/
def Dev.readout (d : Dev) (span frm limit : Nat) : List Byte × List Byte :=
  let rs := takeRecs frm (d.spanRecs span) limit
  let bytes := (rs.map Rec.bytes).flatten
  let first := match rs.head? with | some r => r.acc | none => 0
  let last := match rs.getLast? with | some r => r.acc | none => 0
  (bytes, leBytes 6 first ++ leBytes 6 last ++ leBytes 4 bytes.length)

/-- The part whose gate an effect passes, if any. -/
def effectPart : Body → Option Nat
  | .txFolio ch _ _ _ => some (canPart ch)
  | .cancel ch _ => some (canPart ch)
  | .channel res _ _ => some res
  | .macsec port _ _ _ _ => some (0x20 + port)
  | _ => none

/-- The part that carries out a command whose effect passes no gate (R427, R429). -/
def commandPart : Body → Option Nat
  | .recTrigger | .recReadout .. | .recRelease _ => some 0x96
  | .table .. | .indirect .. | .stream .. => some 0x7E
  | .time .. => some 0x91
  | _ => none

/-- A released effect acts, at its accession number where it has one (R396, R403, R404, R793, R794) (DEDUCED, log entry 15). -/
def Dev.actEffect (d : Dev) (sr : Strongroom) (e : Effect) : Dev :=
  let t := e.ref.tenant
  match e.body with
  | .txFolio ch k rep _ =>
    let p := d.pkt e.handle
    let (code, d) := d.folioPut ch k 1 t rep p.kind p.data (some e.ref) p.acc
    (if code = 0 then d else d.complete e.ref code).unref e.handle
  | .cancel ch k => d.doCancel ch k e.ref
  | .outCmd c => d.giveOut c e.ref
  | .recTrigger => let (code, span, d) := d.trigger 0; d.complete e.ref code 0 0 (leBytes 1 span)
  | .recReadout span frm buf limit =>
    let (bytes, result) := d.readout span frm limit
    (d.writeHost t buf bytes).complete e.ref 0 0 0 result
  | .recRelease span => let (code, d) := d.number.2.releaseSpan span; d.complete e.ref code
  | .table tbl op i buf data =>
    let (acc, d) := d.number
    let (a, d) := d.tblOp tbl op i acc data
    let d := if op = 2 ∧ a.code = 0 ∧ !a.missing then d.writeHost t buf (a.data.take data.length) else d
    d.complete e.ref a.code 0 0 (leBytes 4 a.index ++ leBytes 1 a.missing.toNat)
  | .indirect first count l => ((d.number.2).indirect t first ((l.take count).map (·.toNat))).complete e.ref 0
  | .stream op i w =>
    let d := d.number.2
    let d := if op = 1 then d.filterWritten i
      else if op = 2 then d.clearRed i
      else if op = 3 then d.writeFilter i w
      else
        ((meterRegs.zip w).foldl (fun d x => d.putWord x.1 [i] x.2.toNat) d).meterWritten i
    d.complete e.ref 0
  | .macsec port op chn an b => let (code, d) := d.number.2.macsecOp sr port op chn an b; d.complete e.ref code
  | .time dom op sec ns =>
    if !d.tdRuns dom then d.complete e.ref 0x20
    else
      let d := d.tdApply dom
      let d := if op = 1 then d.giveSet dom sec ns else d.giveAccept dom
      let acc := d.acc
      let d := d.tdApply dom
      d.complete e.ref 0 0 0 (leBytes 6 acc)
  | .channel res op tbl =>
    let d := d.number.2
    match op, canOf res, linOf res with
    | 1, some ch, _ => (recoverCan ch d).complete e.ref 0
    | 2, _, some ch => (requestTable ch tbl d).complete e.ref 0
    | _, _, _ => d.complete e.ref 0x12
  | _ => d

/-- At a boundary, the effects that it releases act; one that meets a gate that is not open waits there (R396, R450). -/
def Dev.releaseEffects (sr : Strongroom) : List Effect → Dev → Dev
  | [], d => d
  | e :: l, d =>
    let d := match effectPart e.body with
      | none => (match commandPart e.body with | some p => d.ask (hostPart (d.portOf e.ref.tenant)) p | none => d).actEffect sr e
      | some p => if d.gateOpen p then (d.ask (hostPart (d.portOf e.ref.tenant)) p).actEffect sr e else d.waitAtGate p e
    Dev.releaseEffects sr l d

/-- A boundary that opens transit `m` with a complete delta releases what was due at it, here and in what a withdrawal would return to
(R396, R398). -/
def Kept.released (k : Kept) (m : Nat) : Kept :=
  { k with rings := smap (fun _ g => { g with unreleased := g.unreleased.filter fun u => decide (m < u.ready) }) k.rings }

/-- What a boundary without a complete delta would have released waits for the next one: entries of queues, and folios (R396). -/
def Dev.withhold (d : Dev) : Dev :=
  let m := d.kept.transit
  let later (n : Nat) : Nat := if n = m then m + 1 else n
  { d with
    queues := smap (fun _ q => { q with items := q.items.map fun e => { e with ready := later e.ready }
                                        ext := q.ext.map fun x => (x.1, { x.2 with ready := later x.2.ready }) }) d.queues
    can := smap (fun _ c => { c with folios := smap (fun _ f => { f with ready := later f.ready }) c.folios }) d.can }

/-- The commands of a discarded latch set end WITHDRAWN (R398, R487). -/
def Dev.withdrawCommands (d : Dev) : Dev :=
  d.kept.rings.foldl (fun d e =>
    if d.ringKind (e.1 / 65) (e.1 % 65) = 4 then
      (e.2.unreleased.filter fun u => decide (u.ready ≤ d.kept.transit)).foldl (fun d u => d.withdrawItem (e.1 / 65) (e.1 % 65) u) d
    else d) d

/-- Does the delta that has come whole cover what a ring holds now: no record was written since its cut? In a pair the effects that the
boundary releases, and what they write, stand in the next delta only (R671). -/
def Dev.covers (d : Dev) (cut before : Sparse Ring) (i : Nat) : Bool :=
  !d.mirrors && (sget cut i).write == (sget before i).write && (sget cut i).era == (sget before i).era

/-- The records that the write-backs after this boundary publish: those of the delta that has come whole, with the completions of what the
boundary has released (R396, R397) (DEDUCED, log entry 176). `cut` holds the rings of that delta, `before` as they stood ahead of the release. -/
def Dev.snapRings (d : Dev) (cut before : Sparse Ring) : Dev :=
  d.modK fun k => { k with rings := smap (fun i g =>
    let t := i / 65
    if isDeviceRing (d.ringKind t (i % 65)) then
      let c := if d.covers cut before i then g else sget cut i
      if c.era = g.era then
        { g with snap := c.write, snapAcc := c.lastAcc, irqDue := g.irqDue || c.irqNow != 0, irqNow := g.irqNow - c.irqNow
                 waited := if g.unreported ≠ 0 then g.waited + 1 else 0 }
      else g
    else if d.covers cut before (65 * t + d.ringCq t (i % 65)) then { g with doneAt := g.done_ }
    else { g with doneAt := if (sget cut i).era = g.era then min g.done_ (sget cut i).done_ else 0 }) k.rings }

/-- An effect acts at the gate that opens to it (R452). -/
def Dev.actEffects (d : Dev) (sr : Strongroom) (e : Effect) : Dev := d.both fun d => d.actEffect sr e

/-- A boundary releases the effects of host items with the delta of the transit that it ends, and nothing where that delta is not
complete (R396, R487, R671). What a withdrawal returns to has them as well: they are released, and end as they have (R398). -/
def Dev.releaseDue (d : Dev) (sr : Strongroom) (whole : Bool) : Dev :=
  let m := d.kept.transit
  if whole then
    let due := d.release.filter fun e => decide (e.ready ≤ m)
    let d := { d with kept := d.kept.released m, mirror := d.mirror.released m, release := d.release.filter fun e => decide (m < e.ready) }
    ((if due.isEmpty then d else d.both (Dev.releaseEffects sr due)).snapRings d.mirror.rings d.kept.rings)
  else d.withdrawCommands.withhold

/-! ### Receive delivery (R405, R409–R413) -/

/-- The first `k` valid buffers of a receive ring and the invalid slots among them: the slots taken; none where there are too
few. -/
def takeBuffers : Nat → List Posted → Option (List Posted)
  | 0, _ => some []
  | _ + 1, [] => none
  | k + 1, b :: l => (takeBuffers (if b.ok then k else k + 1) l).map (b :: ·)

/-- A completion of a receive ring is written: until it is published, the ring is not drained (R423). -/
def Dev.rxRecord (d : Dev) (t r acc : Nat) (irq : Bool) (bytes : List Byte) : Dev :=
  let cq := d.ringCq t r
  ((d.modRing t r fun g => { g with open_ := g.open_ + 1, done_ := g.done_ + 1 }).syncDrained t r).putRecord t cq acc irq fun a => .completion t cq a bytes

/-- The tenants' completion of one slot: a refused slot (R405). -/
def Dev.refuseSlot (d : Dev) (t r : Nat) (b : Posted) (head : Nat) : Dev :=
  let (acc, d) := d.number
  let ref : HostRef := { tenant := t, ring := r, tag := b.tag, sqHead := head, acc, transit := d.kept.transit }
  d.rxRecord t r acc b.irq (completionBytes ref 0x12 0 0 [])

/-- Take slots off the front of a receive ring, refusing the invalid ones. -/
def Dev.consumeSlots (t r : Nat) : List Posted → Dev → Dev
  | [], d => d
  | b :: l, d =>
    let head := ((d.ring t r).head + 1) % d.ringSize t r
    let d := (d.modRing t r fun g => { g with head, posted := g.posted.drop 1 }).setDevIndex t r head
    Dev.consumeSlots t r l (if b.ok then d else d.refuseSlot t r b head)

/-- The 32 bytes of a receive completion (R407, R409). -/
def Dev.rxCompletion (d : Dev) (t r k tag : Nat) (p : Packet) : List Byte :=
  let dom := d.rd F.RING_CFG_A_DOMAIN [t, r]
  let (s, n) := d.stampIn dom p
  let fl := d.peerHeld p.transit + (if p.companion then 8 else 0)
  let v := p.cls.verdict
  leBytes 2 tag ++ [0] ++ leBytes 1 fl ++ leBytes 1 r ++ leBytes 1 k ++ leBytes 2 (d.ring t r).head ++ leBytes 6 p.acc ++
    leBytes 2 (p.data.length + 16384 * dom) ++ leBytes 4 n ++ leBytes 2 s ++ leBytes 4 p.cls.hash ++ leBytes 2 p.cls.shelf ++
    leBytes 1 p.res ++ leBytes 1 ((v == 2).toNat + 2 * (v == 3).toNat) ++ leBytes 1 (p.bad + 8 * p.dropElig.toNat + p.sec) ++ leBytes 1 p.nodeId

/-- Write a frame contiguously across buffers. -/
def Dev.writeBuffers (t size : Nat) : List Posted → List Byte → Dev → Dev
  | [], _, d => d
  | b :: l, bytes, d =>
    if b.ok then Dev.writeBuffers t size l (bytes.drop size) (d.writeHost t b.addr (bytes.take size))
    else Dev.writeBuffers t size l bytes d

/-- The slots that the head packet of a receive ring can take now; none while it must wait (R405, R411). -/
def Dev.deliverable (d : Dev) (t r : Nat) (p : Packet) : Option (List Posted) :=
  let size := 2 ^ d.rd F.RING_CFG_A_BUF_SHIFT [t, r]
  let cq := d.ringCq t r
  if !d.ringOn t r ∨ d.ringStalled t r ∨ !d.ringOn t cq ∨ !d.serves (d.portOf t) then none
  else match takeBuffers (max 1 (cdiv p.data.length size)) (d.ring t r).posted with
    | none => none
    | some l =>
      let slots := 1 + (l.filter fun b => !b.ok).length
      if (d.ring t cq).reserved + slots ≤ d.freeSlots t cq then some l else none

/-- The packet at the head of the queue that feeds a receive ring of its owner (R410). -/
def Dev.rxHead (d : Dev) (t r : Nat) : Option QEntry :=
  let q := d.rd F.RING_CFG_B_QUEUE [t, r]
  if d.ringKind t r = 2 ∧ d.rd F.QCFG_A_OWNER [q] = t then d.front q else none

/-- The invalid slots that the device has reached complete while slots are free (R405). -/
def Dev.skipInvalid (t r : Nat) : List Posted → Dev → Dev
  | [], d => d
  | b :: l, d =>
    if !b.ok ∧ d.canReserve t (d.ringCq t r) then Dev.skipInvalid t r l (Dev.consumeSlots t r [b] d) else d

/-- Does a ring of the same port whose queue has an earlier class have a delivery to make (R414)? -/
def Dev.outranked (d : Dev) (t r : Nat) : Bool :=
  let cls (t r : Nat) : Nat := d.rd F.QCFG_A_CLASS [d.rd F.RING_CFG_B_QUEUE [t, r]]
  d.kept.rings.any fun e =>
    let (u, s) := (e.1 / 65, e.1 % 65)
    d.portOf u == d.portOf t && decide (cls u s < cls t r) &&
      match d.rxHead u s with | some x => (d.deliverable u s (d.pkt x.handle)).isSome | none => false

/-- A delivery (R411): the frame, its buffers and its completion at once. A port serves the classes of its queues in their order (R414). -/
def receiveDelivery (t r : Nat) (d : Dev) : Dev :=
  if !d.runs ∨ d.quiet ∨ d.outranked t r then d
  else
    match d.rxHead t r with
    | none => d
    | some e =>
      let d := if d.ringOn t r ∧ !d.ringStalled t r ∧ d.ringOn t (d.ringCq t r) then Dev.skipInvalid t r (d.ring t r).posted d else d
      let p := d.pkt e.handle
      match d.deliverable t r p with
      | none => d
      | some l =>
        let tag := match l.find? (·.ok) with | some b => b.tag | none => 0
        let k := (l.filter (·.ok)).length
        let d := Dev.consumeSlots t r l d
        let d := Dev.writeBuffers t (2 ^ d.rd F.RING_CFG_A_BUF_SHIFT [t, r]) l p.data d
        let c := d.rxCompletion t r k tag p
        let d := d.rxRecord t r p.acc (l.any fun b => b.ok && b.irq) c
        let q := d.rd F.RING_CFG_B_QUEUE [t, r]
        let d := d.modRing t r fun g => { g with starved := false, headAt := d.now }
        let d := d.pop q
        (d.unref e.handle).releaseBuckets

/-- The instant from which the head packet of a receive ring has waited (R412). -/
def Dev.rxWaits (d : Dev) (t r : Nat) (e : QEntry) : Nat :=
  max (d.ring t r).headAt (max e.pushed (if e.ready = 0 then 0 else d.tickStart - (d.kept.transit - e.ready) * d.len))

/-- A head packet that still waits after its hold, or that finds the ring starved, is dropped (R412, R413). -/
def ringStarved (t r : Nat) (d : Dev) : Dev :=
  if !d.runs ∨ d.quiet then d
  else
    match d.rxHead t r with
    | none => d
    | some e =>
      let p := d.pkt e.handle
      let late := decide (d.rxWaits t r e + d.rd F.RING_CFG_A_HOLD [t, r] * d.len / 16 ≤ d.now)
      if (d.deliverable t r p).isSome ∨ !((d.ring t r).starved || late) then d
      else
        let q := d.rd F.RING_CFG_B_QUEUE [t, r]
        let d := (d.bump F.RING_STARVED_COUNT [t, r]).modRing t r fun g =>
          { g with starved := true, headAt := d.now, drops := g.drops + 1, dropFirst := if g.drops = 0 then p.acc else g.dropFirst }
        ((d.pop q).unref e.handle).releaseBuckets

/-! ### Publication (R397, R419) -/

/-- Publish what was written before the boundary, within 5 µs of it; an armed ring that has a cause fires (R397, R419, R423) (DEDUCED, log entry 16). -/
def writeBack (t r : Nat) (d : Dev) : Dev :=
  let g := d.ring t r
  let n := d.ringSize t r
  let old := g.published
  let fresh := (g.snap + n - old) % n
  let count := d.rd F.RING_CFG_C_MOD_COUNT [t, r]
  let wait := d.rd F.RING_CFG_C_MOD_TIME [t, r]
  let told := g.unreported - (g.write + n - g.snap) % n
  let fires := g.armed && decide (0 < told) && (g.irqDue || (count != 0 && decide (count ≤ told)) || (wait != 0 && decide (wait ≤ g.waited)))
  if !d.runs ∨ d.quiet ∨ !d.strobeDue ∨ d.tickStart + 5000 < d.now ∨ !isDeviceRing (d.ringKind t r) ∨ !d.ringOn t r ∨ !d.serves (d.portOf t) ∨ (fresh = 0 ∧ !fires) then d
  else
    let d := (d.modRing t r fun g => { g with published := g.snap }).setDevIndex t r g.snap
    let d := d.emit (.writeBack t r (d.slotAddr t r n) g.snap g.snapAcc)
    -- a cipher operation whose completion is published is beyond a withdrawal (R616)
    let shown (g : Ring) : Ring := { g with unreleased := g.unreleased.filter fun u =>
      !(u.ready == untilPublished && (match u.slot with | some w => decide ((w + n - old) % n < fresh) | none => false)) }
    let d := if d.ringCq t cipherRing = r then
        let d := d.modRing t cipherRing shown
        { d with mirror := { d.mirror with rings := smod d.mirror.rings (65 * t + cipherRing) shown } }
      else d
    let subs := (d.namedBy t r).filter fun s => (d.ring t s).doneAt != 0
    let d := subs.foldl (fun d s =>
      (d.modRing t s fun x => { x with open_ := x.open_ - x.doneAt, done_ := x.done_ - x.doneAt, doneAt := 0 }).syncDrained t s) d
    if fires then
      (d.modRing t r fun g => { g with armed := false, unreported := g.unreported - told, waited := 0, irqDue := false }).fireVector
        (d.portOf t) (d.rd F.RING_CFG_B_VECTOR [t, r])
    else d

/-- Every ring at a transit boundary: the snapshots of submission rings, and the record of starved deliveries (R389, R413). -/
def ringsBoundary (d : Dev) : Dev :=
  let d := d.kept.rings.foldl (fun d e =>
    if e.2.drops = 0 then d
    else d.event (e.1 / 65) 0x0002 0x13 (e.1 % 65) (detail16 (leBytes 4 e.2.drops ++ leBytes 6 e.2.dropFirst))) d
  let d := d.modK fun k => { k with rings := smap (fun i g =>
    let snap := if isDeviceRing (d.ringKind (i / 65) (i % 65)) then g.snap else g.tail
    { g with snap, fetched := 0, stopped := false, drops := 0 }) k.rings }
  { d with hostBytes := [] }

/-! ### Time-outs (R441) -/

/-- The range of the completion timeout that a code of the function's Device Control 2 register names, in ns (PRESUMED, log entry 168). -/
def timeoutRange (code : Nat) : Nat × Nat :=
  if code = 1 then (50000, 100000) else if code = 2 then (1000000, 10000000)
  else if code = 5 then (16000000, 55000000) else if code = 6 then (65000000, 210000000)
  else if code = 9 then (260000000, 900000000) else if code = 10 then (1000000000, 3500000000)
  else if code = 13 then (4000000000, 13000000000) else if code = 14 then (17000000000, 64000000000)
  else (50000, 50000000)

/-- How long a DMA read of a port waits for its completion (R441): within the range that the host has chosen, the time is the device's
own. -/
def Dev.dmaLimit (d : Dev) (p : Nat) : Nat :=
  let code := (sget d.pcie p).cto
  let (lo, hi) := timeoutRange (code % 16)
  let limit := d.rd F.BRIDGE_TIMER_DMA_LIMIT * 10000
  if bitAt code 4 then limit else min limit (max lo (min hi (Config.completionTimeout code)))

/-- A DMA read of host memory, issued at `since`, receives no completion in time: it ends TIMED_OUT, its serial stays in use for its time,
and its ring stalls, unless it is stalled or disabled already (R420, R439, R441). An item whose payload read it was is in hand and completes
REFUSED_POLICY; `payload` says that the item at the front of the ring is the one. Host memory is no part of R427: the slip's target is the
port itself (PRESUMED, log entry 168). -/
def dmaTimeout (t r since : Nat) (payload : Bool) (d : Dev) : Dev :=
  let p := d.portOf t
  if !d.runs ∨ d.quiet ∨ d.now < since + d.dmaLimit p then d
  else
    let d := d.bump F.DMA_TIMEOUT_COUNT [p]
    let d := match d.issue (hostPart p) (hostPart p) 1 with | some (s, d) => d.endSlip (hostPart p) s | none => d
    let d := if d.ringOn t r ∧ !d.ringStalled t r then d.stall t r 4 (d.ring t r).head else d
    match payload, (d.ring t r).items with
    | true, f :: _ => (d.takeItem t r).complete f.ref 0x12
    | _, _ => d

end Sys2Proof.Machine
end

