-- ==== Sys2Proof/Machine/Protect.lean ====
section
/-! DEFINITION. Protection of the load channels: trips, lockout, energy accounts, retries, diagnoses, the thermal throttle,
supply, and hold with its safe states and reclaim (R462–R474, R498–R508). -/

namespace Sys2Proof.Machine

/-- A die logs what happens in a hold, up to 32 events, and counts further ones (R506). -/
def Dev.logDie (d : Dev) (die : Nat) (e : DieEvent) : Dev :=
  if (d.die die).logged < 32 then d.modDie die fun x => { x with log := x.log ++ [e], logged := x.logged + 1 }
  else d.bump F.HOLDS_COUNT [die]

/-- A die's or channel's event: logged while the die holds, posted otherwise (R506, R508). -/
def Dev.dieEvent (d : Dev) (die tenant code source : Nat) (detail : List Byte) (off : Bool := false) : Dev :=
  if (d.die die).hold ∨ !d.runs then
    d.logDie die { code, source, detail, at_ := d.now, change := if off then some ((d.chan source).change source 4) else none }
  else d.event tenant code 0 source (detail16 detail)

/-- A retry or a step of the throttle has changed a channel's output in a hold: the record of it waits for the reclaim (R498, R506). -/
def Dev.holdStep (d : Dev) (ch : Nat) : Dev :=
  let x := d.die (chanDie ch)
  if x.hold ∨ !d.runs then d.dieEvent (chanDie ch) 0 0 ch [] true else d

/-- An event of a channel goes to its owner. -/
def Dev.chanEvent (d : Dev) (ch code : Nat) (detail : List Byte) (off : Bool := false) : Dev :=
  d.dieEvent (chanDie ch) (d.chf F.CH_CFG_OWNER ch) code ch detail off

/-- A channel is locked out for a reason of event 0x0101. -/
def Dev.lockout (d : Dev) (ch reason : Nat) : Dev :=
  if (d.chan ch).locked then d
  else
    let was := (d.chan ch).outState != 0
    let d := d.changeChan ch 4 d.now fun c => { c with locked := true, inrushEnd := none, onSince := none }
    (d.bump F.LOCKOUTS_COUNT [chanDie ch, chanLocal ch]).chanEvent ch 0x0101 (leBytes 1 reason) was

/-- Charge a channel's energy account with `uj` µJ; above the class limit it is locked out at once (R468, R470). -/
def Dev.chargeEnergy (d : Dev) (ch uj : Nat) : Dev :=
  let now := d.now
  let d := d.modChan ch fun c => { c with account := c.accountAt ch now + uj * 10000, drained := now }
  if accountOf (chanClass ch) * 10000 < (d.chan ch).account then d.lockout ch 2 else d

/-- A clamp pulse has ended: its energy is charged, and above the single-pulse rating the channel locks out (R470). -/
def Dev.clampPulse (d : Dev) (ch uj : Nat) : Dev :=
  match pulseOf (chanClass ch) with
  | none => d
  | some lim =>
    let d := d.chargeEnergy ch uj
    if lim < uj then (d.bump F.CLAMP_EVENTS_COUNT [chanDie ch, chanLocal ch]).lockout ch 3 else d

/-- A sampled current as the channel's `GAIN` and `OFFSET` correct it, rounded down (R462, R511, R719) (DESIGN CHOICE, log entry 141). -/
def Dev.corrected (d : Dev) (ch : Nat) (raw : Int) : Int :=
  let o : Int := d.dieChf F.CH_CAL_OFFSET ch
  raw * d.dieChf F.CH_CAL_GAIN ch / 32768 + (if o < 32768 then o else o - 65536)

/-- The corrected current of a channel whose load tries to draw `raw` (R462, R463). -/
def Dev.sensed (d : Dev) (ch : Nat) (raw : Int) : Int := d.corrected ch (heldCurrent ch raw)

/-- `OC_LIMIT` of a channel in mA (R465, R509). -/
def Dev.ocLimit (d : Dev) (ch : Nat) : Int := d.dieChf F.CH_PROT_OC_LIMIT ch * (if chanClass ch = 0 then 250 else 100)

/-- A trip for a cause of event 0x0100, with the current in mA that the load tries to draw, which the channel has held at its limit, and
the energy charged at the limit (R463, R468, R469). -/
def tripChan (ch cause ma uj : Nat) (d : Dev) : Dev :=
  let c := d.chan ch
  if d.mode = .park ∨ c.outState = 0 then d
  else
    let transit := if d.now = d.tickStart then d.kept.transit else d.kept.transit + 1
    let now := d.now
    let d := d.changeChan ch 4 d.now fun c =>
      { c with tripped := true, limited := false, tempTrip := cause == 4, hot := c.hot || cause == 4, tripAt := now, tripTransit := transit,
               inrushEnd := none, onSince := none }
    let d := d.bump F.TRIPS_COUNT [chanDie ch, chanLocal ch]
    let d := d.chanEvent ch 0x0100 (leBytes 1 cause ++ leBytes 1 c.retryLeft ++ leBytes 2 ((d.sensed ch ma).toNat / 100)) true
    let d := if uj = 0 then d else d.chargeEnergy ch uj
    if c.retryLeft = 0 then d.lockout ch 1 else d

/-- Is the inrush window of a channel open (R466)? -/
def Dev.inInrush (d : Dev) (ch : Nat) : Bool :=
  match (d.chan ch).inrushEnd with | some t => decide (d.now < t) | none => false

/-- A short that began at `since` outlives its 10 µs; a channel that was shorted already when it turned on is switched off after its
blanking time (R464) (DEDUCED, log entry 84). -/
def shortTrip (ch since ma uj : Nat) (d : Dev) : Dev :=
  let blanked := match (d.chan ch).onSince with
    | some t => decide (since ≤ t) && decide (d.now < t + d.dieChf F.CH_PROT_BLANK ch * 10000)
    | none => false
  if blanked then d else tripChan ch 1 ma uj d

/-- From when on `OC_LIMIT` applies to a channel that has turned on: the end of its inrush window (R465, R466). -/
def Dev.ocFrom (d : Dev) (ch : Nat) : Nat :=
  match (d.chan ch).onSince with | some t => t + d.dieChf F.CH_LOAD_INRUSH ch * 500000 | none => 0

/-- Outside the inrush window, the corrected current has stayed above `OC_LIMIT` since `since`, which is for `OC_TIME` (R465); on a leg `ma` is
the magnitude. -/
def overcurrentTrip (ch ma since : Nat) (d : Dev) : Dev :=
  if d.inInrush ch ∨ d.sensed ch ma ≤ d.ocLimit ch ∨ d.now < max since (d.ocFrom ch) + d.dieChf F.CH_PROT_OC_TIME ch * 50000 then d
  else tripChan ch 2 ma 0 d

/-- The inrush window closes: a channel still at its limit trips (R466). -/
def inrushEnds (ch : Nat) (limited : Bool) (ma uj : Nat) (d : Dev) : Dev :=
  match (d.chan ch).inrushEnd with
  | none => d
  | some t =>
    if d.now < t then d
    else
      let d := d.modChan ch fun c => { c with inrushEnd := none, limited }
      if (d.chan ch).limited then tripChan ch 3 ma uj d else if uj = 0 then d else d.chargeEnergy ch uj

/-- Is it an instant of the own tick that a die keeps in a hold, at the transit length of its last strobe (R502)? (DEDUCED, log entry 110). -/
def Dev.onOwnTick (d : Dev) (die : Nat) : Bool :=
  let x := d.die die
  match x.strobeAt with
  | some a => x.hold && decide (a < d.now) && (d.now - a) % x.strobeLen == 0
  | none => false

/-- Is a retry due at this boundary (R25, R469), or at this instant of the die's own tick (R502)? -/
def Dev.retryDue (d : Dev) (ch : Nat) (temp : Int) : Bool :=
  let c := d.chan ch
  let x := d.die (chanDie ch)
  let n := d.dieChf F.CH_RETRY_RETRY_DELAY ch
  c.tripped && !c.locked && decide (0 < c.retryLeft) && (!c.tempTrip || decide (temp < 135)) &&
    (if x.hold then d.onOwnTick (chanDie ch) && decide (c.tripAt + n * x.strobeLen ≤ d.now)
     else decide (d.now = d.tickStart) && decide (c.tripTransit + n ≤ d.kept.transit))

/-- A tripped channel switches back on to the state it had (R469). -/
def retryChan (ch : Nat) (temp : Int) (d : Dev) : Dev :=
  if d.retryDue ch temp then
    (d.changeChan ch 4 d.now fun c =>
      d.openInrush ch c { c with tripped := false, tempTrip := false, hot := false, retryLeft := c.retryLeft - 1 }).holdStep ch
  else d

/-- The free-wheel path of a class H channel is missing: its output fell below −3 V after a turn-off, which is one of its PWM as well (R472). -/
def fwFault (ch : Nat) (d : Dev) : Dev :=
  if chanClass ch ≠ 0 ∨ d.driven ch d.now then d
  else (d.modChan ch fun c => { c with fwFault := true }).lockout ch 4

/-- Open load by the mean current over four consecutive transits (R473). -/
def openLoad (ch : Nat) (d : Dev) : Dev :=
  let c := d.chan ch
  if (d.die (chanDie ch)).crank ∨ (d.die (chanDie ch)).twin ∨ d.dieChf F.CH_PROT_OPEN_MA ch = 0 then d
  else if !c.openLoad ∧ c.onMeans.length = 4 ∧ c.onMeans.foldl (· + ·) 0 < 4 * (d.dieChf F.CH_PROT_OPEN_MA ch * 5 : Int) then
    ((d.modChan ch fun c => { c with openLoad := true }).bump F.OPEN_LOAD_COUNT [chanDie ch, chanLocal ch]).chanEvent ch 0x0102 (leBytes 1 1)
  else if c.openLoad ∧ 4 ≤ c.highRun then
    (d.modChan ch fun c => { c with openLoad := false }).chanEvent ch 0x0102 (leBytes 1 2)
  else d

/-- Off-state diagnosis: the output of an OFF channel reads above 3 V, or no longer (R473). -/
def offFault (ch : Nat) (high : Bool) (d : Dev) : Dev :=
  let c := d.chan ch
  if (d.die (chanDie ch)).crank ∨ (d.die (chanDie ch)).twin ∨ d.dieChf F.CH_CFG_OFF_DIAG ch = 0 ∨ c.outState ≠ 0 ∨ 64 ≤ ch ∨ c.offFault = high then d
  else (d.modChan ch fun c => { c with offFault := high }).chanEvent ch 0x0102 (leBytes 1 (if high then 3 else 4))

/-! ### The thermal throttle (R498, R499) -/

/-- Channels of a die in the throttle's order: lowest `PRIO`, then lowest number. -/
def Dev.byPrio (d : Dev) (die : Nat) (p : Nat → Bool) : List Nat :=
  (List.range 16).flatMap fun prio => (dieChans die).filter fun ch => d.dieChf F.CH_CFG_PRIO ch == prio && p ch

/-- The throttle's own duty, or none once the channel is back at its commanded duty. -/
def Chan.raised (c : Chan) : Option Nat :=
  match c.throttle with
  | none => none
  | some t => if c.dutyNow ≤ t + 256 then none else some (t + 256)

/-- One step of a die's throttle at a boundary (R498, R499): once the release has begun it goes on until the die is too hot again or every
channel is back. Among channels of one `PRIO` the one with the lowest number is raised first
(DESIGN CHOICE, log entry 171). -/
def throttleStep (die : Nat) (d : Dev) : Dev :=
  let x := d.die die
  let thr : Int := d.dieRd F.PD_THERMAL_THROTTLE_C [die]
  let rel : Int := d.dieRd F.PD_THERMAL_RELEASE_C [die]
  let tell (d : Dev) (what : Nat) : Dev :=
    d.dieEvent die (d.rd F.PD_CFG_EVT_TENANT [die]) 0x0103 (0x70 + die) (leBytes 1 what ++ leBytes 1 (ofInt 8 x.temp))
  if thr ≤ x.temp then
    let can (ch : Nat) : Bool :=
      let c := d.chan ch
      c.outState == pwmState ch && decide (0 < c.outDuty) && d.dieChf F.CH_CFG_CLASS ch != 0 && !d.inInrush ch
    match d.byPrio die can with
    | [] => d
    | ch :: _ =>
      let d := (d.changeChan ch 4 d.now fun c => { c with throttle := some (c.outDuty - 256) }).holdStep ch
      let d := (d.bump F.THROTTLE_STEPS_COUNT [die]).modDie die fun x => { x with releasing := false }
      if x.throttling then d else tell (d.modDie die fun x => { x with throttling := true }) 1
  else if x.throttling ∧ (x.releasing ∨ x.temp < thr - rel) then
    let held := (d.byPrio die fun ch => (d.chan ch).throttle.isSome).reverse
    let best := held.foldl (fun (b : Option Nat) ch =>
      match b with
      | none => some ch
      | some k => if d.dieChf F.CH_CFG_PRIO k = d.dieChf F.CH_CFG_PRIO ch then some ch else b) none
    let d := match best with
      | none => d
      | some ch => (d.changeChan ch 4 d.now fun c => { c with throttle := c.raised }).holdStep ch
    if (dieChans die).any fun ch => (d.chan ch).throttle.isSome then d.modDie die fun x => { x with releasing := true }
    else tell (d.modDie die fun x => { x with throttling := false, releasing := false }) 2
  else d

/-! ### Supply (R500, R501) -/

/-- VBAT crosses 6.0 V (R500). -/
def crankBand (die : Nat) (below : Bool) (d : Dev) : Dev :=
  if (d.die die).crank = below then d
  else
    let d := d.modDie die fun x => { x with crank := below }
    d.dieEvent die (d.rd F.PD_CFG_EVT_TENANT [die]) 0x0105 (0x70 + die) (leBytes 1 (if below then 1 else 2))

/-- How long a die's reservoir lasts at least, in ns, with `mv` the `VBAT` before the dip (R501, R766). -/
def reserveNs (mv : Nat) : Nat :=
  if 7400 ≤ mv then 50000000 else min 50000000 (242 * ((mv - 600) ^ 2 - 25000000) / 100)

/-- VBAT falls below 3.5 V, or returns to 4.0 V (R501). -/
def lowSeen (die : Nat) (below : Bool) (mv : Nat) (d : Dev) : Dev :=
  let now := d.now
  match (d.die die).reservoir, below with
  | none, true => (d.modDie die fun x => { x with reservoir := some now, reserve := reserveNs mv }).wr F.PD_STATUS_LOW_SEEN [die] 1
  | some t, false =>
    if t + 50000000 < d.now then d
    else
      let d := d.modDie die fun x => { x with reservoir := none }
      d.dieEvent die (d.rd F.PD_CFG_EVT_TENANT [die]) 0x0105 (0x70 + die) (leBytes 1 3)
  | _, _ => d

/-! ### Inputs of the dies (R513, R518, R521) -/

def Dev.input (d : Dev) (k : Nat) : Input := sget d.inputs k
def Dev.modInput (d : Dev) (k : Nat) (f : Input → Input) : Dev := { d with inputs := smod d.inputs k f }

/-- The die of an input, and of a group of eight (R22, R522). -/
def inputDie (k : Nat) : Nat := if k < 16 then 0 else if k < 32 then 1 else if k < 64 then 0 else 1
def groupDie (g : Nat) : Nat := inputDie (8 * g)

/-- A field of an input's registers as its die applies it: in a hold, as it stood when the hold began (R518, R730). -/
def Dev.swRd (d : Dev) (f : Fld) (k : Nat) : Nat :=
  let x := d.die (inputDie k)
  if x.hold then fldGet x.cfg f [k] else d.rd f [k]

/-- The recorder's record of an input change (R109). -/
def inputChange (k code : Nat) : List Byte := leBytes 1 k ++ leBytes 1 code ++ List.replicate 6 0
def Dev.recInput (d : Dev) (acc k code loc : Nat) : Dev := d.recChange acc 5 (inputDie k) loc (inputChange k code)

/-- Entering or leaving STUCK or CHATTER (R521): `what` is the detail of event 0x0141. The record holds state 2 or 3 on entry and
the debounced state on leaving. While the die holds or the device does not run, the die logs it with what it logs of its channels (R506, R518)
(DEDUCED, log entry 144). -/
def Dev.inputState (d : Dev) (k what : Nat) : Dev :=
  let code := if what = 1 then 2 else if what = 3 then 3 else (d.input k).value.toNat
  if (d.die (inputDie k)).hold ∨ !d.runs then
    d.logDie (inputDie k) { code := 0x0141, source := k, detail := leBytes 1 what, at_ := d.now, change := some (inputChange k code), input := true }
  else
    let (acc, d) := d.number
    (d.recInput acc k code d.now).eventAt acc (d.rd F.IN_DIE_EVT_TENANT [inputDie k]) 0x0141 0 k (detail16 (leBytes 1 what))

/-- An input whose `VALID` is 0 is switched off and reads inactive; it leaves STUCK and CHATTER (R513, R521). -/
def Dev.inputOff (d : Dev) (k : Nat) : Dev :=
  let x := d.input k
  let d := d.modInput k fun x => { last := x.last, rawAt := d.now, seenFrom := d.now }
  let d := if x.stuck then d.inputState k 2 else d
  if x.chatter then d.inputState k 4 else d

/-- A die that leaves a hold applies the present registers: its inputs without `VALID` are off (R503, R513). -/
def Dev.inputsOff (d : Dev) (die : Nat) : Dev :=
  (List.range 96).foldl (fun d k => if inputDie k = die ∧ !d.on F.SW_CFG_VALID [k] then d.inputOff k else d) d

/-! ### Hold (R502–R506) -/

/-- A die whose strobe is overdue enters hold (R502). -/
def holdDie (die : Nat) (d : Dev) : Dev :=
  let x := d.die die
  match x.strobeAt with
  | none => d
  | some t => if t + x.strobeLen * 65 / 64 + 2000 < d.now then d.enterHold die else d

/-- The safe state of a channel in a hold: for a leg of a bridge that of leg a (R504). -/
def Dev.safeOf (d : Dev) (ch : Nat) : Nat :=
  if d.bridged ch then d.dieChf F.CH_CFG_SAFE (dieChan (chanDie ch) (chanLocal ch / 2 * 2)) else d.dieChf F.CH_CFG_SAFE ch

/-- The hold window of a channel in ns (R504). -/
def Dev.holdWindow (d : Dev) (ch : Nat) : Nat :=
  (if d.dieChf F.CH_CFG_HOLD_SEL ch = 0 then d.dieRd F.PD_CFG_HOLD_A [chanDie ch] else d.dieRd F.PD_CFG_HOLD_B [chanDie ch]) * 1000000

/-- A channel's hold window ends: it takes its safe state (R504). -/
def holdWindowEnd (ch : Nat) (d : Dev) : Dev :=
  let x := d.die (chanDie ch)
  let c := d.chan ch
  let safe := d.safeOf ch
  if !x.hold ∨ c.safe ∨ d.now < x.holdSince + d.holdWindow ch then d
  else
    let stop (c : Chan) : Chan := { c with duty := c.dutyNow, rampLen := 0, rampPos := 0, safe := true }
    d.modChan ch fun c =>
      let c' := stop c
      if safe = 2 then c'
      else d.openInrush ch c { c' with state := (if safe = 0 then 0 else if ch < 64 then 1 else 2), baseOff := false }

/-- The log of a hold in order of time. -/
def sortEvents (l : List DieEvent) : List DieEvent :=
  l.foldl (fun m e => (m.filter fun x => decide (x.at_ ≤ e.at_)) ++ [e] ++ m.filter fun x => decide (e.at_ < x.at_)) []

/-- What the dies logged in a hold is numbered in the order it occurred; its recorder record, where the output changed, and its event
record follow (R506) (DEDUCED, log entry 98). What a die logged while the device booted is told as well. -/
def Dev.tellHold (d : Dev) (l : List DieEvent) : Dev :=
  (sortEvents l).foldl (fun d e =>
    let die := if e.input then inputDie e.source else if e.source < 72 then chanDie e.source else e.source % 2
    let (a, d) := d.number
    let d := match e.change with | some b => d.recChange a (if e.input then 5 else 4) die e.at_ b | none => d
    if e.code = 0 then d else d.eventAt a (if e.input then d.rd F.IN_DIE_EVT_TENANT [die] else if e.source < 72 then d.chf F.CH_CFG_OWNER e.source else d.rd F.PD_CFG_EVT_TENANT [die]) e.code 0 e.source (detail16 e.detail)) d

/-- Reclaim: a die's held state becomes the commanded and protected state (R505). After a hold under `TWIN_OK` nothing is reclaimed:
the channels are OFF (R679). -/
def Dev.reclaim (d : Dev) (die : Nat) : Dev :=
  let x := d.die die
  let own (k : Sparse Chan) : Sparse Chan := if x.twin then k else (dieChans die).foldl (fun m ch => sput m ch (d.chan ch)) k
  let d := d.modK fun k => { k with chans := own k.chans }
  (dieChans die).foldl (fun d ch =>
    if x.twin then d.modChan ch fun c => { c with safe := false }
    else if (d.chan ch).safe then
      let len := (d.now - x.holdSince) / 1000000
      let d := (d.modChan ch fun c => { c with safe := false }).recOutput ch 5 d.now
      d.event (d.chf F.CH_CFG_OWNER ch) 0x0104 0 ch (detail16 (leBytes 1 (d.safeOf ch) ++ leBytes 2 len))
    else d) d

/-- What dies have logged is told in one order of time (R506). -/
def Dev.tellDies (d : Dev) (dies : List Nat) : Dev :=
  let d := d.tellHold (dies.flatMap fun i => (d.die i).log)
  dies.foldl (fun d i => d.modDie i fun x => { x with log := [], logged := 0 }) d

/-- Reclaim of both dies after a restart (R505, R506). -/
def Dev.reclaimBoth (d : Dev) : Dev := ((d.tellDies [0, 1]).reclaim 0).reclaim 1

/-! ### The commit strobe -/

/-- A commit strobe reaches a die (R487, R678): a hold ends (R505), the latch set is applied, and the
die accepts commands. Legs are driven by the DRIVE unit alone,
and a unit without the DRIVE role outside SYNCHRONISED applies nothing (R667). -/
def Dev.strobeDie (d : Dev) (die : Nat) : Dev :=
  let mine := d.strobe.filter fun e => chanDie e.1 == die && (!d.quiet || (d.synced && decide (e.1 < 64)))
  let held := (d.die die).hold
  let d := if held then d.reclaim die else d
  let len := d.len
  let d := d.modDie die fun x => { x with hold := false, strobeAt := some d.now, strobeLen := len, ready := true, twin := d.synced }
  let d := if held then d.inputsOff die else d
  let d := mine.foldl (fun d e => d.applyLatch e.1 e.2) d
  d.emit (.strobe die d.kept.transit)

/-- The commit strobe at a boundary, to both dies together (R25, R487). It is no request, so that no gate holds it: a set whose part of the
delta is complete is applied while the die link is closed to requests as well (R427, R448). -/
def commitStrobe (d : Dev) : Dev :=
  let due := [0, 1].filter fun die => decide ((d.die die).strobeAt ≠ some d.now)
  if d.runs ∧ d.now = d.tickStart ∧ d.strobeDue ∧ d.active then
    due.foldl (fun d die =>
      let d := d.strobeDie die
      { d with strobe := d.strobe.filter fun e => chanDie e.1 != die }) (d.tellDies due)
  else d

/-! ### What the dies sense at a boundary (R462, R473, R498) -/

/-- Confine a current to its 16-bit form: unsigned on OUT channels, signed on legs (R462). -/
def currentField (ch : Nat) (ma : Int) : Nat :=
  if ch < 64 then (clampI ma 0 65535).toNat else ofInt 16 (clampI ma (-32768) 32767)

/-- The mean current of a transit while the channel is on, which in PWM is that of its on-phases, for the open-load diagnosis (R473)
(DEDUCED, log entry 139). -/
def Dev.openRuns (d : Dev) (ch : Nat) (current : Int) : Dev :=
  let mean : Int := if ch < 64 then current else current.natAbs
  let lim : Int := d.dieChf F.CH_PROT_OPEN_MA ch * 5
  let c := d.chan ch
  let on := c.outState != 0 && !c.baseOff && (c.outState != pwmState ch || c.outDuty != 0)
  if !on ∨ lim = 0 ∨ (d.die (chanDie ch)).crank ∨ (d.die (chanDie ch)).twin then
    d.modChan ch fun c => { c with onMeans := [], highRun := 0 }
  else d.modChan ch fun c =>
    { c with onMeans := (mean :: c.onMeans).take 4, highRun := if lim < mean then min 4 (c.highRun + 1) else 0 }

/-- What the dies sense for themselves, in a hold as well (R463, R469, R470, R498, R503): their temperatures, the channels that the
current limit holds with the energy that this charges, the clamp pulses, and the channels' sensors. -/
def dieSense (s : Sensed) (d : Dev) : Dev :=
  let d := (d.modDie 0 fun x => { x with temp := s.tempA }).modDie 1 fun x => { x with temp := s.tempB }
  let d := s.currents.foldl (fun d e =>
    let hit := decide (heldCurrent e.1 e.2.2 ≠ e.2.2) && (d.chan e.1).outState != 0
    if e.1 < 72 ∧ (d.chan e.1).limited ≠ hit then d.modChan e.1 fun c => { c with limited := hit } else d) d
  let d := s.limits.foldl (fun d e => if e.1 < 72 then d.chargeEnergy e.1 e.2 else d) d
  let d := s.clamps.foldl (fun d e => if e.1 < 72 then d.clampPulse e.1 e.2 else d) d
  s.chTemps.foldl (fun d e => if e.1 < 72 ∧ e.2 < 135 then d.modChan e.1 fun c => { c with hot := false } else d) d

/-- The mean currents that the open-load diagnosis takes, of the channels of some dies, in a hold as well (R473, R503). -/
def Dev.openMeans (s : Sensed) (dies : List Nat) (d : Dev) : Dev :=
  s.currents.foldl (fun d e =>
    if e.1 < 72 ∧ dies.contains (chanDie e.1) then
      d.openRuns e.1 (d.sensed e.1 (match s.onMeans.find? fun x => x.1 == e.1 with
        | some x => if (d.chan e.1).outState = pwmState e.1 then x.2 else e.2.1
        | none => e.2.1))
    else d) d

/-- Take the senses of the transit that ended. -/
def senseBoundary (s : Sensed) (d : Dev) : Dev :=
  let d := (d.wr F.PD_SENSE_VBAT [0] (min 65535 s.vbatA)).wr F.PD_SENSE_TEMP [0] (ofInt 8 s.tempA)
  let d := (d.wr F.PD_SENSE_VBAT [1] (min 65535 s.vbatB)).wr F.PD_SENSE_TEMP [1] (ofInt 8 s.tempB)
  let d := s.currents.foldl (fun d e =>
    if e.1 < 72 then
      let ix := [chanDie e.1, chanLocal e.1]
      (d.wr F.CH_CURRENT_MEAN ix (currentField e.1 (d.sensed e.1 e.2.1))).wr F.CH_CURRENT_PEAK ix (currentField e.1 (d.sensed e.1 e.2.2))
    else d) d
  dieSense s (d.openMeans s [0, 1])

/-- A die's work at a tick (R469, R480, R498). -/
def dieTick (die : Nat) (d : Dev) : Dev := throttleStep die (rampStep die d)

/-- The dies that follow the device's boundaries: those that do not hold. -/
def Dev.tickDies (d : Dev) : Dev := [0, 1].foldl (fun d i => if (d.die i).hold then d else dieTick i d) d

/-- The dies whose own tick in a hold falls on this instant and has not been served (R502). -/
def Dev.ownTicks (d : Dev) : List Nat := [0, 1].filter fun i => d.onOwnTick i && decide ((d.die i).tickAt < d.now)

/-- In a hold a die senses, and goes on with ramps and throttle, at its own tick (R502, R503); at a boundary of a running device it has
sensed already. -/
def Dev.holdTicks (s : Sensed) (d : Dev) : Dev :=
  let due := d.ownTicks
  if due = [] then d
  else
    let d := if d.runs ∧ d.now = d.tickStart then d else dieSense s (d.openMeans s due)
    due.foldl (fun d i => dieTick i (d.modDie i fun x => { x with tickAt := d.now })) d

end Sys2Proof.Machine
end

