-- ==== Sys2Proof/Machine/Park.lean ====
section
/-! DEFINITION. Switch inputs, sleep, park and wake (R513–R549). -/

namespace Sys2Proof.Machine

/-! ### Inputs (R513–R526) -/

/-- Is an input in use (R513)? -/
def Dev.swOn (d : Dev) (k : Nat) : Bool := decide (k < 96) && d.swRd F.SW_CFG_VALID k == 1

/-- The reported code (R521). -/
def Input.code (x : Input) : Nat := if x.chatter then 3 else if x.stuck then 2 else x.value.toNat

/-- Active time counts towards STUCK while the value is active, outside CHATTER and the crank band (R517, R520). -/
def Input.counts (x : Input) (crank : Bool) : Bool := x.value && !x.chatter && !crank

/-- Bring the active time up to an instant. -/
def Input.upTo (x : Input) (crank : Bool) (now : Nat) : Input :=
  { x with run := if x.counts crank then x.run + (now - x.runFrom) else x.run, runFrom := now }

/-- Is a die in the crank band? -/
def Dev.cranks (d : Dev) (die : Nat) : Bool := (d.die die).crank

/-- Bring every input of a die up to now, before its crank band begins or ends. -/
def Dev.inputsUpTo (d : Dev) (die : Nat) : Dev :=
  { d with inputs := smap (fun k x => if inputDie k = die then x.upTo (d.cranks die) d.now else x) d.inputs }

/-- The die's crank band with the inputs' timers (R500, R517). -/
def crankInputs (die : Nat) (below : Bool) (d : Dev) : Dev := crankBand die below (d.inputsUpTo die)

/-- Is an input covered by an entry of kind 0x07 (R522, R525); through an external reset, of the almanac before it (R518)? -/
def Dev.covered (d : Dev) (k : Nat) : Bool :=
  match d.alm.or d.boot.almWas with
  | none => false
  | some a => a.entries.any fun e => e.kind == 7 && e.resource == 0x70 + inputDie k && e.trigger % 16 == k / 8

/-- A wake role of an input, lost while it is STUCK or in CHATTER (R521, R527). -/
def Dev.role (d : Dev) (k : Nat) : Nat :=
  if 32 ≤ k ∨ (d.input k).stuck ∨ (d.input k).chatter ∨ !d.on F.SW_CFG_VALID [k] then 0 else d.rd F.SW_CFG_ROLE [k]

def Dev.inGuard (d : Dev) : Bool := d.rd F.PARK_STATUS_STATE == 1

/-- Sleep is aborted in GUARD; the first cause stands, and the boundary acts on it (R538). -/
def Dev.abortSleep (d : Dev) (cause idx : Nat) : Dev :=
  if d.inGuard then { d with park := { d.park with aborts := d.park.aborts ++ [(cause, idx, d.now)] } } else d

/-- Has `GUARD` ms passed since GUARD opened (R538)? -/
def Dev.guardOver (d : Dev) (t : Nat) : Bool := decide (d.park.guardAt + d.rd F.PARK_GUARD_GUARD * 1000000 ≤ t)

/-- What aborts the sleep at a boundary: at the commit, what came before it, since a wake of the same instant is a wake (R539). -/
def Dev.abortCause (d : Dev) : Option (Nat × Nat) :=
  ((d.park.aborts.filter fun a => decide (a.2.2 < d.now) || !d.guardOver d.now).head?).map fun a => (a.1, a.2.1)

/-- A debounced change that reverts before the next sample is missed (R518, R526) (DEDUCED, log entry 23). -/
def Dev.checkMissed (d : Dev) (k : Nat) : Dev :=
  if d.covered k && (d.input k).code == (d.input k).last then d.bump F.MISSED_COUNT [k] else d

/-- An input's debounced value takes a new raw value (R516, R517, R520, R526, R538): debouncing stands still in the crank band
and in CHATTER (DEDUCED, log entry 21). -/
def debounced (k : Nat) (v : Bool) (d : Dev) : Dev :=
  let x := d.input k
  if !d.swOn k ∨ d.cranks (inputDie k) ∨ x.chatter ∨ x.value = v ∨ d.mode = .park then d
  else
    let d := d.modInput k fun x => { x with value := v, run := 0, runFrom := d.now, stuck := false }
    let d := if x.stuck then d.inputState k 2 else d
    let d := d.checkMissed k
    let d := if v ∧ d.runs ∧ bitAt (d.rd F.REC_TRIG_SW_SW) k then d.trigger_ 2 else d
    if (d.role k ≠ 0 ∧ v) ∨ d.role k = 3 then d.abortSleep 2 k else d

/-- Does the comparator read a level in mV as low, as high, or as neither (R515)? -/
def Dev.reads (d : Dev) (k mv : Nat) : Option Bool :=
  let vbat := d.rd F.PD_SENSE_VBAT [inputDie k]
  let (low, high) := match d.swRd F.SW_CFG_THR k with
    | 0 => (35 * vbat, 55 * vbat)
    | 1 => (150000, 300000)
    | _ => (400000, 700000)
  if 100 * mv < low then some false else if high < 100 * mv then some true else none

/-- The raw value of a sample: active where the pin is low with `PULL` at 0, or high with `PULL` at 1, and the reverse with `INVERT`; between
the thresholds the reading before it stands (R513, R515). -/
def Dev.rawOf (d : Dev) (k : Nat) (before : Bool) (mv : Nat) : Bool :=
  match d.reads k mv with
  | none => before
  | some high => (high == (d.swRd F.SW_CFG_PULL k == 1)) != (d.swRd F.SW_CFG_INVERT k == 1)

/-- The newest `n` samples of runs of samples. -/
def newest (n : Nat) (l : List (Nat × Nat)) : List (Nat × Nat) :=
  (l.reverse.foldl (fun (x : Nat × List (Nat × Nat)) r => (x.1 - r.2, if x.1 = 0 then x.2 else (r.1, min r.2 x.1) :: x.2)) (n, [])).2

/-- One run of raw samples, which ends `after` samples before now: a change is a sample that differs from the one before it (R519). In the
crank band debouncing stands still, and samples that agree do not count towards it (R517). -/
def Dev.takeRun (d : Dev) (k : Nat) (x : Input) (level n after : Nat) : Input :=
  let v := d.rawOf k x.raw level
  let crank := d.cranks (inputDie k)
  if v = x.raw then { x with agree := if crank then x.agree else x.agree + n }
  else { x with raw := v, agree := if crank then 0 else n, edges := x.edges ++ [d.now - 10000 * (after + n - 1)] }

/-- The raw samples of an input up to now, every 10 µs, of which those that an earlier command has brought are dropped (R516). Where some are
missing, what debouncing and the end of CHATTER ask for begins again (DEDUCED, log entry 21). -/
def Dev.takeRaw (d : Dev) (k : Nat) (l : List (Nat × Nat)) : Dev :=
  let x := d.input k
  let want := (d.now - x.rawAt) / 10000
  let l := newest want l
  let got := (l.map (·.2)).sum
  let x := if got < want then { x with agree := 0, seenFrom := d.now - 10000 * got } else x
  let (x, _) := l.foldl (fun (y : Input × Nat) r => (d.takeRun k y.1 r.1 r.2 (y.2 - r.2), y.2 - r.2)) (x, got)
  let win := d.swRd F.SW_GUARD_CHAT_WIN k * 1000000
  d.modInput k fun _ => { x with rawAt := d.now, edges := x.edges.filter fun e => decide (d.now < e + win) }

/-- Raw samples of an input (R515, R516): its debounced value takes the raw value that every sample of `DEBOUNCE` × 0.1 ms, ten samples to
each 0.1 ms, agrees with. -/
def rawSamples (k : Nat) (l : List (Nat × Nat)) (d : Dev) : Dev :=
  if !d.swOn k ∨ d.mode = .park then d
  else
    let d := d.takeRaw k l
    let x := d.input k
    if max 1 (10 * d.swRd F.SW_CFG_DEBOUNCE k) ≤ x.agree then debounced k x.raw d else d

/-- More raw changes than `CHAT_EDGES` within `CHAT_WIN`, in the crank band as well (R517, R519, R521). -/
def chatterEnter (k : Nat) (l : List (Nat × Nat)) (d : Dev) : Dev :=
  if !d.swOn k ∨ d.mode = .park then d
  else
    let d := d.takeRaw k l
    let x := d.input k
    let edges := d.swRd F.SW_GUARD_CHAT_EDGES k
    if edges = 0 ∨ x.edges.length ≤ edges ∨ x.chatter then d
    else
      let d := d.modInput k fun x => { x.upTo (d.cranks (inputDie k)) d.now with chatter := true }
      (d.bump F.CHATTER_ENTRIES_COUNT [k]).inputState k 3

/-- A full `CHAT_WIN` with at most one raw change (R517, R519, R521): debouncing resumes from the current raw value, which a
debounced change then reports. -/
def chatterExit (k : Nat) (l : List (Nat × Nat)) (d : Dev) : Dev :=
  if !(d.input k).chatter ∨ d.mode = .park then d
  else
    let d := d.takeRaw k l
    let x := d.input k
    if d.now < x.seenFrom + d.swRd F.SW_GUARD_CHAT_WIN k * 1000000 ∨ 1 < x.edges.length ∨ d.cranks (inputDie k) then d
    else (d.modInput k fun x => { x with chatter := false, runFrom := d.now }).inputState k 4

/-- An input has been active for `STUCK_T` seconds (R520, R521). -/
def stuckEnter (k : Nat) (d : Dev) : Dev :=
  let x := (d.input k).upTo (d.cranks (inputDie k)) d.now
  let t := d.swRd F.SW_GUARD_STUCK_T k
  if t = 0 ∨ x.stuck ∨ !x.value ∨ x.chatter ∨ x.run < t * 1000000000 ∨ d.mode = .park then d
  else ((d.modInput k fun _ => { x with stuck := true }).bump F.STUCK_ENTRIES_COUNT [k]).inputState k 1

/-- One input at a sample instant (R524, R526). -/
def Dev.sampleOne (d : Dev) (k : Nat) : Dev :=
  let x := d.input k
  let c := x.code
  if c = x.last then d
  else
    let (acc, d) := d.number
    let d := (d.modInput k fun x => { x with last := c }).recInput acc k c d.now
    if d.on F.SW_CFG_NOTIFY [k] then d.eventAt acc (d.rd F.IN_DIE_EVT_TENANT [inputDie k]) 0x0140 0 k (detail16 (leBytes 1 c)) else d

/-- The sample instant of a group (R522, R524). -/
def inputSample (die g : Nat) (d : Dev) : Dev :=
  let due := match d.alm with
    | none => false
    | some a => a.entries.any fun e => e.kind == 7 && e.resource == 0x70 + die && e.trigger % 16 == g && d.activeNow e &&
        decide (d.point e.winOpen ≤ d.now)
  if !d.runs ∨ 12 ≤ g ∨ groupDie g ≠ die ∨ !due then d
  else ((List.range 8).map (8 * g + ·)).foldl (fun d k => d.sampleOne k) d

/-- The input part of the body image (R218): the codes of the last samples, 0 for an input that no entry covers (R525). -/
def Dev.inputImage (d : Dev) : List Byte :=
  (List.range 24).map fun i => BitVec.ofNat 8 (((List.range 4).map fun j => if d.covered (4 * i + j) then (d.input (4 * i + j)).last * 4 ^ j else 0).sum)

/-- `SW_STATE` (R521, R547). -/
def Dev.swState (d : Dev) (w : Nat) : Nat := ((List.range 16).map fun j => (d.input (16 * w + j)).code * 4 ^ j).sum

/-! ### Agreeing sleep (R537–R539) -/

/-- Is every valid channel applied OFF, FLOAT or COAST? The first that is not. -/
def Dev.notOff (d : Dev) : Option Nat :=
  (List.range 72).find? fun ch => d.chf F.CH_CFG_VALID ch == 1 && decide ((d.chan ch).outState ≠ 0)

/-- Why sleep is not agreed, as cause and index (R537, R546). -/
def Dev.sleepBar (d : Dev) : Option (Nat × Nat) :=
  if !(sget d.kept.shared (d.rd F.PARK_CFG_SV_WORD)).getLsbD 63 then some (0x10, 0)
  else match (List.range 32).find? fun k => d.role k == 2 && (d.input k).value with
    | some k => some (0x11, k)
    | none => match d.kept.catalogue.find? fun e => e.2.wakeRole % 4 == 1 && bitAt e.2.policy 2 && e.2.state % 4 == 1 with
      | some e => some (0x12, e.1 % 256)
      | none => if d.on F.PARK_CFG_OUT_CHECK then d.notOff.map (fun ch => (0x13, ch)) else none

def Dev.wakeTenant (d : Dev) : Nat := d.rd F.PARK_CFG_WAKE_TENANT

/-- GUARD ends without a commit (R538). -/
def Dev.leaveGuard (d : Dev) (cause idx : Nat) : Dev :=
  let d := { (d.wr F.PARK_STATUS_STATE [] 0) with park := { d.park with guarded := false, aborts := [] } }
  ((d.wr F.PARK_STATUS_LAST_ABORT [] cause).bump F.SLEEP_ABORTS_COUNT).event d.wakeTenant 0x0149 0 0xFFFF
    (detail16 (leBytes 1 cause ++ leBytes 1 idx))

/-- The park controller at a transit boundary (R537, R538). A unit that does not drive does not evaluate (R681) (DEDUCED, log entry 143). -/
def parkBoundary (d : Dev) : Dev :=
  if !d.active then d
  else if d.inGuard then
    match d.abortCause, d.sleepBar with
    | some (c, i), _ => d.leaveGuard c i
    | none, some (c, i) => d.leaveGuard c i
    | none, none => if d.on F.PARK_CFG_SLEEP_EN then d else d.leaveGuard 0x10 0
  else if d.rd F.PARK_STATUS_STATE = 0 ∧ d.on F.PARK_CFG_SLEEP_EN ∧ !d.quiet ∧ d.sleepBar.isNone then
    let d := { (d.wr F.PARK_STATUS_STATE [] 1) with park := { d.park with guardAt := d.now, guarded := true, aborts := [] } }
    let planned := d.kept.transit + cdiv (d.rd F.PARK_GUARD_GUARD * 1000000) d.len
    (d.bump F.SLEEP_AGREED_COUNT).event d.wakeTenant 0x0148 0 0xFFFF (detail16 (leBytes 4 planned))
  else d

/-! ### The commit (R534, R540, R545) -/

/-- The queue of a LIN channel's publications (R281), and every queue that feeds a medium. -/
def Dev.egressQueues (d : Dev) : List Nat :=
  (((List.range 20).flatMap fun n => ((List.range 8).filter fun k => d.on F.TC_QUEUE_VALID [n, k]).map fun k => d.rd F.TC_QUEUE_QUEUE [n, k]) ++
    ((List.range 24).flatMap fun ch => ((List.range 64).filter fun k => d.on F.FOLIO_CFG_VALID [ch, k] && d.rd F.FOLIO_CFG_SOURCE [ch, k] == 2).map
      fun k => d.rd F.FOLIO_CFG_SRC_ID [ch, k]) ++
    ((List.range 16).filter fun ch => d.on F.LIN_PUB_VALID [ch]).map fun ch => d.rd F.LIN_PUB_QUEUE [ch]).eraseDups

/-- Release every frame of a queue, counted in `PARK_FLUSHED`. -/
def Dev.flushQueue (d : Dev) (q : Nat) : Dev :=
  let g := d.queue q
  let d := d.setQueue q { g with items := [], ext := [], extBytes := 0 }
  let d := g.items.foldl (fun d e => match d.feeds q with
    | some (n, _) => (d.fillStamp n e false 0).unref e.handle
    | none => d.unref e.handle) d
  (d.wmCheck q).bump F.PARK_FLUSHED_COUNT [] (g.items.length + g.ext.length)

/-- Place of a source among the false counts: inputs, then CAN patterns and frames, error counters, and LIN, as the bits of
`WAKE_DIS_IN` and `WAKE_DIS_BUS`; none for the park timer and power-on (R545). -/
def wakeKey (src idx : Nat) : Option Nat :=
  if src = 1 ∨ src = 2 then some idx
  else if src = 3 ∨ src = 4 then some (64 + idx)
  else if src = 5 then some (72 + idx)
  else if src = 6 then some (80 + idx)
  else none

def Dev.disabledBits (d : Dev) : Nat :=
  d.rd F.WAKE_DIS_IN_SW + 2 ^ 64 * (d.rd F.WAKE_DIS_BUS_CAN + 256 * d.rd F.WAKE_DIS_BUS_CANFEC + 65536 * d.rd F.WAKE_DIS_BUS_LIN)

/-- Disable a wake source (R545). -/
def Dev.disableWake (d : Dev) (src idx key : Nat) : Dev :=
  let set (f : Fld) (i : Nat) : Dev := d.wr f [] (d.rd f ||| 2 ^ i)
  let d := if key < 32 then set F.WAKE_DIS_IN_SW key
    else if key < 72 then set F.WAKE_DIS_BUS_CAN (key - 64)
    else if key < 80 then set F.WAKE_DIS_BUS_CANFEC (key - 72)
    else set F.WAKE_DIS_BUS_LIN (key - 80)
  d.event d.wakeTenant 0x0151 0 0xFFFF (detail16 (leBytes 1 src ++ leBytes 1 idx))

/-- At a commit, the last wake is judged false or not (R545) (DEDUCED, log entry 17). -/
def Dev.judgeWake (d : Dev) : Dev :=
  match d.park.lastWake with
  | none => d
  | some w =>
    if d.park.latchAge + d.now ≤ d.rd F.PARK_FALSE_FALSE_WIN * 1000000000 then
      let d := d.bump F.FALSE_WAKES_COUNT
      match wakeKey w.src w.idx with
      | none => d
      | some key =>
        let n := sget d.park.counts key + 1
        let d := { d with park := { d.park with counts := sput d.park.counts key n } }
        let max := d.rd F.PARK_FALSE_FALSE_MAX
        if max ≠ 0 ∧ max ≤ n ∧ !bitAt d.disabledBits key then d.disableWake w.src w.idx key else d
    else
      let d := { d with park := { d.park with counts := [] } }
      (((d.wr F.WAKE_DIS_IN_SW [] 0).wr F.WAKE_DIS_BUS_CAN [] 0).wr F.WAKE_DIS_BUS_CANFEC [] 0).wr F.WAKE_DIS_BUS_LIN [] 0

/-- Clear the wake record (R542, R547). -/
def Dev.clearWake (d : Dev) : Dev :=
  let d := ((d.wr F.WAKE_FIRST_SOURCE [] 0).wr F.WAKE_FIRST_INDEX [] 0).wr F.WAKE_TIME_MS [] 0
  let d := ((d.wr F.WAKE_IN_SW [] 0).wr F.WAKE_BUS_LIN [] 0).wr F.WAKE_BUS_CANFEC [] 0
  let d := (d.wr F.WAKE_BUS_CAN [] 0).wr F.WAKE_MISC_TIMER [] 0
  { d with park := { d.park with firstA := none, firstB := none, poll := [], linAt := [], fec := [] } }

/-- Every master begins a go-to-sleep frame, after any frame already on its bus, and sends nothing until a wake (R274, R540). -/
def Dev.linSleep (d : Dev) : Dev :=
  (List.range 16).foldl (fun d ch =>
    if d.linRuns ch && d.on F.LIN_CFG_ROLE [ch] then (d.modLin ch fun c => { c with asleep := true, sleepDue := true }).goToSleep ch
    else d.modLin ch fun c => { c with asleep := true }) d

/-- The commit is told of (R540 step 2). -/
def Dev.tellCommit (d : Dev) : Dev :=
  if d.quiet then d else d.event d.wakeTenant 0x014A 0 0xFFFF (detail16 (leBytes 4 (d.rd F.PARK_FLUSHED_COUNT)))

/-- Steps 1 and 2 of the commit (R540), with what the commit decides for the park (R532, R534, R542, R545) (DEDUCED, log entry 79). -/
def Dev.commitSleep (d : Dev) : Dev :=
  let d := d.judgeWake.clearWake
  let active := (List.range 32).filter fun k => (d.input k).value
  let armed := (List.range 32).filter fun k => d.role k != 0 && !bitAt d.disabledBits k
  let record := ((List.range 24).filter fun ch => d.on F.CAN_CFG_ENABLE [ch]).map fun ch =>
    ({ ch, tec := d.rd F.CAN_STATUS_TEC [ch], rec_ := d.rd F.CAN_STATUS_REC [ch], st := d.canState ch } : CanRec)
  let d := { (d.wr F.PARK_STATUS_STATE [] 2) with park := { d.park with commitAt := d.now, commitTransit := d.kept.transit, guarded := false, committed := true, aborts := [], active, armed, record } }
  let d := (List.range 72).foldl (fun d ch => d.changeChan ch 5 d.now fun c => { c with state := 0, rampLen := 0, rampPos := 0, inrushEnd := none, onSince := none }) d
  let d := (List.range 24).foldl (fun d ch => (List.range 64).foldl (fun d k => if (d.folio ch k).st = 0 then d else (d.cancelFolio ch k).2) d) d
  let d := if d.quiet then d else d.linSleep
  (d.egressQueues.foldl Dev.flushQueue d).saveMarks.tellCommit

/-- Park entry (R540, R541): links go down, every channel is off, and the logic die is switched off. Outputs change at boundaries only
(R25), so it falls on one; the transit after the commit's has published what the commit wrote (R540 step 3). -/
def parkEntry (d : Dev) : Dev :=
  if d.runs ∧ d.park.committed ∧ d.park.commitTransit + 2 ≤ d.kept.transit ∧ d.now = d.tickStart then
    let drive := d.drives
    let d := [0, 1, 2, 3].foldl (fun d p => hostPortReset p true d) d
    -- the power-down of the ports and of the die links (R448)
    let d := ((List.range 20).foldl (fun d n => d.drain (0x20 + n)) d).drain 0x70 |>.drain 0x71
    let d := (List.range 20).foldl (fun d n =>
      (if d.on F.LINK_STATUS_UP [n] then d.wr F.LINK_STATUS_UP [n] 0 else d).wr F.LINK_STATUS_PLCA_ACTIVE [n] 0) d
    let d := (List.range 72).foldl (fun d ch => d.changeChan ch 5 d.now fun c => { c with state := 0, rampLen := 0, rampPos := 0, inrushEnd := none, onSince := none }) d
    let d := (d.bump F.PARKS_COUNT).emit (.heartbeat (if d.pairOn && drive then 1 else 0))
    { d with mode := .park, boot := { d.boot with lsOn := false, lsOff := some d.now, pg := false } }
  else d

/-! ### Wakes (R531–R536, R542, R543) -/

/-- Is an input a static one of its die (R529, R531)? -/
def Dev.isStatic (d : Dev) (k : Nat) : Bool :=
  let die := inputDie k
  (d.on F.IN_DIE_STATIC0_EN [die] && d.rd F.IN_DIE_STATIC0 [die] == k) || (d.on F.IN_DIE_STATIC1_EN [die] && d.rd F.IN_DIE_STATIC1 [die] == k)

/-- Does a frame meet the wake-up frame of a channel (R533)? -/
def Dev.isWakeFrame (d : Dev) (ch : Nat) (f : CanFrame) : Bool :=
  let mask := d.rd F.SWK_MASK_MASK [ch]
  let data := leBytes 4 (d.rd F.SWK_DATA_LO_DATA [ch]) ++ leBytes 4 (d.rd F.SWK_DATA_HI_DATA [ch])
  !f.fdf && !f.xlf && !f.rtr && f.ide == d.on F.SWK_CTL_IDE [ch] && canV f &&& mask == d.rd F.SWK_ID_ID [ch] &&& mask &&
    f.dlc == d.rd F.SWK_CTL_DLC [ch] &&
    (!d.on F.SWK_CTL_DATA_EN [ch] || (f.data.zip data).any fun x => x.1 &&& x.2 != 0#8)

/-- Can an armed input wake from its reference state: one that was inactive at the commit, or a TOGGLE (R532)? -/
def Dev.wakesFrom (d : Dev) (k : Nat) : Bool := d.park.armed.contains k && (!d.park.active.contains k || d.rd F.SW_CFG_ROLE [k] == 3)

/-- The wake of an input that can wake: one that is sensed in the park's mode (R529, R531). -/
def Dev.inputWake (d : Dev) (k : Nat) : Option (Nat × Nat × Nat) :=
  if !d.wakesFrom k then none
  else if d.isStatic k then some (1, k, inputDie k)
  else if d.on F.PARK_CFG_MODE then some (2, k, inputDie k) else none

/-- Has the comparator held a static input's level for `DEBOUNCE` × 0.1 ms and for 0.5 ms (R532)? -/
def Dev.staticHeld (d : Dev) (k since : Nat) : Bool := decide (since + max 500000 (d.swRd F.SW_CFG_DEBOUNCE k * 100000) ≤ d.now)

/-- Have two consecutive polls agreed on a value that wakes (R532)? `poll` holds 1 or 2 for an input that the last poll found inactive or
active, and 2 more where the poll before it agreed. -/
def Dev.pollWakes (d : Dev) (k : Nat) : Bool :=
  let p := sget d.park.poll k
  decide (3 ≤ p) && ((p == 4) != d.park.active.contains k)

/-- Source code, index and die of a wake that is armed; none of one that is not (R529–R535, R539, R545). Bus wakes between the
commit and park entry are judged by the controllers in both park modes. -/
def Dev.wakeOf (d : Dev) : WakeSource → Option (Nat × Nat × Nat)
  | .static k since => if d.isStatic k ∧ d.staticHeld k since then d.inputWake k else none
  | .polled k => if !d.isStatic k ∧ d.pollWakes k then d.inputWake k else none
  | .canPattern ch => if ch < 8 ∧ d.rd F.SWK_CTL_WAKE_MODE [ch] = 1 ∧ !bitAt d.disabledBits (64 + ch) ∧ (d.runs ∨ d.on F.PARK_CFG_MODE) then some (3, ch, ch / 4) else none
  | .canFrame ch f => if ch < 8 ∧ d.rd F.SWK_CTL_WAKE_MODE [ch] = 2 ∧ d.isWakeFrame ch f ∧ !bitAt d.disabledBits (64 + ch) ∧ (d.runs ∨ d.on F.PARK_CFG_MODE)
      then some (4, ch, ch / 4) else none
  | .canErrors ch => if ch < 8 ∧ d.rd F.SWK_CTL_WAKE_MODE [ch] = 2 ∧ !bitAt d.disabledBits (72 + ch) ∧ (d.runs ∨ d.on F.PARK_CFG_MODE) then some (5, ch, ch / 4) else none
  | .lin ch => if ch < 16 ∧ d.on F.LIN_WAKE_DETECT [ch] ∧ !bitAt d.disabledBits (80 + ch) ∧ (d.runs ∨ d.on F.PARK_CFG_MODE) then some (6, ch, ch / 8) else none

/-- The source that is reported first: that with the smaller time in ms, on PD-A where they are equal (R542). -/
def firstWake (a b : Option WakeRec) : Option WakeRec :=
  match a, b with
  | some a, some b => some (if b.ms < a.ms then b else a)
  | a, b => a.or b

/-- A wake latches in a die's always-on domain: the first of the die with its time, and the bitmap (R542). -/
def Dev.latchWake (d : Dev) (src idx die : Nat) : Dev :=
  let w : WakeRec := { src, idx, ms := (d.now - d.park.commitAt) / 1000000, since := d.now }
  let d := if die = 0 then { d with park := { d.park with firstA := d.park.firstA.or (some w) } }
    else { d with park := { d.park with firstB := d.park.firstB.or (some w) } }
  let set (d : Dev) (f : Fld) (i : Nat) : Dev := d.wr f [] (d.rd f ||| 2 ^ i)
  let d := if src = 1 ∨ src = 2 then set d F.WAKE_IN_SW idx
    else if src = 3 ∨ src = 4 then set d F.WAKE_BUS_CAN idx
    else if src = 5 then set d F.WAKE_BUS_CANFEC idx
    else if src = 6 then
      let d := set d F.WAKE_BUS_LIN idx
      { d with park := { d.park with linAt := sput d.park.linAt idx d.now } }
    else set d F.WAKE_MISC_TIMER 0
  let first := (firstWake d.park.firstA d.park.firstB).getD w
  ((d.wr F.WAKE_FIRST_SOURCE [] first.src).wr F.WAKE_FIRST_INDEX [] first.idx).wr F.WAKE_TIME_MS [] first.ms

/-- A wake source fires. In GUARD it aborts the sleep; from the commit on it latches, and a CAN source keeps the channel's frame error
counter (R538, R539, R542, R547). -/
def wakeLatch (w : WakeSource) (d : Dev) : Dev :=
  if d.inGuard ∧ d.runs then
    match w with
    | .static k since => if d.role k ≠ 0 ∧ d.staticHeld k since then d.abortSleep 2 k else d
    | .polled k => if d.role k ≠ 0 then d.abortSleep 2 k else d
    | .canPattern ch => if d.rd F.SWK_CTL_WAKE_MODE [ch] = 1 ∧ ch < 8 then d.abortSleep 3 ch else d
    | .canFrame ch f => if d.rd F.SWK_CTL_WAKE_MODE [ch] = 2 ∧ ch < 8 ∧ d.isWakeFrame ch f then d.abortSleep 4 ch else d
    | .canErrors _ => d
    | .lin ch => if d.on F.LIN_WAKE_DETECT [ch] then d.abortSleep 6 ch else d
  else if !d.park.committed then d
  else match d.wakeOf w with
    | none => d
    | some (src, idx, die) =>
      let d := if 3 ≤ src ∧ src ≤ 5 then d.wr F.SWK_FEC_FEC [idx] (if src = 5 then 32 else sget d.park.fec idx) else d
      d.latchWake src idx die

/-- What would have aborted the sleep at the very instant of the commit is a wake (R539). -/
def Dev.latchLate (d : Dev) (cause idx : Nat) : Dev :=
  let off := match wakeKey cause idx with | some key => bitAt d.disabledBits key | none => false
  if off then d
  else if cause = 2 then (if d.park.armed.contains idx then d.latchWake (if d.isStatic idx then 1 else 2) idx (inputDie idx) else d)
  else d.latchWake cause idx (if cause = 6 then idx / 8 else idx / 4)

/-- The commit falls at the first boundary at least `GUARD` ms after GUARD opened (R538, R539); a SHADOW unit commits at the
DRIVE unit's boundary (R681). -/
def sleepCommit (d : Dev) : Dev :=
  if d.runs ∧ d.now = d.tickStart ∧ !d.park.committed ∧
      (d.quiet ∧ d.park.follow ∨ d.inGuard ∧ d.abortCause.isNone ∧ d.guardOver d.now) then
    d.park.aborts.foldl (fun d a => d.latchLate a.1 a.2.1) d.commitSleep
  else d

/-- Raw samples of an input, and the wake that its debounced value is between the commit and park entry (R516, R532, R539). -/
def debounceInput (k : Nat) (l : List (Nat × Nat)) (d : Dev) : Dev :=
  let e := rawSamples k l d
  let v := (e.input k).value
  if d.runs ∧ d.park.committed ∧ v ≠ (d.input k).value ∧ v ≠ d.park.active.contains k ∧ (v ∨ d.rd F.SW_CFG_ROLE [k] = 3) then
    match e.inputWake k with | some (src, idx, die) => e.latchWake src idx die | none => e
  else e

/-- A frame on the bus of a channel in GUARD, after the commit and in park is judged by the channel's `WAKE_MODE` (R533, R538, R539). With
selective wake the frame error counter goes up on a frame with an error and down on a correct one, and wakes at 32; a CAN FD frame is ignored
or counts as an error, as `FD_TOL` says (DEDUCED, log entry 145). -/
def judgeFrame (ch : Nat) (f : CanFrame) (good : Bool) (d : Dev) : Dev :=
  let wide := f.fdf || f.xlf
  let put (d : Dev) (n : Nat) : Dev := if d.park.committed then { d with park := { d.park with fec := sput d.park.fec ch n } } else d
  let n := sget d.park.fec ch
  if 8 ≤ ch then d
  else if d.rd F.SWK_CTL_WAKE_MODE [ch] = 1 then (if good ∧ d.runs then wakeLatch (.canPattern ch) d else d)
  else if d.rd F.SWK_CTL_WAKE_MODE [ch] ≠ 2 ∨ (wide ∧ d.on F.SWK_CTL_FD_TOL [ch]) then d
  else if wide ∨ !good then
    let d := put d (min 32 (n + 1))
    if 32 ≤ n + 1 then wakeLatch (.canErrors ch) d else d
  else wakeLatch (.canFrame ch f) (put d (n - 1))

/-- A poll of the wake inputs in watch park (R529, R532): `levels` lists the inputs that read active. Two consecutive polls that
agree make a value accepted. -/
def parkPoll (levels : List Nat) (d : Dev) : Dev :=
  if d.mode ≠ .park ∨ !d.on F.PARK_CFG_MODE then d
  else
    let polled := d.park.armed.filter fun k => !d.isStatic k
    let found (k : Nat) : Nat :=
      let p := if levels.contains k then 2 else 1
      if sget d.park.poll k % 2 = p % 2 ∧ sget d.park.poll k ≠ 0 then p + 2 else p
    let d := { d with park := { d.park with poll := polled.foldl (fun m k => sput m k (found k)) [] } }
    polled.foldl (fun d k => wakeLatch (.polled k) d) d

/-- The park timer (R536): `TIMER_S` seconds after the commit, within 5 % (DEDUCED, log entry 19). -/
def parkTimer (d : Dev) : Dev :=
  let t := d.rd F.PARK_TIMER_TIMER_S
  if d.park.committed ∧ t ≠ 0 ∧ d.park.commitAt + t * 950000000 ≤ d.now ∧ d.rd F.WAKE_MISC_TIMER = 0 then d.latchWake 7 0 0 else d

/-- Has a wake latched in the present park? -/
def Dev.woken (d : Dev) : Bool := d.park.firstA.isSome || d.park.firstB.isSome

/-- A LIN channel sends a wake signal (R535). -/
def Dev.linWakeSignal (d : Dev) (ch : Nat) : Dev :=
  (d.emit (.linWake ch)).modLin ch fun c => { c with wake := c.wake + 1, wakeAt := d.now, notBefore := d.now + 100000000, asleep := false }

/-- A slave that sees no header repeats its wake signal: 150 ms after each of the first two, and 1.5 s after the third, from
where it begins again (R535). -/
def linWakeRepeat (ch : Nat) (d : Dev) : Dev :=
  let c := d.linCh ch
  if !d.linRuns ch ∨ d.on F.LIN_CFG_ROLE [ch] ∨ c.wake = 0 then d
  else if c.wake < 3 then if c.wakeAt + 150000000 ≤ d.now then d.linWakeSignal ch else d
  else if c.wakeAt + 1500000000 ≤ d.now then (d.modLin ch fun c => { c with wake := 0 }).linWakeSignal ch else d

/-- Wake signals at the first activation after a wake: every channel with `SEND` but one that woke the device, whose bus has had its wake
signal before (R535). -/
def Dev.wakeSignals (d : Dev) : Dev :=
  (List.range 16).foldl (fun d ch =>
    if d.on F.LIN_WAKE_SEND [ch] ∧ d.linRuns ch ∧ !bitAt (d.rd F.WAKE_BUS_LIN) ch then d.linWakeSignal ch
    else if bitAt (d.rd F.WAKE_BUS_LIN) ch then d.modLin ch fun c => { c with notBefore := 100000000 - sget d.park.linAt ch } else d) d

/-! ### The currents of the front ends (R513, R514, R529, R681) -/

/-- The bias current of an input in µA: while its die is awake, and in park that of a static input with a role. -/
def Dev.biasUa (d : Dev) (k : Nat) : Nat :=
  if d.mode = .park then if d.isStatic k ∧ d.rd F.SW_CFG_ROLE [k] ≠ 0 then 5 else 0
  else if d.swOn k then 50 else 0

/-- The wetting current of an input in mA at an instant: a pulse of 100 µs in each `WET_PERIOD`, those of a die's inputs spread evenly over it
in the order of their numbers (DESIGN CHOICE, log entry 182). A unit of a pair that does not drive has none, and has it from the boundary on at
which it drives. -/
def Dev.wettingMa (d : Dev) (k t : Nat) : Nat :=
  let die := inputDie k
  let used := (List.range 96).filter fun j => inputDie j == die && d.swOn j
  let period := [10, 20, 50, 100].getD (d.rd F.IN_DIE_WET_PERIOD [die]) 10 * 1000000
  let start := used.idxOf k * period / max 1 used.length
  if d.mode ≠ .park ∧ !d.quiet ∧ d.swOn k ∧ (t + period - start) % period < 100000 then [1, 2, 5, 10].getD (d.swRd F.SW_CFG_WET k) 1 else 0

/-! ### The wake told -/

/-- What the first activation after a wake boot tells (R544). -/
def Dev.tellWake (d : Dev) : Dev :=
  let d := d.event d.wakeTenant 0x0150 0 0xFFFF
    (detail16 (leBytes 1 (d.rd F.WAKE_FIRST_SOURCE) ++ leBytes 1 (d.rd F.WAKE_FIRST_INDEX) ++ leBytes 4 (d.rd F.WAKE_TIME_MS)))
  (List.range 32).foldl (fun d k =>
    if bitAt (d.rd F.WAKE_IN_SW) k ∧ d.on F.SW_CFG_NOTIFY [k] then
      d.event (d.rd F.IN_DIE_EVT_TENANT [inputDie k]) 0x0140 0 k (detail16 (leBytes 1 (d.input k).code))
    else d) d

end Sys2Proof.Machine
end

