-- ==== Sys2Proof/Machine/RegAccess.lean ====
section
/-! DEFINITION. The register shells: which register an address names, what a write does (R9, R12, R741–R743 and the rules of
single fields), what a read returns, the side-effect window and the delivery of its replies (R10, R241, R376–R379, R446,
R447, R454–R456). -/

namespace Sys2Proof.Machine

/-! ### Addresses -/

/-- The indices of the register of an array that lies at an offset. -/
def dimIndex : List (Nat × Nat) → Nat → Option (List Nat)
  | [], 0 => some []
  | [], _ => none
  | (s, n) :: r, o => if o / s < n then (dimIndex r (o % s)).map (o / s :: ·) else none

/-- Of the registers that resource codes or part numbers number, those of a reserved one do not exist (R43, R427, R740). -/
def regExists (r : RegDef) (ix : List Nat) : Bool :=
  !r.isOne [R.RESERVE, R.RES_PROFILE, R.DROP_NOCELL, R.DROP_QFULL, R.MASKED, R.GATE_ABSENT, R.STALE_REPLY, R.DRAIN_OVERRUN] || isPart (ix.getD 0 0)

/-- The register at an address of the model's map. -/
def regAt (a : Nat) : Option (RegDef × List Nat) :=
  (regTable.findSome? fun r => if r.base ≤ a then (dimIndex r.dims (a - r.base)).map fun ix => (r, ix) else none).filter fun x => regExists x.1 x.2

/-- The place in the model's map of a BAR0 address: what `QSEL`, `RING_SEL` and `GATE_SEL` bank lies apart. -/
def Dev.banked (d : Dev) (a : Nat) : Nat :=
  if 0x80104 ≤ a ∧ a < 0x80118 then 0x10000000 + 0x20 * d.rd F.QSEL_QUEUE + (a - 0x80104)
  else if 0x41004 ≤ a ∧ a < 0x41010 then
    0x11000000 + 0x400 * d.rd F.RING_SEL_TENANT + 0x10 * d.rd F.RING_SEL_RING + (a - 0x41004)
  else if a = 0x348014 then 0x12000000 + 4 * d.rd F.GATE_SEL_PART
  else a

/-- An address that a port names: BAR0 below 16 MiB, BAR2 from 0x0100_0000 on. The banked places cannot be named. -/
def Dev.place (d : Dev) (a : Nat) : Nat := if a < 0x1000000 then d.banked a else if a < 0x1010000 then a else 0xFFFFFFFF

/-- The mailbox page of an address (R593). -/
def mailPage (a : Nat) : Option Nat := if 0x310000 ≤ a ∧ a < 0x314000 then some ((a - 0x310000) / 0x1000) else none
def inLive (a : Nat) : Bool := decide (0x380000 ≤ a ∧ a < 0x3C0000)
def inBar2 (a : Nat) : Bool := decide (0x1000000 ≤ a ∧ a < 0x1010000)
def ledgerReg (a : Nat) : Bool := a == 0x10020 || a == 0x10024

/-- Is live service served through a port (R698)? -/
def Dev.livePort (d : Dev) (port : Nat) : Bool := d.barsOn port && bitAt (d.rd F.LS_CFG_PORT_EN) port

/-- Does a mailbox page answer a port (R593)? -/
def Dev.mailOk (d : Dev) (port page : Nat) : Bool := d.barsOn port && port == page && bitAt (d.rd F.SR_CFG_PORT_EN) page

/-- Is an address one of BAR4, as the model places it behind BAR2? Each port has its own (R376, R738). -/
def inBar4 (a : Nat) : Bool := decide (0x1010000 ≤ a ∧ a < 0x1012000)

/-- Is an address served through a port (R378, R379, R593, R654, R698, R737, R747)? A supervisor reads all of BAR0 but the mailbox pages. -/
def Dev.served (d : Dev) (port a : Nat) : Bool :=
  if 4 ≤ port then (mailPage a).isNone && decide (a < 0x1000000)
  else
    d.barsOn port && (match mailPage a with | some p => d.mailOk port p | none => true) &&
      (!(inLive a || a == 0x30) || d.livePort port) && (!ledgerReg a || d.diagPort port) &&
      (!sideWindow a || d.diagPort port) && (!inBar2 a || d.portOf ((a - 0x1000000) / 0x1000) == port)

/-- Requester parts of R427 by reader: a host port, or a supervisor (R455). A reader's code is its part number less 0x80. -/
def readerCode : Reader → Nat
  | .host p => p.val
  | .sva => 8
  | .svb => 9

/-- The parts whose registers stand at an address of their own: first address, the one after the last, the first part and the size of a
part's page, 0 where there is one part (R427, R428) (DEDUCED, log entry 72). -/
def shellRanges : List (Nat × Nat × Nat × Nat) :=
  [(0x10000, 0x10010, 0x92, 0), (0x10010, 0x20000, 0x7C, 0), (0x20000, 0x40000, 0x91, 0), (0x420000, 0x440000, 0x91, 0),
    (0x40000, 0x40010, 0x80, 4), (0x441040, 0x441050, 0x80, 4), (0x80300, 0x80400, 0x96, 0), (0x489000, 0x489004, 0x96, 0),
    (0x80000, 0xC0000, 0x90, 0), (0x480000, 0x4C0000, 0x90, 0), (0xC0000, 0x100000, 0x7E, 0), (0x4C0000, 0x500000, 0x7E, 0),
    (0x100000, 0x140000, 0x00, 0x4000), (0x50F000, 0x50F040, 0x00, 4), (0x50F040, 0x50F080, 0x00, 4),
    (0x140000, 0x144000, 0x10, 0x1000), (0x540000, 0x540010, 0x10, 4), (0x180000, 0x1B0000, 0x40, 0x2000), (0x580000, 0x5B0000, 0x40, 0x2000),
    (0x1C0000, 0x1D0000, 0x60, 0x1000), (0x5C0000, 0x5D0000, 0x60, 0x1000), (0x200000, 0x250000, 0x20, 0x4000), (0x600000, 0x650000, 0x20, 0x4000),
    (0x260000, 0x270000, 0x7E, 0), (0x660000, 0x670000, 0x7E, 0), (0x280000, 0x2C0000, 0x70, 0x20000), (0x680000, 0x6C0000, 0x70, 0x20000),
    (0x700800, 0x700880, 0x8C, 0x20), (0x300000, 0x310000, 0x8C, 0), (0x700000, 0x700800, 0x8C, 0), (0x310000, 0x320000, 0x8A, 0),
    (0x710000, 0x720000, 0x8A, 0), (0x344000, 0x348000, 0x78, 0), (0x744000, 0x748000, 0x78, 0), (0x348020, 0x348030, 0x80, 4),
    (0x740000, 0x740400, 0x00, 4), (0x748000, 0x748400, 0x00, 4), (0x748400, 0x748800, 0x00, 4), (0x748800, 0x748810, 0x80, 4),
    (0x748810, 0x748820, 0x80, 4), (0x748820, 0x748830, 0x80, 4), (0x748C00, 0x749000, 0x00, 4)]

/-- The tenant whose registers stand at an address: those of the HOST block and of BAR2, at the port that it is bound to. -/
def Dev.shellTenant (d : Dev) (a : Nat) : Option Nat :=
  if 0x41000 ≤ a ∧ a < 0x41010 then some (d.rd F.RING_SEL_TENANT)
  else ([(0x40100, 0x40180, 8), (0x440000, 0x441000, 0x100), (0x441000, 0x441040, 4), (0x1000000, 0x1010000, 0x1000)].find? fun x =>
    decide (x.1 ≤ a ∧ a < x.2.1)).map fun x => (a - x.1) / x.2.2

/-- The engine whose outcome counters stand at an address (R749): that of the entry in the active almanac. -/
def Dev.shellEntry (d : Dev) (a : Nat) : Option Nat :=
  if 0x800000 ≤ a ∧ a < 0xA00000 then (d.entry ((a - 0x800000) / 0x20)).map fun e => e.resource else none

/-- The part whose register shell serves an address (R427, R428); 0x88, a supervisor, where no part of its own does (DEDUCED, log entry 72). -/
def Dev.shellPart (d : Dev) (port a : Nat) : Nat :=
  let p := match d.shellTenant a with
    | some t => 0x80 + d.portOf t
    | none => match d.shellEntry a with
      | some p => p
      | none => if 0x1010000 ≤ a then 0x80 + port
        else match shellRanges.find? fun x => decide (x.1 ≤ a ∧ a < x.2.1) with
          | some x => x.2.2.1 + (a - x.1) / x.2.2.2
          | none => 0x88
  if isPart p then p else 0x88

/-! ### Writes -/

/-- `v` written into a field, or the field as it was. -/
def Dev.keepField (d old : Dev) (f : Fld) (ix : List Nat) (keep : Bool) : Dev := if keep then d.wr f ix (old.rd f ix) else d

/-- The cycles of a bit time, from the fields of a timing register. -/
def bitCycles (brp ts1 ts2 : Nat) : Nat := (brp + 1) * (3 + ts1 + ts2)

/-- Does a bit-timing set keep its ranges and rates (R226, R227, R230, R231, R259)? (DEDUCED, log entry 122). -/
def Dev.bitTimingOk (d : Dev) (r : RegDef) (ch : Nat) : Bool :=
  if r.base = R.CAN_NBT.base then
    decide (1 ≤ d.rd F.CAN_NBT_NTSEG1 [ch]) && decide (d.rd F.CAN_NBT_NSJW [ch] ≤ d.rd F.CAN_NBT_NTSEG2 [ch]) &&
      decide (80 ≤ bitCycles (d.rd F.CAN_NBT_NBRP [ch]) (d.rd F.CAN_NBT_NTSEG1 [ch]) (d.rd F.CAN_NBT_NTSEG2 [ch]))
  else if r.base = R.CAN_DBT.base then
    decide (d.rd F.CAN_DBT_DSJW [ch] ≤ d.rd F.CAN_DBT_DTSEG2 [ch]) &&
      decide (10 ≤ bitCycles (d.rd F.CAN_DBT_DBRP [ch]) (d.rd F.CAN_DBT_DTSEG1 [ch]) (d.rd F.CAN_DBT_DTSEG2 [ch]))
  else
    decide (d.rd F.CAN_XBT_XSJW [ch] ≤ d.rd F.CAN_XBT_XTSEG2 [ch]) &&
      decide ((if d.on F.CAN_CFG_XL_FAST [ch] then 4 else 8) ≤ bitCycles (d.rd F.CAN_XBT_XBRP [ch]) (d.rd F.CAN_XBT_XTSEG1 [ch]) (d.rd F.CAN_XBT_XTSEG2 [ch]))

/-- Modes of a port type (R284, `PORT_CFG`). -/
def modeOk (ty mode : Nat) : Bool := if ty = 3 then mode == 0 else decide (mode < 2)

/-- Is a queue bound to another traffic class (R298)? -/
def Dev.boundElsewhere (d : Dev) (n k : Nat) : Bool :=
  d.on F.TC_QUEUE_VALID [n, k] && (List.range 20).any fun p => (List.range 8).any fun j =>
    !(p == n && j == k) && d.on F.TC_QUEUE_VALID [p, j] && d.rd F.TC_QUEUE_QUEUE [p, j] == d.rd F.TC_QUEUE_QUEUE [n, k]

/-- The byte budgets on one port, the written tenant counted in any case (R393). -/
def Dev.portBudget (d : Dev) (p t : Nat) : Nat :=
  ((List.range 16).map fun u =>
    if d.portOf u = p ∧ (u = t ∨ d.on F.TENANT_CFG_ENABLE [u]) then d.rd F.TENANT_BUDGET_BYTE_BUDGET [u] else 0).sum

/-- The nominal rates at which selective wake runs (R533): bit times of 640, 320, 160 and 80 cycles. -/
def Dev.selectiveRate (d : Dev) (ch : Nat) : Bool :=
  [640, 320, 160, 80].contains (bitCycles (d.rd F.CAN_NBT_NBRP [ch]) (d.rd F.CAN_NBT_NTSEG1 [ch]) (d.rd F.CAN_NBT_NTSEG2 [ch]))

/-- The channel of an OUTPUT register's indices. -/
def chanAt (ix : List Nat) : Nat := dieChan (ix.getD 0 0) (ix.getD 1 0)

/-- Is a base too fast for a channel in PWM on it, whether the base runs or not (R476)? -/
def Dev.baseTooFast (d : Dev) (die b : Nat) : Bool :=
  (dieChans die).any fun ch => (d.commanded ch).1 == pwmState ch && d.chf F.CH_CFG_BASE ch == b &&
    decide (d.rd F.PWM_BASE_PERIOD [die, b] < minPeriodOf (chanClass ch))

/-- The rules that a write of a HOST, STACKS, CLASSIFY or TIME register obeys. `old` is the device before the write, `n` with
the fields written; none where no rule of these blocks applies. -/
def writeRuleA (old n : Dev) (r : RegDef) (ix : List Nat) : Option Dev :=
  let i := ix.getD 0 0
  if r.isOne [R.QCFG_B] then some (n.wmCheck i)
  else if r.isOne [R.POOL_WM] then some n.poolNotice
  else if r.isOne [R.TRANSIT_CFG] then some (if old.active then old else n)
  else if r.isOne [R.MEM_PART] then some (if old.memPart.isSome then old else n)
  else if r.isOne [R.QCFG_A, R.QCFG_D] then some (if n.extOk i then (match n.feeds i with | some (p, _) => n.creditsFrom old p | none => n) else old.wr F.STACKS_STATUS_EXT_REJECT [] 1)
  else if r.isOne [R.RESERVE] then
    some (if 106496 < n.reserveSum then old.wr F.STACKS_STATUS_RES_REJECT [] 1 else n.reserveLowered i)
  else if r.isOne [R.PARSE_EDGE] then
    some (if [hkTag, hkIpv4, hkIpv6, hkUdp, hkTcp, hkPtp, hkAvtp, hkPayload].contains (n.rd F.PARSE_EDGE_TO [i]) then n else old)
  else if r.isOne [R.KP_EXT] then some (if 16 < n.rd F.KP_EXT_LENGTH ix then old else n)
  else if r.isOne [R.PM_SET] then some (if old.gradeF then n else old)
  else if r.isOne [R.RES_PROFILE] then some (n.keepField old F.RES_PROFILE_PM_SET ix (!old.gradeF))
  else if r.isOne [R.RING_CFG_C] then some (n.keepField old F.RING_CFG_C_PM_SET ix (!old.gradeF))
  else if r.isOne [R.TENANT_CFG] then
    some (if n.on F.TENANT_CFG_ENABLE [i] ∧ 800 < n.portBudget (n.portOf i) i ∧
        (!old.on F.TENANT_CFG_ENABLE [i] ∨ old.portOf i ≠ n.portOf i) then old else n)
  else if r.isOne [R.TENANT_BUDGET] then some (if 800 < n.portBudget (n.portOf i) i then old else n)
  else if r.isOne [R.TD_CFG] then
    let n := (n.keepField old F.TD_CFG_PARTNER ix (n.rd F.TD_CFG_PARTNER ix == i)).keepField old F.TD_CFG_SOURCE ix
      (n.rd F.TD_CFG_SOURCE ix == i)
    some (n.tdCfgWritten old i)
  else if r.isOne [R.TD_STEP_AT] then
    some (if n.rd F.TD_STEP_AT_STEP_AT ix < 100 ∨ n.rd F.TD_JUMP_THR_JUMP_THR ix < n.rd F.TD_STEP_AT_STEP_AT ix then old else n)
  else none

/-- The same for CAN, Ethernet, the stream page, OUTPUT and INPUT registers, from the enabled bits of the written word (DEDUCED, log entry 71). -/
def writeRuleB (old n : Dev) (r : RegDef) (ix : List Nat) (v mask : Nat) : Option Dev :=
  let i := ix.getD 0 0
  let k := ix.getD 1 0
  if r.isOne [R.CAN_NBT, R.CAN_DBT, R.CAN_XBT] then
    some (if n.bitTimingOk r i then n else old.wr F.CAN_ERR_CFG_REJECT [i] 1)
  else if r.isOne [R.FOLIO_CFG] then some (n.refeed i k)
  else if r.isOne [R.CAN_CFG] then
    let n := n.keepField old F.CAN_CFG_XL_EN ix (decide (8 ≤ i))
    some (if n.rd F.CAN_CFG_ENABLE [i] = old.rd F.CAN_CFG_ENABLE [i] then n else n.wr F.CAN_STATUS_STATE [i] 3)
  else if r.isOne [R.PORT_CFG] then
    let ty := portType i
    let n := n.keepField old F.PORT_CFG_MODE ix (!modeOk ty (n.rd F.PORT_CFG_MODE ix))
    let n := n.keepField old F.PORT_CFG_RATE ix (!rateOk ty (n.rd F.PORT_CFG_MODE ix) (n.rd F.PORT_CFG_RATE ix))
    some (settlePort i (portEdges i n))
  else if r.isOne [R.PORT_MAXLEN] then some (settlePort i n)
  else if r.isOne [R.TC_QUEUE] then
    some (if n.boundElsewhere i k then old.wr F.LINK_STATUS_CFG_REJECT [i] 1
      else settlePort i (n.creditsFrom old i))
  else if r.isOne [R.TC_SLOPE] then
    let s := n.rd F.TC_SLOPE_IDLE_SLOPE ix
    some (if s = 0 ∨ 1000 * old.portMbps i < s then old else { n with eth := (old.creditsNow i).eth })
  else if r.isOne [R.PLCA_CFG, R.PLCA_BURST] then some (if i < 12 then old else n)
  else if r.isOne [R.TXSA_CTL] then some (if bitAt (v &&& mask) 31 then n.wr F.TXSA_CTL_EXHAUSTED ix 0 else n)
  else if r.isOne [R.RXSA_CTL] then some (if bitAt (v &&& mask) 31 then n.wr F.RXSA_CTL_EXHAUSTED ix 0 else n)
  else if r.isOne [R.SF_CTL] then some (n.filterWritten i)
  else if r.isOne meterRegs then some (n.meterWritten i)
  else if r.isOne [R.PD_BUDGET] then some (if n.budgetOk i then n else old.wr F.PD_STATUS_CFG_REJECT [i] 1)
  else if r.isOne [R.CH_CFG] then
    -- a die that holds keeps its retry counts for the reclaim (R503, R505)
    some (if n.budgetOk i then if (n.die i).hold then n else n.modChan (chanAt ix) fun c => { c with retryLeft := n.chf F.CH_CFG_RETRY (chanAt ix) }
      else old.wr F.PD_STATUS_CFG_REJECT [i] 1)
  else if r.isOne [R.CH_LOAD] then
    let n := n.keepField old F.CH_LOAD_RATED_MA ix (decide (ratedOf (chanClass (chanAt ix)) < n.rd F.CH_LOAD_RATED_MA ix))
    some (if n.budgetOk i then n else old.wr F.PD_STATUS_CFG_REJECT [i] 1)
  else if r.isOne [R.CH_PROT] then
    let c := chanClass (chanAt ix)
    some (n.keepField old F.CH_PROT_OC_LIMIT ix (decide (limitOf c < n.rd F.CH_PROT_OC_LIMIT ix * (if c = 0 then 250 else 100))))
  else if r.isOne [R.PWM_BASE] then some (if n.baseTooFast i k then (n.keepField old F.PWM_BASE_PERIOD ix true).wr F.PD_STATUS_CFG_REJECT [i] 1 else n)
  else if r.isOne [R.IN_DIE] then
    let bad (f : Fld) : Bool := n.rd f ix / 16 != i
    some ((n.keepField old F.IN_DIE_STATIC0 ix (bad F.IN_DIE_STATIC0)).keepField old F.IN_DIE_STATIC1 ix (bad F.IN_DIE_STATIC1))
  else if r.isOne [R.SW_CFG] then
    let n := if 32 ≤ i then n.wr F.SW_CFG_ROLE ix 0 else n
    some (if n.on F.SW_CFG_VALID ix ∨ (n.die (inputDie i)).hold then n else n.inputOff i)
  else if r.isOne [R.SW_GUARD] then some (n.keepField old F.SW_GUARD_CHAT_EDGES ix (n.rd F.SW_GUARD_CHAT_EDGES ix == 1))
  else if r.isOne [R.SWK_CTL] then some (n.keepField old F.SWK_CTL_WAKE_MODE ix (n.rd F.SWK_CTL_WAKE_MODE ix == 2 && !n.selectiveRate i))
  else none

/-- Changes that a packet still in the pipeline must not see: what committed before is classified first (R148, R169). -/
def settlesFirst (r : RegDef) : Bool := r.isOne [R.KP_DEFAULT_LO, R.KP_DEFAULT_HI, R.INDIR, R.PM_SET]

/-- A write to a setup register as its shell performs it: fields by their access codes, then the register's own rules. -/
def Dev.writeReg (d : Dev) (r : RegDef) (ix : List Nat) (v : Nat) (mask : Nat := allBits) : Dev :=
  let d := if settlesFirst r then d.settleClassify else d
  let n := d.putWord r ix v mask
  if r.isOne [R.SR_MSG] then
    d.modK fun k => { k with regs := regPut k.regs r ix ((regGet k.regs r ix ^^^ (regGet k.regs r ix &&& mask)) ||| (v &&& mask)) }
  else ((writeRuleA d n r ix) <|> (writeRuleB d n r ix v mask)).getD n

/-- After SEAL, is a register's write dropped (R743)? -/
def sealedOff (a : Nat) : Bool :=
  !(inLive a && a != 0x380000) && (mailPage a).isNone && !ledgerReg a && !(decide (0x348020 ≤ a ∧ a < 0x348030)) &&
    a != 0x30 && !inBar2 a && !sideWindow a

/-- Is an address in BAR2 that of a doorbell register, and of which ring (R425, R623)? -/
def bellRing (o : Nat) : Option Nat := if o < 0x200 ∧ o % 8 = 0 then some (o / 8) else if o = 0x800 then some cipherRing else none

/-- The word that a BAR2 write leaves: the bytes that are not enabled stay (R447). In a restart the last doorbell write of the ring counts. -/
def Dev.bar2Merge (d : Dev) (a v mask : Nat) : Nat :=
  let t := (a - 0x1000000) / 0x1000
  let old := match regAt a with | some (r, ix) => regGet d.kept.regs r ix | none => 0
  let old := match (bellRing ((a - 0x1000000) % 0x1000)).bind fun r => d.doorbells.find? fun b => b.1 == t && b.2.1 == r && !b.2.2.2 with
    | some b => b.2.2.1
    | none => old
  (old ^^^ (old &&& mask)) ||| (v &&& mask)

/-- One BAR2 word as the driving unit performs it, its bytes merged (R379, R387, R419, R423, R425, R623). -/
def Dev.bar2Word (d : Dev) (a v : Nat) : Dev :=
  let t := (a - 0x1000000) / 0x1000
  let o := (a - 0x1000000) % 0x1000
  let ctl (r : Nat) : Dev := (if bitAt v 30 then d.resetRing t r else d).enableRing t r (bitAt v 31)
  match bellRing o with
  | some r => d.takeBell t r (v % 65536)
  | none =>
    if o < 0x200 then if o % 8 = 4 ∧ bitAt v 0 then d.takeArm t (o / 8) else d
    else if 0x400 ≤ o ∧ o < 0x800 then
      let r := (o - 0x400) / 16
      if o % 16 = 0 then (if d.ringOn t r then d else d.putWord R.RING_BASE_LO [t, r] v)
      else if o % 16 = 4 then (if d.ringOn t r then d else d.putWord R.RING_BASE_HI [t, r] v)
      else if o % 16 = 8 then ctl r else d
    else if o = 0x808 then ctl cipherRing
    else d

/-- A BAR2 write that reaches the device through a port (R379, R398, R447, R677). A write that enables no byte of an index names none. -/
def Dev.bar2Write (d : Dev) (port a v mask : Nat) : Dev :=
  let t := (a - 0x1000000) / 0x1000
  let o := (a - 0x1000000) % 0x1000
  let w := d.bar2Merge a v mask
  if (bellRing o).isSome ∧ mask % 65536 = 0 then d
  else if d.mode = .restart then
    match bellRing o with
    | some r => doorbell port t r (w % 65536) false d
    | none => if o < 0x200 ∧ bitAt w 0 then doorbell port t (o / 8) 0 true d else d
  else if !d.runs then d
  else if d.portOf t ≠ port then d.bump F.DB_FOREIGN_COUNT [port]
  else if !d.on F.HOST_PORT_ENABLE [port] then d
  else if d.quiet then d.sendLink (.doorbell port a v mask)
  else d.bar2Word a w

/-- A BAR4 write of a port: the MSI-X table at 0x0000 (R738). -/
def Dev.bar4Write (d : Dev) (port a v mask : Nat) : Dev :=
  let i := (a - 0x1010000) / 4
  let old := (d.msixWord port i).toNat
  if d.runs && decide (i < 1024) then d.msixWrite port i ((old ^^^ (old &&& mask)) ||| (v &&& mask)) else d

/-- A word of BAR4: the MSI-X table, and the pending-bit array at 0x1000 (R738). -/
def Dev.bar4Read (d : Dev) (port a : Nat) : Nat :=
  let i := (a - 0x1010000) / 4
  if i < 1024 then (d.msixWord port i).toNat
  else (d.msixPend.map fun e => if e.1 = port ∧ e.2 / 32 = i - 1024 then 2 ^ (e.2 % 32) else 0).sum

/-- One word of an inbound write (R12, R447, R741–R743); the key written to `SEAL` binds every word after it. -/
def Dev.busWord (d : Dev) (port a v mask : Nat) : Dev :=
  if inBar2 a then d.bar2Write port a v mask
  else if inBar4 a then d.bar4Write port a v mask
  else if !d.runs ∨ !d.served port a then d
  else
    match regAt (d.place a) with
    | none => d
    | some (r, ix) =>
      if d.sealed && sealedOff a then d.bump F.SEAL_DROPS_COUNT
      else
        let d := d.writeReg r ix v mask
        if a = R.SEAL.base ∧ (v &&& mask) % 65536 = 0x5EA1 then d.wr F.BOOT_STATUS_SEALED [] 1 else d

/-- The enabled bits of a word, from its four byte enables. -/
def enabledBits (be : Nat) : Nat := ((List.range 4).map fun i => if bitAt be i then 255 * 256 ^ i else 0).sum

/-- Is an inbound request of `n` words well placed (R446)? -/
def requestOk (a n : Nat) : Bool := decide (1 ≤ n ∧ n ≤ 16) && a % 4 == 0 && a / 64 == (a + 4 * n - 1) / 64

/-- The words of an inbound write, in ascending order (R447). -/
def Dev.busWords (port : Nat) : Nat → List (Word × Nat) → Dev → Dev
  | _, [], d => d
  | a, w :: r, d => Dev.busWords port (a + 4) r (d.busWord port a w.1.toNat (enabledBits w.2))

/-- Is an address one of a receive-folio window: its channel (R241, R428)? -/
def windowOf (a : Nat) : Option Nat :=
  if 0x580000 ≤ a ∧ a < 0x5B0000 ∧ ((a % 0x2000 < 0x60) ∨ (0x80 ≤ a % 0x2000 ∧ a % 0x2000 < 0xE0)) then some ((a - 0x580000) / 0x2000)
  else none

/-- The addresses of a request. -/
def reqAddrs (a n : Nat) : List Nat := (List.range n).map fun i => a + 4 * i

/-- The channel whose gate a request passes, where it touches a window (R428). -/
def gateOfReq (a n : Nat) : Option Nat := (reqAddrs a n).findSome? windowOf

/-- A request that is not well placed completes with Unsupported Request status (R446). -/
def Dev.badRequest (d : Dev) (port : Nat) : Dev := (if d.runs then d.bump F.INBOUND_UR_COUNT [port] else d).emit (.unsupported port)

/-- Does an inbound write wait at a gate (R428, R450): it touches a window of a channel whose gate is not open? -/
def Dev.writeWaits (d : Dev) (a n : Nat) : Option Nat :=
  match gateOfReq a n with | some ch => if d.runs ∧ !d.gateOpen (canPart ch) then some (canPart ch) else none | none => none

/-- An inbound write to BAR0 or BAR2 (R446, R447); one to a window of a channel whose gate is not open waits there (R450). -/
def busWrite (port a : Nat) (w : List (Word × Nat)) (d : Dev) : Dev :=
  if d.mode = .halted ∨ d.mode = .park ∨ d.mode = .bootHeld ∨ (port < 4 ∧ !d.barsOn port) then d
  else if !requestOk a w.length then d.badRequest port
  else
    match d.writeWaits a w.length with
    | some p => d.modGate p fun g =>
        { g with waiting := g.waiting ++ [{ requester := 0x80 + port, port := some port, arrived := d.kept.transit,
                                            write := (reqAddrs a w.length).zip (w.map fun x => (x.1.toNat, enabledBits x.2)) }] }
    | none => Dev.busWords port a w d

/-! ### Reads -/

/-- Tick boundary minus the TD0 instant that it tracks, in ns (R40). -/
def Dev.phaseErr (d : Dev) : Int := (d.timeAt 0 d.tickStart - d.track) / nsUnit

/-- `TRANSIT_PHASE` (R40); an error that its field does not hold shows a free value (DESIGN CHOICE, log entry 107) (DESIGN CHOICE, log entry 153). -/
def Dev.phaseWord (d : Dev) : Nat :=
  let e := d.phaseErr
  if -20 ≤ e ∧ e ≤ 20 then ofInt 31 e + 2147483648
  else if -1073741824 ≤ e ∧ e < 1073741824 then ofInt 31 e else Config.widePhase e % 2147483648

/-- A core's `STATE` page shown from its slots (R224). -/
def coreKind (c : Nat) : Nat := if isFe c then 1 else 2
def Dev.slots (d : Dev) (kind target : Nat) : ImgSlots := sget d.images (256 * kind + target)
def ImgSlots.img (s : ImgSlots) (i : Nat) : Option Image := if i = 0 then s.img0 else s.img1
def ImgSlots.standby (s : ImgSlots) : Option Image := s.img (1 - s.active)
def imgVersion (i : Option Image) : Nat := match i with | some x => x.col.version | none => 0

/-- Is a core a spare (R714)? -/
def Dev.spare (d : Dev) (c : Nat) : Bool :=
  match d.alm with
  | some a => decide (c < 20) && (coreEntries a c).isEmpty
  | none => false

/-- What the registers show that stand in stores of their own, first half. -/
def showA (d : Dev) (r : RegDef) (ix : List Nat) (w : Nat) : Option Nat :=
  let i := ix.getD 0 0
  if r.isOne [R.DEV_ID] then some (insBits (insBits w 15 8 Config.stepping) 1 0 d.gradeF.toNat)
  else if r.isOne [R.DEV_ROM] then some (Config.romVersion % 4294967296)
  else if r.isOne [R.TRANSIT_COUNT_LO] then some (d.kept.transit % 4294967296)
  else if r.isOne [R.TRANSIT_PHASE] then
    some d.phaseWord
  else if r.isOne [R.ACC_NOW_LO] then some (d.acc % 4294967296)
  else if r.isOne [R.TD_RATE] then some (sat32 ((d.servo i).rate / 16777216))
  else if r.isOne [R.TD_DELTA] then some (d.tdDelta i)
  else if r.isOne [R.TS_QSTAT] then some (d.port i).stampsHeld
  else if r.isOne [R.CLASSIFY_INFO] then some (insBits w 31 31 d.gradeF.toNat)
  else if r.isOne [R.FLOW_STATE] then some (insBits w 29 29 (d.slots 1 i).active)
  else if r.isOne [R.FLOW_VERSION] then some (imgVersion (if (d.core i).hasImage then some (d.core i).image else none))
  else if r.isOne [R.IOSEQ_STATE] then some (insBits w 29 29 (d.slots 2 (16 + i)).active)
  else if r.isOne [R.IOSEQ_VERSION] then
    some (imgVersion (if (d.core (16 + i)).hasImage then some (d.core (16 + i)).image else none))
  else if r.isOne [R.CAN_STATUS] then some (insBits w 29 29 d.quiet.toNat)
  else if r.isOne [R.FOLIO_STAT] then
    let f := d.folio i (ix.getD 1 0)
    some (f.st % 8 * 536870912 + f.coll % 4 * 16777216 + f.last % 256)
  else if r.isOne [R.LIN_STATUS] then
    some (if (d.linCh i).asleep then insBits w 31 30 2
      else if !d.on F.LIN_CFG_ENABLE [i] ∨ (d.on F.LIN_CFG_ROLE [i] ∧ !d.on F.LIN_SCHED_RUN [i]) then insBits w 31 30 0 else w)
  else if r.isOne [R.PLCA_CFG, R.PLCA_BURST] then some (if i < 12 then 0 else w)
  else if r.isOne [R.SR_MSG] then some 0
  else none

/-- Second half: OUTPUT, INPUT, bridges, faults, pairing and live service. -/
def showB (d : Dev) (r : RegDef) (ix : List Nat) (w : Nat) : Option Nat :=
  let i := ix.getD 0 0
  let c := d.chan (chanAt ix)
  if r.isOne [R.PD_STATUS] then
    some (insBits (insBits (insBits w 31 31 (d.die i).crank.toNat) 29 29 (d.die i).throttling.toNat) 12 0
      (min 8191 (d.granted i / mwUnit)))
  else if r.isOne [R.CH_STATE] then some (c.outState % 8 * 536870912 + c.outDuty % 4096 * 65536 + c.outPhase % 256 * 256 + c.status (chanAt ix) % 256)
  else if r.isOne [R.CH_ENERGY] then
    some (c.retryLeft % 8 * 536870912 + min 16777215 (c.accountAt (chanAt ix) d.now / 10000))
  else if r.isOne [R.SW_STATE] then some (d.swState i)
  else if r.isOne [R.GATE_STATE] then
    let g := d.gate i
    some (if isGated i then g.st * 1073741824 + g.epoch * 65536 + min 65535 g.waiting.length else 0)
  else if r.isOne [R.SR_COMMIT_LO] then some (d.commitNo % 4294967296)
  else if r.isOne [R.FAULT_STATUS] then some (insBits w 29 26 (min 15 d.recentWithdrawals.length))
  else if r.isOne [R.FAULT_LAST_LO] then some (d.wd.acc % 4294967296)
  else if r.isOne [R.LS_APPLY_LO] then some (d.appliedAt % 4294967296)
  else if r.isOne [R.PAIR_CAP] then some (deltaCapacity d.len 1000)
  else if r.isOne [R.PAIR_TAKEOVER_LO] then some (d.tookOver.getD 0 % 4294967296)
  else
    let s := d.slots (d.rd F.LS_SLOT_SEL_KIND) (d.rd F.LS_SLOT_SEL_TARGET)
    let t := d.rd F.LS_SLOT_SEL_TARGET
    if r.isOne [R.LS_SLOT_INFO] then
      let kind := d.rd F.LS_SLOT_SEL_KIND
      let part := kind == 1 || kind == 2 || kind == 4 || (kind == 5 && isEthRes t)
      some (s.active * 2147483648 + s.standby.isSome.toNat * 1073741824 + s.verified.toNat * 536870912 +
        (decide (kind = 1 ∨ kind = 2) && d.spare t).toNat * 268435456 + (part && (d.gate t).quiesced).toNat * 134217728)
    else if r.isOne [R.LS_SLOT_VER0] then some (imgVersion s.img0)
    else if r.isOne [R.LS_SLOT_VER1] then some (imgVersion s.img1)
    else none

/-- The Strongroom's registers (R593): the same on every page but for the slot that the page selects, which
a DECOMMISSIONED unit does not show (R558). -/
def showSr (d : Dev) (sr : Strongroom) (r : RegDef) (ix : List Nat) (w : Nat) : Option Nat :=
  let s := sr.slot (d.rd F.SR_SLOT_SEL_SLOT [ix.getD 0 0])
  if r.isOne [R.SR_INFO] then some (insBits w 31 29 sr.lifecycle)
  else if r.isOne [R.SR_ID] then some (ofLe (slice sr.identity (4 * ix.getD 1 0) 4))
  else if r.isOne [R.SR_COUNTER] then some sr.counter
  else if r.isOne [R.SR_PAIR_COUNTER] then some sr.pairCounter
  else if sr.lifecycle = 4 ∧ r.isOne [R.SR_SLOT_ATTR, R.SR_SLOT_GEN] then some 0
  else if r.isOne [R.SR_SLOT_ATTR] then some (s.type * 16777216 + s.sflags * 65536 + s.usage)
  else if r.isOne [R.SR_SLOT_GEN] then some s.gen
  else none

/-- What a read of a register returns, folio windows apart. Write-only fields read 0: nothing is stored in them. -/
def Dev.showReg (d : Dev) (sr : Strongroom) (r : RegDef) (ix : List Nat) : Nat :=
  let w := regGet d.kept.regs r ix
  ((showA d r ix w) <|> (showB d r ix w) <|> (showSr d sr r ix w)).getD w

/-- A word of a receive queue's head for a requester (R241): none where the queue is empty or another requester holds it. -/
def RxQueue.word (q : RxQueue) (req w : Nat) : Option Nat :=
  match q.folios with
  | [] => none
  | f :: _ =>
    match q.lock with
    | some (h, _) => if h = req then some (ofLe (slice f (4 * w) 4)) else none
    | none => some (ofLe (slice f (4 * w) 4))

/-- The receive queue behind a register, if it is a window (R241). -/
def Dev.headQueue (d : Dev) (r : RegDef) (ix : List Nat) : Option RxQueue :=
  if r.isOne [R.CAN_QA_HEAD] then some (d.canCh (ix.getD 0 0)).qa
  else if r.isOne [R.CAN_QB_HEAD] then some (d.canCh (ix.getD 0 0)).qb else none

/-- Octet counters (R332): the pair of registers that holds the 64 bits, and whether the register is the low one. -/
def octetPair (r : RegDef) : Option (RegDef × RegDef × Bool) :=
  if r.isOne [R.RX_OCTETS_LO] then some (R.RX_OCTETS_LO, R.RX_OCTETS_HI, true)
  else if r.isOne [R.RX_OCTETS_HI] then some (R.RX_OCTETS_LO, R.RX_OCTETS_HI, false)
  else if r.isOne [R.TX_OCTETS_LO] then some (R.TX_OCTETS_LO, R.TX_OCTETS_HI, true)
  else if r.isOne [R.TX_OCTETS_HI] then some (R.TX_OCTETS_LO, R.TX_OCTETS_HI, false) else none

/-- The 64 bits of an octet counter. -/
def Dev.octetsOf (d : Dev) (lo hi : RegDef) (ix : List Nat) : Nat := regGet d.kept.regs lo ix + 4294967296 * regGet d.kept.regs hi ix

/-- Registers whose read latches others (R40, R332, R373, R593, R654, R655, R693, R725). -/
def Dev.latchOn (d : Dev) (r : RegDef) (ix : List Nat) : Dev :=
  let i := ix.getD 0 0
  if r.isOne [R.TRANSIT_COUNT_LO] then d.wr F.TRANSIT_COUNT_HI_COUNT [] (d.kept.transit / 4294967296)
  else if r.isOne [R.TD_NOW_SEC_LO] then
    let t := splitTime (d.timeAt i d.now)
    (((d.wr F.TD_NOW_SEC_LO_NOW [i] t.1).wr F.TD_NOW_SEC_HI_NOW [i] (t.1 / 4294967296)).wr F.TD_NOW_NS_NOW [i] t.2.1).wr
      F.TD_NOW_SUB_NOW [i] t.2.2
  else if r.isOne [R.SR_COMMIT_LO] then d.wr F.SR_COMMIT_HI_ACCESSION [i] (d.commitNo / 4294967296)
  else if r.isOne [R.ACC_NOW_LO] then d.wr F.ACC_NOW_HI_ACC [] (d.acc / 4294967296)
  else if r.isOne [R.FAULT_LAST_LO] then d.wr F.FAULT_LAST_HI_ACC [] (d.wd.acc / 4294967296)
  else if r.isOne [R.PAIR_TAKEOVER_LO] then d.wr F.PAIR_TAKEOVER_HI_TRANSIT [] (d.tookOver.getD 0 / 4294967296)
  else if r.isOne [R.LS_APPLY_LO] then d.wr F.LS_APPLY_HI_TRANSIT [] (d.appliedAt / 4294967296)
  else if r.isOne [R.LEDGER_DATA] ∧ i = 0 then
    let b := d.entryBytes (d.rd F.LEDGER_SEL_INDEX)
    (List.range 8).foldl (fun d w => d.wr F.LEDGER_DATA_DATA [w] (ofLe (slice b (4 * w) 4))) d
  else
    match octetPair r with
    | some (lo, hi, true) => { d with octLatch := sput d.octLatch (regKey lo ix) (regGet d.kept.regs hi ix) }
    | _ => d

/-- The place value and the maximum of the counting field of a side-effect register (R91, R94, R127). -/
def countUnit (r : RegDef) : Nat × Nat :=
  if r.isOne [R.WM_NOTICE] then (65536, 65535) else if r.isOne [R.POOL_NOTICE] then (131072, 32767) else (1, 4294967295)

/-- A word with the count that it returns, and whether that was saturated. -/
def PendWord.counted (w : PendWord) (unit max_ : Nat) : PendWord :=
  { w with count := w.value / unit, sat := w.value / unit == max_ }

/-- One word of an inbound read as its shell performs it: 0 where it is not served or not assigned (R378, R379, R740), ones in a
restart (R398) and, outside GLOBAL, LEDGER and FAULT, when halted (R643) (DEDUCED, log entry 106). A DECOMMISSIONED device shows identity, state and counters
only, and the `REASON` with which it refuses a message (R558) (DEDUCED, log entry 181). -/
def Dev.readWord (d : Dev) (sr : Strongroom) (port a : Nat) : PendWord :=
  let b := if sideWindow a then a - 0x400000 else a
  let haltedOk := decide (b < 0x20000) || decide (0x340000 ≤ b ∧ b < 0x344000)
  let identity (r : RegDef) : Bool := r.isOne [R.SR_INFO, R.SR_ID, R.SR_COUNTER, R.SR_PAIR_COUNTER, R.SR_STATUS]
  if d.mode = .restart ∨ (d.mode = .halted ∧ !haltedOk) then { key := 0xFFFFFFFF, value := 0xFFFFFFFF }
  else if inBar4 a ∧ port < 4 then { key := 0xFFFFFFFF, value := d.bar4Read port a }
  else if !d.served port a then { key := 0xFFFFFFFF }
  else
    match regAt (d.place a) with
    | none => { key := 0xFFFFFFFF }
    | some (r, ix) =>
      if sr.lifecycle = 4 ∧ !identity r then { key := 0xFFFFFFFF }
      else match d.headQueue r ix with
      | some q =>
        match q.word (0x80 + port) (ix.getD 1 0) with
        | some v => { key := regKey r ix, value := v, head := true }
        | none => { key := regKey r ix }
      | none =>
        match octetPair r with
        | some (lo, hi, true) => ({ key := regKey r ix, value := d.octetsOf lo hi ix } : PendWord).counted 1 18446744073709551615
        | some (lo, _, false) => { key := regKey r ix, value := sget d.octLatch (regKey lo ix) }
        | none => ({ key := regKey r ix, value := d.showReg sr r ix } : PendWord).counted (countUnit r).1 (countUnit r).2

/-- One word, with what its read latches. -/
def Dev.takeWord (d : Dev) (sr : Strongroom) (port a : Nat) : PendWord × Dev :=
  let w := d.readWord sr port a
  let d := if w.key = 0xFFFFFFFF ∨ d.mode = .restart then d
    else match regAt w.key with | some (r, ix) => d.latchOn r ix | none => d
  (d.readWord sr port a, d)

/-- The words of a request in ascending order (R447). -/
def Dev.takeWords (sr : Strongroom) (port : Nat) : List Nat → Dev → List PendWord × Dev
  | [], d => ([], d)
  | a :: r, d =>
    let (w, d) := d.takeWord sr port a
    let (l, d) := Dev.takeWords sr port r d
    (w :: l, d)

/-- A read is performed: what its delivery will do is noted (R10, R455). Its words leave for the requester at once; those of a read
`behind` a gate leave as they are delivered, because until then the gate may answer in its part's place (R449). -/
def Dev.performRead (d : Dev) (sr : Strongroom) (port s : Nat) (addrs : List Nat) (behind : Bool) : Dev :=
  let (w, d) := Dev.takeWords sr port addrs d
  let d := if behind then d else d.emit (.read port (w.map fun x => BitVec.ofNat 32 x.value))
  { d with pendReads := d.pendReads ++ [{ id := s, port, since := d.now, behind, words := w }] }

/-- A read of the registers (R376–R379, R435, R446–R451, R455): a window of a CAN channel whose gate is not open holds it there; every
other read is performed. `port` is the reader's code. A device that is parked or held in a reset does not answer (DEDUCED, log entry 170). -/
def busRead (port a n : Nat) (sr : Strongroom) (d : Dev) : Dev :=
  if d.mode = .park ∨ d.mode = .bootHeld ∨ d.mode = .resetHeld ∨ (port < 4 ∧ !d.barsOn port) then d
  else if !requestOk a n then d.badRequest port
  else if !d.portAccepts port then d
  else
    match gateOfReq a n with
    | some ch =>
      match d.issue (0x80 + port) (canPart ch) n with
      | none => d
      | some (s, d) =>
        if d.gateOpen (canPart ch) then d.performRead sr port s (reqAddrs a n) true
        else d.modGate (canPart ch) fun g =>
          { g with waiting := g.waiting ++ [{ serial := s, requester := 0x80 + port, port := some port, words := reqAddrs a n, arrived := d.kept.transit }] }
    | none =>
      match d.issue (0x80 + port) (d.shellPart port a) n with
      | none => d
      | some (s, d) => d.performRead sr port s (reqAddrs a n) false

/-- A request that waited passes its gate: a read is performed, a posted write takes effect, the effect of a host item acts. -/
def Dev.passRequest (d : Dev) (sr : Strongroom) (p : Nat) (r : GateReq) : Dev :=
  match r.effect with
  | some e => ((d.passGate r.requester r.serial p).collect r.requester r.serial).actEffects sr e
  | none =>
    match r.port with
    | none => d
    | some port =>
      if r.write = [] then (d.passGate r.requester r.serial p).performRead sr port r.serial r.words true
      else r.write.foldl (fun d w => d.busWord port w.1 w.2.1 w.2.2) d

/-- A gate opens: the requests that waited pass in order of arrival (R452). -/
def Dev.openGate (d : Dev) (sr : Strongroom) (p : Nat) : Dev :=
  (d.gate p).waiting.foldl (fun d r => d.passRequest sr p r) (d.modGate p fun g => { g with st := 0, quiesced := false, waiting := [] })

/-! ### Delivery (R10, R241, R455) -/

/-- A counting field after the delivery of a read (R10). -/
def countAfter (cur max_ : Nat) (w : PendWord) : Nat := if w.sat then min max_ w.added else cur - w.count

/-- What the delivery of a word leaves another undelivered read of the same counter to take: not the counts that the delivered word
has taken (R10: no count is lost that no delivered read has returned). -/
def PendWord.after (w x : PendWord) : PendWord :=
  if x.key ≠ w.key then x
  else if !x.sat then { x with count := x.count - w.count }
  else if w.sat then { x with count := w.added - x.added, sat := false }
  else x

/-- A delivered word of a receive queue's head (R241). -/
def RxQueue.delivered (q : RxQueue) (req w transit : Nat) : RxQueue :=
  let hold := match q.lock with | some (h, _) => h == req | none => true
  if !hold then q
  else if w = 23 then { q with folios := q.folios.drop 1, lock := none }
  else match q.lock with | some _ => q | none => { q with lock := some (req, transit) }

/-- A delivered folio word: lock, or pop with the last word. -/
def Dev.headDelivered (d : Dev) (port : Nat) (w : PendWord) : Dev :=
  match regAt w.key with
  | none => d
  | some (r, ix) =>
    if !w.head then d
    else
      let ch := ix.getD 0 0
      let d := d.modCan ch fun c =>
        if r.isOne [R.CAN_QA_HEAD] then { c with qa := c.qa.delivered (0x80 + port) (ix.getD 1 0) d.kept.transit }
        else { c with qb := c.qb.delivered (0x80 + port) (ix.getD 1 0) d.kept.transit }
      (d.wr F.CAN_QSTAT_QA_DEPTH [ch] (d.canCh ch).qa.folios.length).wr F.CAN_QSTAT_QB_DEPTH [ch] (d.canCh ch).qb.folios.length

/-- The side effect of one delivered word of the side-effect window; a notice that still counts crossings is posted again (R93, R94). -/
def Dev.wordDelivered (d : Dev) (w : PendWord) : Dev :=
  match regAt w.key with
  | none => d
  | some (r, ix) =>
    let put (v : Nat) : Dev := d.modK fun k => { k with regs := regPut k.regs r ix v }
    let cur := regGet d.kept.regs r ix
    if r.isOne [R.WM_NOTICE] then
      let q := ix.getD 0 0
      let n := countAfter (cur / 65536) 65535 w
      let d := put (n * 65536 + min 65535 (d.queue q).depth)
      let d := { d with queues := smod d.queues q fun g => { g with noticed := n != 0 } }
      if n = 0 then d else d.tellWatermark q
    else if r.isOne [R.POOL_NOTICE] then
      let n := countAfter (cur / 131072) 32767 w
      let d := { (put (n * 131072 + d.freeCells)) with poolNoticed := n != 0 }
      if n = 0 then d else d.tellPool
    else if (octetPair r).isSome then
      match octetPair r with
      | some (lo, hi, true) =>
        let v := countAfter (d.octetsOf lo hi ix) 18446744073709551615 w
        d.modK fun k => { k with regs := regPut (regPut k.regs lo ix (v % 4294967296)) hi ix (v / 4294967296) }
      | _ => d
    else if r.fields.any fun f => f.acc == .rc then put (countAfter cur 4294967295 w)
    else d

/-- The delivery of a read's reply: all its words act at once (R455); those of a read behind a gate leave the device now. A reply whose requester's epoch has moved is discarded (R438). -/
def readDelivered (port s : Nat) (only : PendWord → Bool) (d : Dev) : Dev :=
  match d.pendReads.find? fun p => p.id == s && p.port == port with
  | none => d
  | some p =>
    if !(p.words.any only) then d
    else match d.slipOf (0x80 + port) s with
    | none => d
    | some x =>
    if x.ended.isSome then d
    else if x.reqEpoch ≠ (d.gate (0x80 + port)).epoch then ((d.bump F.STALE_REPLY_COUNT [x.target]).dropRead port s).collect (0x80 + port) s
    else
      let d := (d.dropRead port s).collect (0x80 + port) s
      let d := if p.behind then d.emit (.read port (p.words.map fun x => BitVec.ofNat 32 x.value)) else d
      p.words.foldl (fun d w =>
        let d := (d.headDelivered port w).wordDelivered w
        { d with pendReads := d.pendReads.map fun q => { q with words := q.words.map w.after } }) d

end Sys2Proof.Machine
end

