-- ==== Sys2Proof/Machine/Live.lean ====
section
/-! DEFINITION. Live service: image slots, configuration records, verification, activation and its apply boundary, quiesce,
resume and the length change (R67, R70, R222, R223, R696–R726, R789). -/

namespace Sys2Proof.Machine

/-! ### Slots and targets (R696) -/

/-- Slot capacity in bytes by `PART_KIND`. -/
def imgCapacity (kind : Nat) : Nat := 1024 * [0, 832, 72, 528, 24, 24, 24, 1].getD kind 0

/-- The targets of each kind. -/
def imgTarget (kind target : Nat) : Bool :=
  match kind with
  | 1 => decide (target < 16)
  | 2 => decide (16 ≤ target ∧ target < 20)
  | 3 => target == 0x7F
  | 4 => isCanRes target || isLinRes target
  | 5 => isEthRes target || target == 0x7F
  | 6 => decide (target < 16)
  | 7 => target == 0x70 || target == 0x71
  | _ => false

/-- Every kind and target. -/
def imgTargets : List (Nat × Nat) :=
  (List.range 8).flatMap fun k => ((List.range 128).filter fun t => imgTarget k t).map fun t => (k, t)

def Dev.modSlots (d : Dev) (kind target : Nat) (f : ImgSlots → ImgSlots) : Dev :=
  { d with images := smod d.images (256 * kind + target) f }

def ImgSlots.putStandby (s : ImgSlots) (i : Option Image) : ImgSlots :=
  if s.active = 0 then { s with img1 := i } else { s with img0 := i }

/-- The active image of a target. -/
def ImgSlots.live (s : ImgSlots) : Option Image := s.img s.active

/-- The standby slot becomes the active one. -/
def ImgSlots.switch (s : ImgSlots) : ImgSlots := { s with active := 1 - s.active, verified := false }

/-- The almanac in an image. -/
def imgAlmanac (i : Image) : Option Almanac := match i.body with | .almanac a => some a | _ => none

/-- The gated part that a kind and target name, if any (R700, R720). -/
def livePart (kind target : Nat) : Option Nat :=
  if kind = 1 ∨ kind = 2 ∨ kind = 4 ∨ (kind = 5 ∧ isEthRes target) then some target else none

/-- The part whose gate leaves OPEN while an image is activated: those, and the die link of a recalibration (R448, R716). -/
def gatePart (kind target : Nat) : Option Nat := if kind = 7 then some target else livePart kind target

/-! ### Configuration records (R699–R702) -/

/-- May an image of the kind and target address the register (R700)? `a` is its BAR0 offset. -/
def recordMay (kind target a : Nat) (r : RegDef) (ix : List Nat) : Bool :=
  let i := ix.getD 0 0
  if kind = 4 then
    if isCanRes target then
      a / 0x2000 == (0x180000 + 0x2000 * (target - 0x40)) / 0x2000 ||
        (r.isOne [R.SWK_CTL, R.SWK_ID, R.SWK_MASK, R.SWK_DATA_LO, R.SWK_DATA_HI] && i == target - 0x40)
    else a / 0x1000 == 0x1C0 + (target - 0x60) || (r.isOne [R.LIN_WAKE] && i == target - 0x60)
  else if kind = 5 ∧ target = 0x7F then
    decide (0x80000 ≤ a ∧ a < 0x100000 ∧ !(0xC1000 ≤ a ∧ a < 0xC10C0)) || decide (0x20100 ≤ a ∧ a < 0x20300) ||
      (decide (0x280000 ≤ a ∧ a < 0x2C0000) && !r.isOne [R.CH_CAL]) ||
      (decide (0x2C0000 ≤ a ∧ a < 0x2D0000)) || r.isOne [R.HOST_PORT, R.SR_CFG] || decide (0x340000 ≤ a ∧ a < 0x34C000)
  else if kind = 5 then a / 0x4000 == (0x200000 + 0x4000 * (target - 0x20)) / 0x4000 || (r.isOne [R.PORT_LAT_RX, R.PORT_LAT_TX] && i == target - 0x20)
  else if kind = 6 then
    r.isOne [R.RING_SEL] || (r.isOne [R.TENANT_CFG, R.TENANT_BUDGET, R.RING_CFG_A, R.RING_CFG_B, R.RING_CFG_C] && i == target) ||
      a / 0x1000 == 0x300 + target
  else false

/-- The bits of a register that are RW. -/
def rwBits (r : RegDef) : Nat :=
  (r.fields.map fun f => if f.acc = .rw then (2 ^ (f.hi + 1 - f.lo) - 1) * 2 ^ f.lo else 0).sum

/-- Does a record touch an indirection entry, or change a MACsec association, a receive channel or the association that a port sends with?
After SEAL only their commands do (R183, R328, R333). -/
def changesSealed (old new : Dev) (r : RegDef) (ix : List Nat) : Bool :=
  let a := (r.base - 0x200000) % 0x4000
  r.isOne [R.INDIR] ||
    (decide (0x200000 ≤ r.base ∧ r.base < 0x204000 ∧ 0x440 ≤ a ∧ a < 0x900) && regGet old.kept.regs r ix != regGet new.kept.regs r ix) ||
    (r.isOne [R.SECY_CFG] && old.rd F.SECY_CFG_TX_AN ix != new.rd F.SECY_CFG_TX_AN ix)

/-- One record applied, or nothing where it is not valid (R701) (DEDUCED, log entry 127). -/
def Dev.applyRecord (kind target : Nat) (d : Dev) (c : CfgRecord) : Option Dev :=
  if c.offset % 4 ≠ 0 ∨ 0x1000000 ≤ c.offset then none
  else
    match regAt (d.banked c.offset) with
    | none => none
    | some (r, ix) =>
      let m := c.mask.toNat
      let v := c.value.toNat &&& m
      let d' := d.writeReg r ix ((regGet d.kept.regs r ix ^^^ (regGet d.kept.regs r ix &&& m)) ||| v) m
      -- before SEAL a table is switched by the field itself (R274)
      let i := ix.getD 0 0
      let d' := if r.isOne [R.LIN_SCHED] && bitsOf m 9 8 != 0 && !d.sealed then requestWritten i (d'.rd F.LIN_SCHED_REQUEST [i]) d' else d'
      if recordMay kind target c.offset r ix && !(d.sealed && changesSealed d d' r ix) && m &&& rwBits r == m && regGet d'.kept.regs r ix &&& m == v &&
          (!r.isOne [R.RING_SEL] || d'.rd F.RING_SEL_TENANT == target) then some d' else none

def Dev.applyRecords (kind target : Nat) : List CfgRecord → Dev → Option Dev
  | [], d => some d
  | c :: l, d => match d.applyRecord kind target c with | some d => Dev.applyRecords kind target l d | none => none

/-- Calibration entries (R511): channel of the die and its `CH_CAL` word. -/
def Dev.applyCal (target : Nat) (d : Dev) (l : List (Nat × Nat)) : Dev :=
  l.foldl (fun d e => if e.1 < 36 then d.putWord R.CH_CAL [target - 0x70, e.1] e.2 else d) d

/-- An image's records in force, the select registers as before (R702). -/
def Dev.configured (d : Dev) (kind target : Nat) (i : Image) : Option Dev :=
  match i.body with
  | .config l => (d.applyRecords kind target l).map fun n =>
      let back (r : RegDef) (m : Sparse Word) : Sparse Word := regPut m r [] (regGet d.kept.regs r [])
      n.modK fun k => { k with regs := back R.QSEL (back R.RING_SEL (back R.GATE_SEL k.regs)) }
  | .calibration l => some (d.applyCal target l)
  | _ => some d

/-! ### The checks of a part's boot (R222, R703) -/

/-- Does the key of slot `SIGNER` verify the image, and permit it (R222)? The key's y coordinate stands in the next slot (DEDUCED, log entry 59). -/
def signatureOk (sr : Strongroom) (c : Colophon) : Bool :=
  let x := sr.slot c.signer
  let y := sr.slot (c.signer + 1)
  handleOk c.signer && x.type == 4 && x.uses useImage && y.type == 5 && ecdsaVerify x.value y.value c.digest c.signature

/-- The sizes and entry addresses of a core image, and the ranges of its colophon's fields (R220, R222). -/
def coreImageOk (kind : Nat) (c : Colophon) (table : List (Nat × Nat)) : Bool :=
  let p := 64 * c.persistLines
  decide (c.persistLines ≤ if kind = 1 then 1024 else 128) && decide (c.svFirst < 8192) && decide (c.cipherMax ≤ 512) &&
  (if kind = 1 then decide (c.codeLen ≤ 0x40000) && decide (p + c.initLen ≤ 0x80000)
   else decide (c.codeLen + p + c.initLen + 1024 ≤ 0x10000)) &&
    table.all fun e => decide (e.2 < c.codeLen) && e.2 % 4 == 0

/-- The check of an image for a part: 0, or the `REASON` (R222, R699, R701, R703). -/
def Dev.imageFault (d : Dev) (sr : Strongroom) (kind target : Nat) (i : Image) : Nat :=
  let c := i.col
  let body := match i.body with
    | .core _ _ t => decide (kind = 1 ∨ kind = 2) && coreImageOk kind c t
    | .almanac _ => kind == 3
    | .config l => decide (4 ≤ kind ∧ kind ≤ 6) && decide (l.length ≤ 2037) && c.codeLen == 0
    | .calibration _ => kind == 7
    | .none => false
  if !(c.magicOk && c.formatOk && c.kind == kind && (c.target == target || (c.any && decide (kind < 3))) && c.crcOk && body) then 4
  else if !signatureOk sr c then 5
  else if (d.configured kind target i).isNone then 0x0D
  else 0

/-! ### Ending a command (R704, R707, R724, R726) -/

/-- Status code of a `REASON` (R725). -/
def liveCode (reason : Nat) : Nat :=
  if reason = 0 then 0 else if reason = 5 then 0x51 else if reason = 7 then 0x10 else if reason = 9 then 0x11 else 0x12

/-- A command ends: `LS_STATUS`, the counters and the event record; every `REASON` counts in `LS_REFUSED` (DEDUCED, log entry 175). -/
def Dev.liveEnd (d : Dev) (op kind target code reason applied : Nat) : Dev :=
  let d := ((d.wr F.LS_STATUS_DONE [] 1).wr F.LS_STATUS_CODE [] code).wr F.LS_STATUS_REASON [] reason
  let d := if reason = 0 then d else d.bump F.LS_REFUSED_COUNT
  d.event (d.rd F.LS_CFG_EVT_TENANT) 0x0320 0 target
    (detail16 (leBytes 1 op ++ leBytes 1 code ++ leBytes 1 reason ++ leBytes 1 kind ++ leBytes 8 applied))

/-- The command in hand ends. -/
def Dev.liveDone (d : Dev) (code reason applied : Nat) : Dev :=
  match d.live with
  | none => d
  | some o =>
    let d := { (d.wr F.LS_STATUS_BUSY [] 0) with live := none }
    if o.fromPeer then d else d.liveEnd o.op o.kind o.target code reason applied

/-- The command in hand cannot apply: where its part's gate has left OPEN, it ends at the boundary that opens the gate again (R721). -/
def Dev.liveFails (d : Dev) (code reason : Nat) : Dev :=
  match d.live with
  | some o => if o.closing then { d with live := some { o with failed := some (code, reason) } } else d.liveDone code reason 0
  | none => d

/-- A slot loses its verification: 1 by ABORT, 2 by a withdrawal, 3 because `SIGNER` was rewritten (R704, R724). -/
def Dev.unverify (d : Dev) (kind target why : Nat) : Dev :=
  if (d.slots kind target).verified then
    (d.modSlots kind target fun s => { s with verified := false }).event (d.rd F.LS_CFG_EVT_TENANT) 0x0321 0 target
      (detail16 (leBytes 1 kind ++ leBytes 1 why))
  else d

/-- Every verified slot that `p` chooses loses its verification. -/
def Dev.unverifyAll (d : Dev) (why : Nat) (p : Image → Bool) : Dev :=
  d.images.foldl (fun d e =>
    match e.2.standby with
    | some i => if p i then d.unverify (e.1 / 256) (e.1 % 256) why else d
    | none => d) d

/-- A Strongroom commit has changed the generation of slots (R704). -/
def Dev.signersChanged (d : Dev) (old new : Strongroom) : Dev :=
  d.unverifyAll 3 fun i => (old.slot i.col.signer).gen != (new.slot i.col.signer).gen

/-! ### The checks of ACTIVATE (R706, R708, R712, R715, R721) -/

/-- Colophons of the exchange group (R706). -/
def Dev.group (d : Dev) : List (Nat × Colophon) :=
  d.images.filterMap fun e => if e.1 / 256 < 4 then e.2.live.map fun i => (e.1, i.col) else none

/-- Do two images of the group accept each other? -/
def ifaceOk (x y : Colophon) : Bool := decide (y.requires ≤ x.provides) && decide (x.requires ≤ y.provides)

/-- Would the group hold with the images `new` in place (R706)? -/
def Dev.groupOk (d : Dev) (new : List (Nat × Colophon)) : Bool :=
  let rest := d.group.filter fun y => !(new.any fun x => x.1 == y.1)
  new.all fun x => rest.all (fun y => ifaceOk x.2 y.2) && new.all fun y => x.1 == y.1 || ifaceOk x.2 y.2

/-- Do the shared words of a core's new image meet those of a core that holds almanac entries (R712, R714)? -/
def Dev.svMeets (d : Dev) (a : Option Almanac) (c : Nat) (x : Colophon) : Bool :=
  match a with
  | none => false
  | some a => !(coreEntries a c).isEmpty && x.svCount != 0 && (List.range 20).any fun k =>
      let y := (d.core k).image.col
      k != c && !(coreEntries a k).isEmpty && (d.core k).hasImage && y.svCount != 0 && spansMeet (x.svFirst, x.svCount) (y.svFirst, y.svCount)

/-- Do the shared words of two cores to which an almanac gives entries meet (R213)? -/
def Dev.anySvMeets (d : Dev) (a : Option Almanac) : Bool :=
  (List.range 20).any fun c => (d.core c).hasImage && d.svMeets a c (d.core c).image.col

/-- Has the core a SAFETY entry in the active almanac? -/
def Dev.safetyCore (d : Dev) (c : Nat) : Bool :=
  match d.alm with | some a => (coreEntries a c).any fun e => e.cls == 0 | none => false

/-- Is a tenant image barred by a ring or a tenant that is enabled (R718)? `n` has its records in force. -/
def Dev.tenantBars (d n : Dev) (t : Nat) : Bool :=
  (d.on F.TENANT_CFG_ENABLE [t] && d.portOf t != n.portOf t) ||
    (List.range 64).any (fun r => d.ringOn t r && (d.ringKind t r != n.ringKind t r || d.ringSize t r != n.ringSize t r ||
      d.ringCq t r != n.ringCq t r || d.ringClass t r != n.ringClass t r ||
      d.on F.RING_CFG_A_DIRECT [t, r] != n.on F.RING_CFG_A_DIRECT [t, r] || d.rd F.RING_CFG_B_QUEUE [t, r] != n.rd F.RING_CFG_B_QUEUE [t, r])) ||
    (d.ringOn t cipherRing && (d.ringKind t cipherRing != n.ringKind t cipherRing || d.ringSize t cipherRing != n.ringSize t cipherRing ||
      d.ringCq t cipherRing != n.ringCq t cipherRing || d.ringClass t cipherRing != n.ringClass t cipherRing))

/-- The move that `LS_MOVE` asks for (R715). -/
def Dev.moveAsked (d : Dev) (kind : Nat) : Option (Nat × Nat) :=
  if kind = 3 ∧ d.on F.LS_MOVE_VALID then some (d.rd F.LS_MOVE_SOURCE, d.rd F.LS_MOVE_DEST) else none

/-- Does a move keep R715? -/
def Dev.moveOk (d : Dev) (a : Almanac) (s t : Nat) : Bool :=
  decide (s < 20) && decide (t < 20) && s != t && d.spare t && (coreEntries a s).isEmpty && (d.core t).hasImage &&
    decide ((d.core t).image.col.requires ≤ (d.core s).image.col.provides) &&
    (coreEntries a t).all fun e => (imgTable (d.core t).image).any fun p => p.1 == e.id

/-- Why an activation is refused: a `REASON`, with the failed check of admission; none where it is accepted. `force` is the
length that the almanac must have (DEDUCED, log entry 56). -/
def Dev.activateFault (d : Dev) (o : LiveOp) (force : Option Nat) : Option (Nat × Refused) :=
  let s := d.slots o.kind o.target
  let sa := d.slots 3 0x7F
  let newAlm := (if o.kind = 3 then s.standby else if o.withAlm then sa.standby else none)
  let alm := match newAlm with | some i => imgAlmanac i | none => d.alm
  match s.standby with
  | none => some (0x0A, 0, 0, 0)
  | some i =>
    let news := (if o.kind < 4 then [(256 * o.kind + o.target, i.col)] else []) ++
      (if o.kind ≠ 3 ∧ o.withAlm then match sa.standby with | some j => [(0x37F, j.col)] | none => [] else [])
    if !s.verified ∨ (o.withAlm ∧ !sa.verified) then some (0x0A, 0, 0, 0)
    else if !d.groupOk news then some (6, 0, 0, 0)
    else if (match o.move, alm with | some (x, y), some a => !d.moveOk a x y | _, _ => false) then some (6, 0, 0, 0)
    else
      match d.configured o.kind o.target i with
      | none => some (0x0D, 0, 0, 0)
      | some n =>
        let n := if o.kind < 3 then n.modCore o.target fun k => { k with image := i, hasImage := true } else n
        let slack : Slack := fun c => if o.move.map Prod.snd = some c then 1100 else 0
        match alm.bind fun a => n.almanacRefused a (if newAlm.isSome then force else none) slack with
        | some x => some (7, x)
        | none =>
          if o.kind < 3 ∧ d.safetyCore o.target then some (8, 0, 0, 0)
          else if o.kind < 3 ∧ d.svMeets alm o.target i.col then some (0x0E, 0, 0, 0)
          else if newAlm.isSome ∧ n.anySvMeets alm then some (0x0E, 0, 0, 0)
          else none

/-! ### Commands (R697–R707, R720, R721, R723) -/

/-- `LS_CMD` takes the fields that are written with `GO` (R725). -/
def Dev.lsFields (d : Dev) (op : Nat) (f : LsFields) : Dev :=
  let d := ((d.wr F.LS_CMD_PAIR [] f.pair.toNat).wr F.LS_CMD_CARRY [] f.carry.toNat).wr F.LS_CMD_WITH_ALMANAC [] f.withAlm.toNat
  ((d.wr F.LS_CMD_TARGET [] f.target).wr F.LS_CMD_KIND [] f.kind).wr F.LS_CMD_OP [] op

/-- `GO` with an operation through a port: `LS_CMD` takes the fields, and what every operation is refused for comes first. -/
def Dev.liveGo (d : Dev) (port op : Nat) (f : LsFields) (run : Dev → Dev) : Dev :=
  if !d.runs ∨ !d.livePort port then d
  else
    let d := d.lsFields op f
    let no (reason : Nat) : Dev := d.liveEnd op f.kind f.target (liveCode reason) reason 0
    if d.live.isSome then no 9
    else if d.rd F.PARK_STATUS_STATE ≠ 0 then no 0x0F
    else if !imgTarget f.kind f.target then no 1
    else if d.shadow ∧ (3 = op ∨ 5 ≤ op) then no 0x0B
    else run d

/-- While the pair is synchronised an operation on both units is asked for, but for calibration (R719, R721). -/
def Dev.pairRule (d : Dev) (f : LsFields) : Bool := if f.kind = 7 then f.pair else d.synced != f.pair

/-- STORE (R697): `image` are the bytes that the DMA read gave, nothing where it failed (DEDUCED, log entry 55). -/
def liveStore (port : Nat) (f : LsFields) (image : Option (List Byte)) (d : Dev) : Dev :=
  d.liveGo port 1 f fun d =>
    let s := d.slots f.kind f.target
    let fin (d : Dev) (reason : Nat) : Dev := d.liveEnd 1 f.kind f.target (liveCode reason) reason 0
    let n := d.rd F.LS_LEN_BYTES
    if n < 128 then fin d 1
    else if imgCapacity f.kind < n then fin d 3
    else if s.verified then fin d 2
    else
      let d := d.readHost port (64 * d.rd F.LS_ADDR_LO_ADDR + 2 ^ 32 * d.rd F.LS_ADDR_HI_ADDR) n
      match image with
      | none => (d.modSlots f.kind f.target fun s => s.putStandby none).liveEnd 1 f.kind f.target 0x21 0 0
      | some b =>
        let i := imageOf (b.take n)
        let c := i.col
        if !c.magicOk ∨ !c.formatOk ∨ c.kind ≠ f.kind then fin d 1
        else if c.target ≠ f.target ∧ !(c.any ∧ f.kind < 3) then fin d 2
        else fin (d.modSlots f.kind f.target fun s => s.putStandby (some i)) 0

/-- VERIFY (R703). -/
def liveVerify (port : Nat) (f : LsFields) (sr : Strongroom) (d : Dev) : Dev :=
  d.liveGo port 2 f fun d =>
    let reason := match (d.slots f.kind f.target).standby with
      | none => 4
      | some i => d.imageFault sr f.kind f.target i
    let d := if reason = 0 then d.modSlots f.kind f.target fun s => { s with verified := true } else d.bump F.VERIFY_FAILS_COUNT
    d.liveEnd 2 f.kind f.target (liveCode reason) reason 0

/-- ABORT (R704). -/
def liveAbort (port : Nat) (f : LsFields) (d : Dev) : Dev :=
  d.liveGo port 4 f fun d => (d.unverify f.kind f.target 1).liveEnd 4 f.kind f.target 0 0 0

/-- An operation is accepted: it is in hand until its boundary, and a paired one goes to the companion (R707, R721). -/
def Dev.liveTake (d : Dev) (o : LiveOp) : Dev :=
  let d := { (d.wr F.LS_STATUS_BUSY [] 1) with live := some o }
  if o.pair ∧ !o.fromPeer then
    let c := match (d.slots o.kind o.target).standby with | some i => i.col | none => {}
    d.sendLink (.liveCommand o.op o.kind o.target o.carry o.withAlm o.move c.version c.bodyCrc)
  else d

/-- The length that an almanac must have for an operation: any where none is active, or for LENGTH (R55, R789). -/
def Dev.forced (d : Dev) (op : Nat) : Option Nat := if d.active && op != 7 then some (d.rd F.TRANSIT_CFG_LEN) else none

/-- The first transit whose opening boundary the operation can take effect at (R70, R709, R716, R718, R720, R789): a die link's
gate stays closed across one boundary (R439) (DEDUCED, log entry 57). -/
def Dev.applyFrom (d : Dev) (op kind : Nat) : Nat :=
  if op = 3 ∧ kind < 3 then d.kept.transit + 3
  else if (op = 3 ∧ kind = 3 ∧ d.active) ∨ op = 7 then d.kept.transit + 4
  else if op = 3 ∧ kind = 7 then d.kept.transit + 2
  else d.kept.transit + 1

def liveOpOf (d : Dev) (op : Nat) (f : LsFields) : LiveOp :=
  { op, kind := f.kind, target := f.target, pair := f.pair, carry := f.carry, withAlm := f.withAlm, move := if op = 3 then d.moveAsked f.kind else none,
    transit := d.kept.transit, applyAt := some (d.applyFrom op f.kind), peerOk := !f.pair }

/-- ACTIVATE (R704–R718, R721), and LENGTH (R70), which names the standby almanac. -/
def Dev.activateGo (d : Dev) (op : Nat) (f : LsFields) : Dev :=
  let o := liveOpOf d op f
  if d.pairRule f then d.liveEnd op f.kind f.target 0x12 0x0B 0
  else
    match d.activateFault o (d.forced op) with
    | none => d.liveTake o
    | some (reason, x) =>
      let d := if reason = 7 then d.noteRefusal x else d
      d.liveEnd op f.kind f.target (liveCode reason) reason 0

def liveActivate (port : Nat) (f : LsFields) (d : Dev) : Dev := d.liveGo port 3 f fun d => d.activateGo 3 f

def liveLength (port : Nat) (f : LsFields) (d : Dev) : Dev :=
  d.liveGo port 7 f fun d => if f.kind = 3 then d.activateGo 7 f else d.liveEnd 7 f.kind f.target 0x12 1 0

/-- QUIESCE and RESUME (R720). -/
def Dev.quiesceGo (d : Dev) (op : Nat) (f : LsFields) : Dev :=
  match livePart f.kind f.target with
  | none => d.liveEnd op f.kind f.target 0x12 1 0
  | some p =>
    if d.pairRule f then d.liveEnd op f.kind f.target 0x12 0x0B 0
    else if op = 5 ∧ p < 20 ∧ d.safetyCore p then d.liveEnd op f.kind f.target 0x12 8 0
    else d.liveTake (liveOpOf d op f)

def liveQuiesce (port : Nat) (f : LsFields) (d : Dev) : Dev := d.liveGo port 5 f fun d => d.quiesceGo 5 f
def liveResume (port : Nat) (f : LsFields) (d : Dev) : Dev := d.liveGo port 6 f fun d => d.quiesceGo 6 f

/-- `GO` with an operation that has no meaning (R725). -/
def liveOther (port op : Nat) (f : LsFields) (d : Dev) : Dev :=
  if !d.runs ∨ !d.livePort port then d
  else
    let d := d.lsFields op f
    if d.live.isSome then d.liveEnd op f.kind f.target 0x11 9 0 else d.liveEnd op f.kind f.target 0x12 1 0

/-- The companion forwards a paired operation (R721): it must hold the same image, verified. `sent` is the low half of the transit
counter at which it was accepted, so that both units count from the same transit. -/
def peerLive (sent op kind target : Nat) (carry withAlm : Bool) (move : Option (Nat × Nat)) (version crc : Nat) (d : Dev) : Dev :=
  let f : LsFields := { pair := true, carry, withAlm, kind, target }
  let back := (d.kept.transit + 2 ^ 32 - sent % 2 ^ 32) % 2 ^ 32
  let o := liveOpOf { d with kept := { d.kept with transit := d.kept.transit - (if back = 1 then 1 else 0) } } op f
  let o := { o with peerOk := false, fromPeer := true, move }
  let same := match (d.slots kind target).standby with | some i => i.col.version == version && i.col.bodyCrc == crc | none => false
  let good := d.live.isNone && d.synced && imgTarget kind target &&
    (if op = 3 ∨ op = 7 then same && (d.activateFault o (d.forced op)).isNone
     else match livePart kind target with | some p => op == 6 || !(decide (p < 20) && d.safetyCore p) | none => false)
  (if good then d.liveTake o else d).sendLink (.liveVerdict good)

/-- The first boundary at which both units hold each other's word (R721): frames come in order, so a word that went ahead of a delta is there
at the boundary of that delta, and one that followed it is not (DEDUCED, log entry 60). -/
def Dev.bothFrom (d : Dev) : Nat :=
  d.kept.transit + (if d.cutDone ∨ (d.follows ∧ d.pair.deltaIn = some d.kept.transit) then 2 else 1)

/-- The companion's word is there: the operation applies from the first boundary at which both units have it. -/
def Dev.liveBoth (d : Dev) (o : LiveOp) : Dev :=
  { d with live := some { o with peerOk := true, applyAt := o.applyAt.map fun n => max n d.bothFrom } }

/-- The companion's answer; either unit may take its word back until the boundary, and then neither applies. -/
def peerLiveVerdict (ok : Bool) (d : Dev) : Dev :=
  match d.live with
  | some o =>
    if !o.pair then d
    else if !ok then d.liveFails 0x12 0x0B
    else if !o.fromPeer ∧ !o.peerOk then (d.liveBoth o).sendLink .liveGo
    else d
  | none => d

/-- The DRIVE unit has the companion's word, and the companion now has its own: both apply (R721). -/
def peerLiveGo (d : Dev) : Dev :=
  match d.live with
  | some o => if o.fromPeer then d.liveBoth o else d
  | none => d

/-- The pair leaves SYNCHRONISED: a paired operation in hand does not apply (R721). -/
def Dev.livePairFails (d : Dev) : Dev :=
  match d.live with | some o => if o.pair then d.liveFails 0x12 0x0B else d | none => d

/-! ### Stages at a boundary (R708–R720) -/

/-- Items of a quiesced core complete PART_ABSENT (R720). -/
def Dev.absentItems : List Item → Dev → Dev
  | [], d => d
  | i :: l, d =>
    let d := d.outcome i 0x20
    Dev.absentItems l (match i.handle with | some h => d.unref h | none => d)

/-- A part's gate leaves OPEN for live service; that of an idle core, or of a die link, which answers at once, closes at once (R448, R449, R709,
R716, R720). -/
def Dev.shutPart (d : Dev) (p : Nat) (quiesce : Bool) : Dev :=
  let d := d.drain p
  let d := if quiesce then d.modGate p fun g => { g with quiesced := true } else d
  if p < 20 then
    let d := if (d.core p).busy.isNone then closeGate p [] d else d
    let d := d.setCoreState p (if quiesce then 2 else 3)
    if quiesce then
      let q := (d.core p).queue
      Dev.absentItems q (d.modCore p fun k => { k with queue := [] })
    else d
  else if p = 0x70 ∨ p = 0x71 then closeGate p [] d
  else if isCanRes p ∧ quiesce then (List.range 64).foldl (fun d k => if (d.folio (p - 0x40) k).st = 0 then d else (d.cancelFolio (p - 0x40) k).2) d
  else if isEthRes p ∧ quiesce then settlePort (p - 0x20) d
  else d

/-- Has a part's controller left its medium (R716)? -/
def Dev.offMedium (d : Dev) (p : Nat) : Bool :=
  (d.gate p).st == 2 &&
    (if isCanRes p then (d.txFolio (p - 0x40)).isNone
     else if isLinRes p then (d.linCh (p - 0x60)).cur.isNone
     else if isEthRes p then decide ((d.port (p - 0x20)).busyUntil ≤ d.now) else true)

/-- Is the TD0 instant that this boundary tracks a multiple of the tick's length and of the new one (R70, R789)? With the length of the
tick each boundary serves. -/
def Dev.atMultiple (d : Dev) (len : Nat) : Bool :=
  lenNs len == d.tickLen ||
    (d.track % ((lenNs len : Int) * 65536) == 0 && d.track % ((d.tickLen : Int) * 65536) == 0)

/-- An image starts on a core (R223, R708, R711): its data is loaded, and with `CARRY` the first lines of the persistent area
stay. -/
def Dev.loadCore (c : Nat) (i : Image) (carry : Bool) (d : Dev) : Dev :=
  let k := d.core c
  let keep := if carry then 64 * min k.image.col.persistLines i.col.persistLines else 0
  let base := 0x100000 * c
  let d := d.modK fun x => { x with persist := x.persist.filter fun e => decide (e.1 < base + keep) || decide (base + 0x100000 ≤ e.1) }
  let d := { d with cores := sput d.cores c { Core.idle with hasImage := true, image := i, mem := imgMem c i, queue := k.queue, used := k.used } }
  if isFe c then d.wr F.FLOW_TP_USE_OPEN [c] 0 else d

/-- The first lines of one core's persistent area go to another's (R715). -/
def Dev.copyPersist (d : Dev) (s t : Nat) : Dev :=
  let n := 64 * min (d.core s).image.col.persistLines (d.core t).image.col.persistLines
  let b := 0x100000 * s
  let mine := d.kept.persist.filter fun e => decide (b ≤ e.1) && decide (e.1 < b + n)
  d.modK fun k =>
    let rest := k.persist.filter fun e => decide (e.1 < 0x100000 * t) || decide (0x100000 * (t + 1) ≤ e.1)
    { k with persist := mine.foldl (fun m e => sput m (e.1 - b + 0x100000 * t) e.2) rest }

/-- The entry of the new almanac that an item goes to, by its shelfmark. -/
def Dev.newEntry (d : Dev) (a : Almanac) (i : Item) : Option AlmEntry := i.handle.bind fun h => Almanac_flow a (d.pkt h).cls.shelf

/-- Items without an entry in the new almanac complete REFUSED_POLICY, still under the entries of the old one, and tasks of the old almanac
do not run (R66, R67). -/
def Dev.dropItems (a : Almanac) : List Item → Dev → Dev
  | [], d => d
  | i :: l, d =>
    Dev.dropItems a l (match i.handle with
      | some h => if (d.newEntry a i).isNone then (d.outcome i 0x12).unref h else d
      | none => d)

/-- The other items go to the new almanac by shelfmark (R67). A SAFETY entry takes an item of its own source only (R790). An item that waits
for a transit of its old entry keeps that transit (DESIGN CHOICE, log entry 114). A quiesced core answers PART_ABSENT (R720). -/
def Dev.remapItems (a : Almanac) : List Item → Dev → Dev
  | [], d => d
  | i :: l, d =>
    let d := match i.handle, d.newEntry a i with
      | some h, some e =>
        if !sourceOk e (d.pkt h) then d.unrouted h
        else if (d.gate e.resource).quiesced then (d.outcome { i with entry := e.id } 0x20).unref h
        else d.modCore e.resource fun k => { k with queue := k.queue ++ [{ i with entry := e.id, cls := d.itemClass e i.host }] }
      | _, _ => d
    Dev.remapItems a l d

/-- An almanac takes over at a boundary (R67, R70, R302, R304, R789): its length, the waiting items, its tasks
and its gates. -/
def Dev.switchAlmanac (d : Dev) (a : Almanac) : Dev :=
  let items := (List.range 20).flatMap fun c => (d.core c).queue
  let d := (List.range 20).foldl (fun d c => if (d.core c).queue = [] then d else d.modCore c fun k => { k with queue := [] }) d
  let moved := items.filter fun i => (d.newEntry a i).isSome
  let d := Dev.remapItems a moved ((Dev.dropItems a items d).takeAlmanac a)
  portsBoundary { (d.startTasks a) with tickLen := d.len }

/-- The first activation after a boot or an external reset, or of a device that ran without an almanac (R36, R105, R534, R535,
R544, R732 step 9, R734, R745, R789): the first commit strobe is due, every CAN channel integrates, and a FIELD device seals
itself. -/
def Dev.firstActivation (d : Dev) (sr : Strongroom) (a : Almanac) : Dev :=
  let d := (d.switchAlmanac a).fixPartition
  let off (ch : Nat) : Bool := d.park.told && d.park.record.any fun r => r.ch == ch && r.st == 2
  let d := (List.range 24).foldl (fun d ch => if d.on F.CAN_CFG_ENABLE [ch] then d.wr F.CAN_STATUS_STATE [ch] (if off ch then 2 else 3) else d) d
  let d := ((d.wr F.BOOT_STATUS_NO_ALMANAC [] 0).wr F.BOOT_STATUS_STEP [] 9).wr F.BOOT_STATUS_BOOT_MS [] (min 65535 ((d.now - d.boot.since) / 1000000))
  let d := if sr.lifecycle = 2 then d.wr F.BOOT_STATUS_SEALED [] 1 else d
  let d := { d with strobeDue := true, boot := { d.boot with first := some d.now, admitDue := false, almWas := none } }
  if d.park.told then { d.wakeSignals.tellWake with park := { d.park with told := false } } else d

/-- The bit timing and formats of a CAN channel (R717). -/
def Dev.canSetting (d : Dev) (ch : Nat) : List Nat :=
  [regGet d.kept.regs R.CAN_NBT [ch], regGet d.kept.regs R.CAN_DBT [ch], regGet d.kept.regs R.CAN_XBT [ch], d.rd F.CAN_CFG_MODE [ch],
    d.rd F.CAN_CFG_FD_EN [ch], d.rd F.CAN_CFG_XL_EN [ch]]

/-- The tables and entries of a LIN channel. -/
def Dev.linSetting (d : Dev) (ch : Nat) : List Nat :=
  (List.range 4).map (fun t => regGet d.kept.regs R.LIN_TABLE [ch, t]) ++ (List.range 256).map fun i => regGet d.kept.regs R.LIN_ENTRY [ch, i]

/-- What a swap keeps and what it resets (R717). `old` is the device before the records. -/
def Dev.afterSwap (d old : Dev) (p : Nat) : Dev :=
  if isCanRes p then
    let ch := p - 0x40
    let d := (List.range 64).foldl (fun d k =>
      let f := d.folio ch k
      let same := d.on F.FOLIO_CFG_VALID [ch, k] == old.on F.FOLIO_CFG_VALID [ch, k] &&
        d.rd F.FOLIO_CFG_SOURCE [ch, k] == old.rd F.FOLIO_CFG_SOURCE [ch, k] && d.rd F.FOLIO_CFG_SRC_ID [ch, k] == old.rd F.FOLIO_CFG_SRC_ID [ch, k]
      if f.st = 0 ∨ (same ∧ d.folioHolds ch k .can f.data) then d else d.folioDone ch k 0x40) d
    if d.canSetting ch = old.canSetting ch then d
    else ((d.wr F.CAN_STATUS_TEC [ch] 0).wr F.CAN_STATUS_REC [ch] 0).wr F.CAN_STATUS_STATE [ch] 3
  else if isLinRes p then
    let ch := p - 0x60
    if d.linSetting ch = old.linSetting ch then d
    else d.modPos ch fun x => { x with started := false, index := 0, nextAt := d.kept.transit, resolve := none, back := [] }
  else if isEthRes p then
    let n := p - 0x20
    if d.rd F.PORT_CFG_MODE [n] = old.rd F.PORT_CFG_MODE [n] ∧ d.rd F.PORT_CFG_RATE [n] = old.rd F.PORT_CFG_RATE [n] then d
    else linkChange n false false none d
  else d

/-- A part's gate opens again, unless the part stays quiesced (R452, R708, R716, R720). -/
def Dev.reopen (d : Dev) (sr : Strongroom) (p : Nat) : Dev :=
  if (d.gate p).quiesced then if p < 20 then d.setCoreState p 2 else d
  else
    let d := d.openGate sr p
    let d := if isCanRes p then feedFolios (p - 0x40) d else d
    if p < 20 then d.setCoreState p (if (d.core p).hasImage then 1 else 0) else d

/-- The command in hand ends without its effect, and its part's gate opens; the companion of a paired one hears of it (R721). -/
def Dev.liveUndo (d : Dev) (sr : Strongroom) (o : LiveOp) (code reason : Nat) : Dev :=
  let d := match gatePart o.kind o.target with
    | some p => if o.closing then d.reopen sr p else d
    | none => d
  let d := if o.pair then d.sendLink (.liveVerdict false) else d
  d.liveDone code reason 0

/-- An activation takes effect (R708–R718): the slot pointer switches, records apply, flows move. -/
def Dev.applyImage (d : Dev) (sr : Strongroom) (o : LiveOp) (i : Image) : Dev :=
  let old := d
  let newAlm := if o.kind = 3 then imgAlmanac i else if o.withAlm then (d.slots 3 0x7F).standby.bind imgAlmanac else none
  let d := (d.configured o.kind o.target i).getD d
  let d := d.modSlots o.kind o.target ImgSlots.switch
  let d := if o.kind ≠ 3 ∧ o.withAlm then d.modSlots 3 0x7F ImgSlots.switch else d
  let d := if o.kind < 3 then d.loadCore o.target i o.carry else d
  let d := match o.move with | some (s, t) => d.copyPersist s t | none => d
  let d := match newAlm with
    | none => d
    | some a => if d.active then d.switchAlmanac a else d.firstActivation sr a
  match gatePart o.kind o.target with
  | some p => (if o.kind < 3 then d else d.afterSwap old p).reopen sr p
  | none => d

/-- May the almanac that an operation activates come into force at this boundary: alone, or with another image while none is active
(R70, R789)? -/
def Dev.almanacFits (d : Dev) (o : LiveOp) : Bool :=
  if o.kind = 3 ∨ (o.withAlm ∧ !d.active) then
    match (d.slots 3 0x7F).standby.bind imgAlmanac with | some a => d.atMultiple a.len | none => true
  else true

/-- Is the operation in hand due at this boundary? (DEDUCED, log entry 60). -/
def Dev.liveDue (d : Dev) (o : LiveOp) : Bool :=
  decide (o.applyAt.getD 0 ≤ d.kept.transit) && (!o.pair || o.peerOk) && o.failed.isNone && (d.strobeDue || !d.active) && d.almanacFits o &&
    (if o.op = 3 ∧ 4 ≤ o.kind then match gatePart o.kind o.target with | some p => d.offMedium p | none => true
     else if o.op = 3 ∧ o.kind < 3 then (d.gate o.target).st == 2
     else true)

/-- Will it be due at the boundary that ends the open transit, with that transit's delta complete? -/
def Dev.dueNext (d : Dev) (o : LiveOp) : Bool := ({ (d.tick d.nextTick) with now := d.nextTick, strobeDue := true }).liveDue o

/-- The content of the delta at the cut: the kept stores, with the records of an operation that is due at the boundary that ends this
transit (R702). -/
def Dev.keptAhead (d : Dev) : Kept :=
  match d.live with
  | some o =>
    match (d.slots o.kind o.target).standby with
    | some i => if (o.op = 3 ∨ o.op = 7) ∧ d.dueNext o then ((d.configured o.kind o.target i).getD d).keptNow else d.keptNow
    | none => d.keptNow
  | none => d.keptNow

/-- At a boundary the gate of a part that is being activated or quiesced leaves OPEN, ahead of what the boundary releases (R452, R709, R716,
R720), or opens again where the activation has failed. -/
def Dev.liveBoundary (d : Dev) (sr : Strongroom) : Dev :=
  match d.live with
  | some o =>
    match o.failed with
    | some (code, reason) => d.liveUndo sr o code reason
    | none =>
      match gatePart o.kind o.target with
      | some p =>
        if o.op = 3 ∧ !o.closing ∧ o.transit < d.kept.transit then { (d.shutPart p false) with live := some { o with closing := true } }
        else if o.op = 5 ∧ d.liveDue o then { (d.drain p) with live := some { o with closing := true } }
        else d
      | none => d
  | none => d

/-- The apply boundary (R702, R707, R708, R720, R721); a core that resumes runs the tasks of the transit that it opens (R193). The records travel in the delta of the transit that it ends, so the content
of the last complete delta takes them too (R702, R723) (DEDUCED, log entry 58). -/
def Dev.liveApply (d : Dev) (sr : Strongroom) (o : LiveOp) : Dev :=
  let n := d.kept.transit
  let done (d : Dev) : Dev := ({ d with appliedAt := n }).liveDone 0 0 n
  if o.pair ∧ !d.synced then d.liveUndo sr o 0x12 0x0B
  else if o.op = 5 then (d.shutPart o.target true).both done
  else if o.op = 6 then
    let d := (d.modGate o.target fun g => { g with quiesced := false }).reopen sr o.target
    let d := match d.alm with | some a => d.startTasksOn a fun c => c == o.target | none => d
    d.both done
  else
    match (d.slots o.kind o.target).standby with
    | none => d.liveUndo sr o 0x12 0x0A
    | some i =>
      match d.configured o.kind o.target i with
      | none => d.liveUndo sr o 0x12 0x0D
      | some m =>
        if o.kind = 6 ∧ d.tenantBars m o.target then d.liveUndo sr o 0x12 0x0C
        else
          d.both fun d =>
            let d := basesBoundary 1 (basesBoundary 0 (d.applyImage sr o i))
            done ((if o.op = 3 then d.bump F.ACTIVATIONS_COUNT else d).wr F.PAIR_STATUS_BARRED [] 0)

/-- A withdrawal that follows the complete delta of an apply boundary leaves the new state in force: at that boundary the kept stores, the slot
pointer and what they start from are the new ones, and the command ends OK (R723) (DEDUCED, log entry 58). -/
def Dev.liveStands (d : Dev) (sr : Strongroom) : Dev :=
  match d.live with
  | some o =>
    if !o.stands then d
    else if o.op = 3 ∨ o.op = 7 then
      match (d.slots o.kind o.target).standby with
      | none => d
      | some i =>
        let n := d.both fun d => (if o.op = 3 then d.bump F.ACTIVATIONS_COUNT else d).applyImage sr o i
        let d := { d with
          kept := { n.kept with transit := d.kept.transit }, mirror := n.mirror, rewrites := n.rewrites, alm := n.alm, images := n.images, tickLen := n.tickLen, memPart := n.memPart
          cores := smap (fun _ c => { c with queue := [] }) n.cores, appliedAt := d.kept.transit }
        d.both fun d => d.liveDone 0 0 d.kept.transit
    else
      let d := d.modGate o.target fun g => { g with quiesced := o.op == 5, st := if o.op = 5 then 2 else 0 }
      { d with appliedAt := d.kept.transit }.both fun d => d.liveDone 0 0 d.kept.transit
  | none => d

/-- `APPLY_BOUNDARY`: an activation, a quiesce or a resume takes effect. -/
def applyBoundary (sr : Strongroom) (d : Dev) : Dev :=
  match d.live with
  | some o => if d.runs ∧ d.now = d.tickStart ∧ o.op ≠ 7 ∧ d.liveDue o then d.liveApply sr o else d
  | none => d

/-- `LENGTH_CHANGE_SWITCH`: the new length and almanac take effect (R70). -/
def lengthSwitch (sr : Strongroom) (d : Dev) : Dev :=
  match d.live with
  | some o => if d.runs ∧ d.now = d.tickStart ∧ o.op = 7 ∧ d.liveDue o then d.liveApply sr o else d
  | none => d

end Sys2Proof.Machine
end

