-- ==== Sys2Proof/Machine/Pair.lean ====
section
/-! DEFINITION. The companion pair: HELLO and the roles, the link, mirror deltas and the SHADOW unit's work, takeover, yielding
and joining (R372, R658–R695, R721, R722). -/

namespace Sys2Proof.Machine

/-! ### Lines of the kept stores (R629, R670) -/

/-- The entries in which two arrays differ, each as it stands in the new one. -/
def sdiff {α : Type} [Inhabited α] [DecidableEq α] (old new : Sparse α) : Sparse α :=
  (new.filter fun e => decide (sget old e.1 ≠ e.2)) ++ ((old.filter fun e => decide (sget new e.1 = default)).map fun e => (e.1, default))

/-- An array with the entries of another put over it. -/
def smerge {α : Type} [Inhabited α] [DecidableEq α] (base lines : Sparse α) : Sparse α := lines.foldl (fun m e => sput m e.1 e.2) base

/-- Bits of a register that travel in a delta: all of what a select register banks and of BAR2, elsewhere those that software
writes, with `BLOCKED` of a stream filter (R320), `EXHAUSTED` of an association (R326, R329) and the state and guard flags of a domain (R371), and none of a unit's own reset, ledger, mailbox, fault, pair, bridge, live-service
and wake registers, nor of its own calibration (R638, R677, R693, R719) (DEDUCED, log entry 101). -/
def mirrorBits (key : Nat) : Nat :=
  if 0x1000000 ≤ key then allBits
  else if key < 0x10000 ∨ (0x10010 ≤ key ∧ key < 0x10040) ∨ (0x310000 ≤ key ∧ key < 0x314000) ∨ (0x340000 ≤ key ∧ key < 0x34C000) ∨
      (0x380000 ≤ key) ∨ (0x2C0820 ≤ key ∧ key < 0x2C0840) then 0
  else match regAt key with
    | some (r, _) =>
      if r.isOne [R.CH_CAL] then 0 else rwBits r + (if r.isOne [R.SF_CTL] then 2 ^ 29 else if r.isOne [R.TXSA_CTL, R.RXSA_CTL] then 2 ^ 30
        else if r.isOne [R.TD_STATE] then 31 * 2 ^ 27 else 0)
    | none => 0

/-- The words of a delta over a unit's own. -/
def mergeWords (base lines : Sparse Word) : Sparse Word :=
  lines.foldl (fun m e =>
    let b := BitVec.ofNat 32 (mirrorBits e.1)
    sput m e.1 ((sget m e.1 &&& ~~~b) ||| (e.2 &&& b))) base

/-- The lines that changed between two contents. -/
def keptDiff (a b : Kept) : Kept :=
  { regs := sdiff a.regs b.regs, transit := b.transit, persist := sdiff a.persist b.persist, shared := sdiff a.shared b.shared
    catalogue := sdiff a.catalogue b.catalogue, tcam := sdiff a.tcam b.tcam, exact := sdiff a.exact b.exact
    actions := sdiff a.actions b.actions, patterns := sdiff a.patterns b.patterns, templates := sdiff a.templates b.templates
    rings := sdiff a.rings b.rings, servos := sdiff a.servos b.servos, meters := sdiff a.meters b.meters
    chans := sdiff a.chans b.chans, linPos := sdiff a.linPos b.linPos }

/-- A content with lines put over it; the transit counter is the unit's own. -/
def keptMerge (a l : Kept) : Kept :=
  { regs := mergeWords a.regs l.regs, transit := a.transit, persist := smerge a.persist l.persist, shared := smerge a.shared l.shared
    catalogue := smerge a.catalogue l.catalogue, tcam := smerge a.tcam l.tcam, exact := smerge a.exact l.exact
    actions := smerge a.actions l.actions, patterns := smerge a.patterns l.patterns, templates := smerge a.templates l.templates
    rings := smerge a.rings l.rings, servos := smerge a.servos l.servos, meters := smerge a.meters l.meters
    chans := smerge a.chans l.chans, linPos := smerge a.linPos l.linPos }

/-- Servo lines as they travel: the last feed by its age, since each unit's local counter is its own (R335, R353) (DEDUCED, log entry 179). -/
def Kept.aged (k : Kept) (now : Nat) : Kept :=
  { k with servos := k.servos.map fun e => if e.2 = default then e else (e.1, { e.2 with lastFeed := now - e.2.lastFeed }) }

/-- Is a register one of the counters that travel (R651)? Those of the reset, the faults, the pair and the always-on domains are a unit's own. -/
def countMirrored (key : Nat) : Bool := sideWindow key && decide (key < 0x740000) && !(decide (0x6C100C ≤ key ∧ key < 0x6C1018))

/-- Lines that were gathered, with later ones over them. -/
def keptJoin (a l : Kept) : Kept := { keptMerge a l with regs := smerge a.regs l.regs }

/-! ### Roles (R659, R667, R668) -/

def Dev.modPair (d : Dev) (f : Pair → Pair) : Dev := { d with pair := f d.pair }

/-- A unit without the DRIVE role outside SYNCHRONISED has its OUT channels OFF and its legs FLOAT (R667, R678). -/
def Dev.outputsOff (d : Dev) : Dev :=
  (List.range 72).foldl (fun d ch => if (d.chan ch).state = 0 then d else
    d.changeChan ch 5 d.now fun c => { c with state := 0, rampLen := 0, rampPos := 0, inrushEnd := none, onSince := none }) d

/-- Channels take the state, duty, phase and ramp that `l` gives them (R507, R678, R679). -/
def Dev.adoptChans (d : Dev) (l : Sparse Chan) (p : Nat → Bool) : Dev :=
  (List.range 72).foldl (fun d ch =>
    let k := sget l ch
    if p ch then
      d.changeChan ch 1 d.now fun c =>
        d.driven_ ch c { c with state := k.state, duty := k.duty, phase := k.phase, rampFrom := k.rampFrom, rampLen := k.rampLen, rampPos := k.rampPos }
    else d) d

/-- Release the twin hold (R674). -/
def Dev.dropHold (d : Dev) : Dev :=
  let l := d.pair.hold
  l.foldl (fun d t => d.unref t.handle) (d.modPair fun p => { p with hold := [] })

/-- The DRIVE unit's counters, as lines of its kept stores give them, wait for a takeover (R651, R677). -/
def Dev.noteCounts (d : Dev) (l : Sparse Word) : Dev :=
  d.modPair fun p => { p with counts := smerge p.counts (l.filter fun e => countMirrored e.1) }

/-- A change of state: what leaves SYNCHRONISED does not commit or apply on both units (R588, R721). Outputs change at boundaries only
(R25). -/
def Dev.enterPair (d : Dev) (st : Nat) (drive : Bool) (cause : Nat) : Dev :=
  let was := d.synced
  let d := d.setPair st drive cause
  let d := if was && !d.synced then d.srPairFails.blobFails.livePairFails else d
  if drive ∨ st = psSynced then d.modPair fun p => { p with offDue := false }
  else if d.now = d.tickStart then d.outputsOff else d.modPair fun p => { p with offDue := true }

/-- A unit that drives alone takes up, at a boundary, the outputs as they were commanded when it began to (R25, R668). -/
def Dev.resumeOutputs (d : Dev) : Dev :=
  match d.pair.resume with
  | some l => if d.now = d.tickStart then (d.adoptChans l fun _ => true).modPair fun p => { p with resume := none } else d
  | none => d

/-- At a boundary the outputs follow a change of state within the transit (R25). -/
def Dev.outputsDue (d : Dev) : Dev :=
  let d := if d.drives then d.resumeOutputs else d.modPair fun p => { p with resume := none }
  if d.pair.offDue then (d.modPair fun p => { p with offDue := false }).outputsOff else d

/-- The error words of CAN channels among lines of the kept stores, by channel, each XOR its reset value as it stands there. -/
def canErrOf (regs : Sparse Word) : Sparse Word :=
  regs.filterMap fun e => match regAt e.1 with
    | some (r, ix) => if r.isOne [R.CAN_STATUS] then some (ix.getD 0 0, e.2) else none
    | none => none

/-- A unit keeps the error words that its companion's lines carry. -/
def Dev.noteCanErr (d : Dev) (w : Sparse Word) : Dev := d.modPair fun p => { p with canErr := smerge p.canErr w }

/-- The error counters and states of the CAN channels resume from the last complete delta (R263). -/
def Dev.adoptCanErr (d : Dev) : Dev :=
  ((List.range 24).foldl (fun d ch =>
    let w := (sget d.pair.canErr ch ^^^ BitVec.ofNat 32 (regReset R.CAN_STATUS [ch])).toNat
    let d := (d.wr F.CAN_STATUS_TEC [ch] (bitsOf w 16 8)).wr F.CAN_STATUS_REC [ch] (bitsOf w 7 0)
    if bitsOf w 31 30 = 2 then d.wr F.CAN_STATUS_STATE [ch] 2
    else if d.canState ch = 2 then d.wr F.CAN_STATUS_STATE [ch] 3 else d) d).modPair fun p => { p with canErr := [] }

/-- The unit leaves restricted and silent modes: CAN channels integrate first, but for those in bus-off, and their empty folios take the
packets that wait for them (R245, R263, R682). -/
def Dev.beginDriving (d : Dev) : Dev :=
  let d := (List.range 24).foldl (fun d ch => if d.on F.CAN_CFG_ENABLE [ch] && d.canState ch != 2 then d.wr F.CAN_STATUS_STATE [ch] 3 else d) d
  (List.range 24).foldl (fun d ch => feedFolios ch d) d

/-- Enter LONE from a state without a role: the outputs resume from the commanded states of the last complete delta (R507, R668) (DEDUCED,
log entry 174). -/
def Dev.goLone (d : Dev) (cause : Nat) : Dev :=
  let d := d.modPair fun p => { p with resume := some d.kept.chans }
  (d.enterPair psLone true cause).beginDriving.resumeOutputs

def Dev.hbIn (d : Dev) : Nat := d.rd F.PAIR_STATUS_HB_IN
def Dev.barred (d : Dev) : Bool := d.on F.PAIR_STATUS_BARRED

/-- Is there no usable link: it is down, or it carries only HELLO (R668, R669)? -/
def Dev.noLink (d : Dev) : Bool := !d.linkUp || d.barred

/-- A side A unit that seeks drives alone from its first almanac activation on, where it finds no companion (R668). -/
def Dev.seekLone (d : Dev) (cause : Nat) : Dev :=
  if d.pairOn ∧ d.pairState = psSeeking ∧ d.boot.first.isSome ∧ d.active ∧ !d.pair.sideB ∧ d.noLink ∧ d.hbIn ≠ 1 then d.goLone cause else d

/-! ### HELLO (R669, R689, R722) -/

/-- The images and quiesced parts that HELLO compares (R722). -/
def Dev.helloImages (d : Dev) : List (Nat × Nat × Nat × Nat) :=
  d.images.filterMap fun e =>
    if 256 ≤ e.1 ∧ e.1 < 0x700 then e.2.live.map fun i => (e.1 / 256, e.1 % 256, i.col.version, i.col.bodyCrc) else none

/-- `CONFIG_ID` of the same images (R669). -/
def Dev.helloConfigs (d : Dev) : List Nat :=
  d.images.filterMap fun e => if 256 ≤ e.1 ∧ e.1 < 0x700 then e.2.live.map (·.col.configId) else none
def Dev.quiescedParts (d : Dev) : List Nat := (d.gates.filter fun e => e.2.quiesced).map Prod.fst

/-- The HELLO that a unit sends (R669). -/
def Dev.ownHello (d : Dev) (sr : Strongroom) : Hello :=
  { identity := sr.identity, gradeF := d.gradeF, sideB := d.pair.sideB, lifecycle := sr.lifecycle, lenCode := d.rd F.TRANSIT_CFG_LEN
    images := d.helloImages, configIds := d.helloConfigs, quiesced := d.quiescedParts, pairCounter := sr.pairCounter, pairKek := d.rd F.SR_CFG_PAIR_KEK
    drive := d.drives, seeking := d.pairState == psSeeking }

/-- Why a HELLO is refused, as event 0x0312 gives it; 0 where it is accepted. -/
def Dev.helloFault (d : Dev) (sr : Strongroom) (h : Hello) : Nat :=
  if h.gradeF ≠ d.gradeF then 1
  else if h.sideB = d.pair.sideB then 2
  else if h.lifecycle = 4 ∨ sr.lifecycle = 4 then 3
  else if h.images ≠ d.helloImages ∨ h.quiesced ≠ d.quiescedParts then 4
  else if h.lenCode ≠ d.rd F.TRANSIT_CFG_LEN then 5 else 0

/-- The DRIVE unit begins to bring its companion up to date: Strongroom slots first, where its pair counter is the higher one or the
counters are equal, then every kept-store line. A pair without `PAIR_KEK` stops while a `PAIR` slot is written (R590, R594, R689)
(DEDUCED, log entry 103). -/
def startSending (h : Hello) (x : WithSr) : WithSr :=
  let (d, r) := x
  if !kekServes d r then x
  else
    let (d, r) := if kekUsable d r ∧ (h.pairCounter < r.pairCounter ∨ (h.pairCounter = r.pairCounter ∧ !r.pairSlots.isEmpty)) then sendPairSlots (d, r) else (d, r)
    (({ d with sent := d.mirror }).sendLink (.snapshot (({ d.mirror with transit := d.kept.transit } : Kept).aged d.now) true), r)

/-- The joining unit sends its `PAIR` slots where its pair counter is the higher one (R590). -/
def sendNewer (h : Hello) (x : WithSr) : WithSr :=
  if h.pairCounter < x.2.pairCounter ∧ kekUsable x.1 x.2 then sendPairSlots x else x

/-- A SHADOW unit is DETACHED from a companion that still drives (R668). -/
def Dev.detach (d : Dev) : Dev :=
  (((d.modPair fun p => { p with linkGone := none }).enterPair psDetached false 2).dropHold).bump F.DETACHES_COUNT

/-- An image activation ends the bar of a refused HELLO: the unit sends its own again over the link (R669, R722) (DEDUCED, log entry 174). -/
def Dev.helloAgain (d old : Dev) (sr : Strongroom) : Dev :=
  if old.barred && !d.barred && d.linkUp then d.putLink (.hello (d.ownHello sr)) else d

/-- `APPLY_BOUNDARY` with what an activation changes for the pair (R668, R669). -/
def applied (sr : Strongroom) (d : Dev) : Dev := ((applyBoundary sr d).helloAgain d sr).seekLone 0

/-- `LENGTH_CHANGE_SWITCH` with what the activation changes for the pair (R668, R669). -/
def lengthSwitched (sr : Strongroom) (d : Dev) : Dev := ((lengthSwitch sr d).helloAgain d sr).seekLone 0

/-- HELLO arrives: the link is trained, and the pair state follows R668; a LONE unit takes a DETACHED companion's HELLO as it takes that of
a SEEKING one (DEDUCED, log entry 174). A SHADOW unit that lost the link while its companion drove on is DETACHED first (R668). A HELLO that is
accepted ends the bar: the companion has been reset or has activated an image (R669, R722) (DEDUCED, log entry 174). -/
def helloReceived (h : Hello) (latency : Nat) (x : WithSr) : WithSr :=
  let (d, r) := x
  if !d.runs ∨ !d.pairOn then x
  else
    let d := if d.shadow && d.pair.linkGone.isSome then d.detach else d
    let up (d : Dev) : Dev :=
      (((d.wr F.PAIR_STATUS_LINK_UP [] 1).wr F.PAIR_LINK_LANE0_OK [] 1).wr F.PAIR_LINK_LANE1_OK [] 1).wr F.PAIR_LINK_LATENCY_NS [] latency
    -- the unit's own HELLO of the training acknowledges the companion's
    let d := if d.linkUp then (up d).tookControl else (up { d with linkTx := 0, linkRx := 1, unacked := [] }).putLink (.hello (d.ownHello r))
    let d := [0, 1, 2, 3].foldl (fun d w => d.wr F.PAIR_PEER_ID_ID [w] (ofLe (slice h.identity (4 * w) 4))) d
    let d := d.modPair fun p => { p with peer := some h, linkGone := none }
    let bad := d.helloFault r h
    if bad ≠ 0 then
      let d := (d.wr F.PAIR_STATUS_BARRED [] 1).event (d.rd F.PAIR_CFG_EVT_TENANT) 0x0312 0 0xFFFF (detail16 (leBytes 1 bad))
      -- the unit chooses its role as if the link were down
      (d.seekLone 2, r)
    else
      let d := d.wr F.PAIR_STATUS_BARRED [] 0
      let join (d : Dev) : Dev := (d.enterPair psReceiving false 1).modPair fun p =>
        { p with lines := false, timeOk := [], deltaIn := none, seen := {}, canErr := [], counts := [], told := false, slotsBad := false }
      let send (d : Dev) : Dev := (d.enterPair psSending true 1).modPair fun p => { p with told := false, slotsBad := false }
      let st := d.pairState
      if st = psDetached ∨ (st = psSeeking ∧ (h.drive ∨ (h.seeking ∧ d.pair.sideB))) then sendNewer h (join d, r)
      else if st = psSeeking ∧ h.seeking then startSending h ((send d).beginDriving, r)
      else if st = psLone ∧ !h.drive then startSending h (send d, r)
      else (d, r)

/-! ### Deltas (R670–R675) -/

/-- Tallies of the items that the transit carries out. -/
def Dev.carriedTallies (d : Dev) : List Nat :=
  (List.range 20).flatMap fun c => (d.core c).queue.filterMap fun i => i.handle.map fun h => tallyOf (d.pkt h)

/-- Will sleep commit at the boundary that ends the transit (R538, R681)? -/
def Dev.commitNext (d : Dev) : Bool :=
  d.inGuard && d.park.aborts.isEmpty && d.sleepBar.isNone && d.guardOver (d.tickStart + d.len)

/-- At the cut the DRIVE unit sends its delta (R671), in frames of at most 1,024 bytes (R663): the one with `LAST` carries the content here
(DEDUCED, log entry 52). What follows the cut belongs to the next delta (DEDUCED, log entry 51). -/
def Dev.sendDelta (d : Dev) (bytes : Nat) : Dev :=
  let x := { d.openDelta with
    bytes, lines := (keptDiff d.sent d.keptAhead).aged d.now, latch := d.latch, carried := d.carriedTallies, accNext := d.acc, commitPark := d.commitNext }
  let d := { d with openDelta := {} }
  if d.mirrors then
    let d := { d with sent := d.keptAhead }
    ((List.range (cdiv bytes 1024 - 1)).foldl (fun d _ => d.sendLink (.part 4)) d).sendLink (.mirror x) true
  else d

/-- Is the companion's acknowledgement of a delta's last frame still awaited (R671)? -/
def Dev.deltaUnacked (d : Dev) : Bool := d.unacked.any fun u => u.1.last

/-- Own results of a transit leave the queues and folios (R675). -/
def Dev.dropOwn (d : Dev) (n : Nat) : Dev :=
  let qs := sfind d.queues fun _ g => g.items.any fun e => e.own == some n
  let emptied (f : Folio) : Folio := if f.own = some n then { last := f.last } else f
  let d := qs.foldl (fun d q =>
    let mine := (d.queue q).items.filter fun e => e.own == some n
    let d := { d with queues := smod d.queues q fun (g : Queue) => { g with items := g.items.filter fun e => e.own != some n } }
    (mine.foldl (fun d e => d.unref e.handle) d).wmCheck q) d
  { d with can := smap (fun _ (c : CanCh) => { c with folios := smap (fun _ f => emptied f) c.folios }) d.can }

/-- The packet of an egress record: built bytes, or the held packet of the same tally; 0 where it is missing. -/
def Dev.recordPkt (d : Dev) (e : EgressRec) : Nat × Dev :=
  match e.built with
  | some (kind, bytes) =>
    (match d.storePkt { data := bytes, kind, transit := d.kept.transit, born := d.now } with
      | some (h, d) => (h, d)
      | none => (0, d))
  | none =>
    match d.pair.hold.find? fun t => t.tally == e.tally with
    | some t => (t.handle, d.modPkt t.handle fun p => { p with refs := p.refs + 1 })
    | none => (0, d)

/-- One egress record enters its queue or folio. -/
def Dev.takeRecord (d : Dev) (e : EgressRec) : Dev :=
  let (h, d) := d.recordPkt e
  if e.queue < 0x10000 then
    ({ d with queues := smod d.queues e.queue fun (g : Queue) => { g with items := g.items ++ [({ handle := h, tally := e.tally, pushed := d.now } : QEntry)] } }).wmCheck e.queue
  else
    let ch := (e.queue - 0x10000) / 64
    let k := (e.queue - 0x10000) % 64
    let b := (d.pkt h).data
    let d := d.modFolio ch k fun f =>
      { st := if h = 0 then 0 else 1, data := b, last := f.last, born := d.kept.transit, tally := e.tally, host := e.item }
    d.unref h

/-- One entry of the DRIVE unit's ingress log claims a held packet (R674). -/
def Dev.claim (d : Dev) (n : Nat) (e : LogEntry) : Dev :=
  let fits (t : Twin) : Bool := t.res == e.res && t.tally == e.tally && t.claimed.isNone && decide (n ≤ t.transit + 4)
  match d.pair.hold.find? fits with
  | none => d.bump F.DRIVER_ONLY_COUNT
  | some t => d.modPair fun p => { p with hold := p.hold.map fun x => if x = t then { x with claimed := some n } else x }

/-- Settled packets leave the twin hold: those claimed in the delta's transit and not carried, and those claimed before (R674). -/
def Dev.settleTwins (d : Dev) (n : Nat) (carried : List Nat) : Dev :=
  let done (t : Twin) : Bool := match t.claimed with
    | some m => decide (m < n) || (m == n && !carried.contains t.tally)
    | none => false
  let out := d.pair.hold.filter done
  out.foldl (fun d t => d.unref t.handle) (d.modPair fun p => { p with hold := p.hold.filter fun t => !done t })

/-- Frames that the DRIVE unit has delivered to a receive ring leave its queue: as many as fill the slots that it took (R675). -/
def Dev.trimQueue (q size : Nat) : Nat → List QEntry → Dev → Dev
  | _, [], d => d
  | slots, e :: l, d =>
    let need := max 1 (cdiv (d.pkt e.handle).data.length size)
    if slots < need then d else Dev.trimQueue q size (slots - need) l (d.popDrop q)

def Dev.trimRings (d old : Dev) : Dev :=
  d.kept.rings.foldl (fun d e =>
    let t := e.1 / 65
    let r := e.1 % 65
    if d.ringKind t r = 2 then
      let n := d.ringSize t r
      let q := d.rd F.RING_CFG_B_QUEUE [t, r]
      Dev.trimQueue q (2 ^ d.rd F.RING_CFG_A_BUF_SHIFT [t, r]) (((d.ring t r).head + n - (old.ring t r).head) % n) (d.queue q).items d
    else d) d

/-- The unit's own number of the transit whose delta arrives: one that comes in the first half of a transit is that of the transit
before (R663, R671) (DEDUCED, log entry 102). -/
def Dev.deltaTransit (d : Dev) : Nat := if d.now < d.point 512 ∧ !d.cutDone then d.kept.transit - 1 else d.kept.transit

/-- The transit counter is a kept store: it takes the DRIVE unit's value (R38, R675). A twin hold from before is of no use. -/
def Dev.takeCounter (d : Dev) (c : Nat) : Dev :=
  if d.kept.transit = c then d else { d.dropHold with kept := { d.dropHold.kept with transit := c } }

/-- The kept stores as the last complete delta left them, with the unit's own registers (R674, R675, R677). -/
def Dev.discardOwn (d : Dev) : Kept := keptMerge d.kept (keptDiff d.kept d.mirror)

/-- A unit that does not drive runs a domain at the rate that the driving unit's has, as the last delta gave it (R371, R372). -/
def Dev.holdRate (d : Dev) (i : Nat) : Dev := if d.tdRuns i then d.setRate i (d.servo i).rate else d

/-- A servo line as it arrives: the age of its last feed gives an instant of the unit's own counter. -/
def Dev.ownFeeds (d : Dev) (l : Kept) : Kept := l.aged (d.now - d.rd F.PAIR_LINK_LATENCY_NS)

/-- The SHADOW unit, or a joining one, takes a complete delta, and discards what it made itself of that transit (R675, R681, R684,
R689). One that comes behind the boundary gives the latch set of the strobe at it. -/
def Dev.takeDelta (d : Dev) (x : Delta) : Dev :=
  let old := d
  let x := { x with lines := d.ownFeeds x.lines }
  let n := x.lines.transit
  let inTime := decide (d.deltaTransit = d.kept.transit)
  let d := d.takeCounter (if inTime then n else n + 1)
  let whole := keptMerge d.discardOwn x.lines
  -- stores to shared words become visible at the boundary (R214)
  let d := if inTime then { d with kept := { whole with shared := d.kept.shared }, sharedPend := x.lines.shared } else { d with kept := whole }
  let d := { d with mirror := whole }
  let d := if inTime then { d with latch := x.latch, deltaDone := true } else { d with strobe := x.latch, strobeDue := true }
  let d := d.modPair fun p =>
    { p with deltaIn := some n, peerNext := x.accNext, seen := if d.pairState = psReceiving then keptJoin p.seen x.lines else {} }
  let d := d.trimRings old
  let d := d.dropOwn n
  let d := x.egress.foldl Dev.takeRecord d
  let d := x.log.foldl (fun d e => d.claim n e) d
  let d := d.settleTwins n x.carried
  let d := { (d.noteCanErr (canErrOf x.lines.regs)).noteCounts x.lines.regs with acc := max d.acc x.accNext, park := { d.park with follow := x.commitPark } }
  ((List.range 4).foldl Dev.holdRate d).wr F.PAIR_DELTA_BYTES [] x.bytes

/-- A departure report removes the entry that has left its queue or folio (R675). -/
def departure (q tally : Nat) (d : Dev) : Dev :=
  if !d.follows then d
  else if q < 0x10000 then
    match (d.queue q).items.find? fun e => e.tally == tally with
    | none => d
    | some e =>
      let d := { d with queues := smod d.queues q fun (g : Queue) => { g with items := g.items.erase e } }
      (if e.handle = 0 then d else d.unref e.handle).wmCheck q
  else
    let ch := (q - 0x10000) / 64
    let k := (q - 0x10000) % 64
    if (d.folio ch k).tally = tally then d.modFolio ch k fun f => { last := f.last } else d

/-- Snapshot lines reach a joining unit; a delta's line supersedes them (R689). -/
def Dev.takeSnapshot (d : Dev) (l : Kept) (last : Bool) : Dev :=
  let l := d.ownFeeds l
  -- what a delta has brought is newer
  let d := d.noteCounts (l.regs.filter fun e => decide (sget d.pair.seen.regs e.1 = 0))
  let d := (d.takeCounter l.transit).noteCanErr ((canErrOf l.regs).filter fun e => decide (sget d.pair.seen.regs (regKey R.CAN_STATUS [e.1]) = 0))
  let k := keptMerge (keptMerge d.kept l) d.pair.seen
  ({ d with kept := k, mirror := k }).modPair fun p => { p with lines := p.lines || last }

/-- A time sample: the companion's domain less the unit's own, in ns. The unit that does not drive steers its domain to it, which
is then within ±16 ns; the DRIVE unit knows by it how the companion's TD0 stands (R372, R674, R689). -/
def Dev.takeTime (d : Dev) (i : Nat) (off : Int) : Dev :=
  if 4 ≤ i then d
  else if d.drives then (if i = 0 then d.modPair fun p => { p with peerOff := off } else d)
  else
    let d := d.holdRate i
    let d := if -16 ≤ off ∧ off ≤ 16 then d else (d.setSeg i (d.timeAt i d.now + off * nsUnit) (sget d.segs i).rate).followStep d
    d.modPair fun p => { p with timeOk := if p.timeOk.contains i then p.timeOk else i :: p.timeOk }

/-- A packet that only the companion received enters the DRIVE unit, its ingress stamp converted to the unit's own TD0 (R674, R683). A CAN
frame among them may be an address claim (R261). -/
def Dev.takeGap (d : Dev) (res : Nat) (kind : PktKind) (b : List Byte) (s ns : Nat) : Dev :=
  let own := ((s : Int) * 1000000000 + ns - d.pair.peerOff).toNat
  if !d.drives then d
  else match d.commit { data := b, kind, res, writer := res, stampSec := own / 1000000000, stampNs := own % 1000000000,
                             stampAt := (d.segWhen 0 ((own : Int) * nsUnit)).firstAt ((own : Int) * nsUnit), companion := true } with
    | none => d.dropNoCell res
    | some (h, d) => if kind = .can then d.checkClaim (res - canPart 0) (canOfBytes b) (d.pkt h).acc else d

/-- The companion's flushed ledger entry (R690). -/
def Dev.takeLedger (d : Dev) (acc cls flags part cause inst : Nat) : Dev :=
  (d.log 4 0x78 0x0E 0 (ofLe (leBytes 1 cls ++ leBytes 1 flags ++ leBytes 1 part ++ leBytes 1 cause ++ leBytes 2 inst)) acc 0).2

/-- A forwarded host write acts as if it had been written here (R677). -/
def Dev.takeForwarded (d : Dev) (a v mask : Nat) : Dev := if d.drives then d.bar2Word a (d.bar2Merge a v mask) else d

/-- Does the joining unit hold every line, the companion's time, and the same `PAIR` slots (R590, R689)? -/
def Dev.joined (d : Dev) : Bool :=
  d.pair.lines && ((List.range 4).all fun i => d.pair.timeOk.contains i) && d.transfer.isNone && !d.pair.slotsBad

/-- A unit that has joined tells its companion, so that both become SYNCHRONISED at one boundary (R689) (DEDUCED, log entry 179). -/
def Dev.tellJoined (d : Dev) : Dev :=
  if d.pairState = psReceiving ∧ d.joined ∧ !d.pair.told then (d.sendLink (.state psReceiving false true)).modPair fun p => { p with told := true } else d

/-- The payload of an intact frame is taken (R664). -/
def takePayload (f : LinkFrame) (x : WithSr) : WithSr :=
  let (d, r) := x
  match f.payload with
  | .control | .hello _ | .notice .. | .part _ => x
  | .state _ _ joined => (if d.pairState = psSending ∧ joined then d.modPair fun p => { p with told := true } else d, r)
  | .srGo => (peerGo d, r)
  | .srBlob t h b => peerBlob t h b x
  | .srBlobVerdict ok => peerBlobVerdict ok x
  | .srBlobGo => blobGo x
  | .timeSample i off => (d.takeTime i off, r)
  | .departure q t => (departure q t d, r)
  | .mirror l => (if d.follows then d.takeDelta l else d, r)
  | .srMessage m => peerMessage m x
  | .srVerdict ok => peerVerdict ok x
  | .srSlots s c iv mac => takePairSlots s c iv mac x
  | .doorbell _ a v m => (d.takeForwarded a v m, r)
  | .ledger acc cls fl part cause inst => (d.takeLedger acc cls fl part cause inst, r)
  | .gapFill res kind b s ns => (d.takeGap res kind b s ns, r)
  | .snapshot l last => (if d.pairState = psReceiving then d.takeSnapshot l (last && kekServes d r) else d, r)
  | .liveCommand op kind target carry withAlm move version crc => (peerLive f.transit op kind target carry withAlm move version crc d, r)
  | .liveVerdict ok => (peerLiveVerdict ok d, r)
  | .liveGo => (peerLiveGo d, r)

/-! ### The link (R663–R666) -/

/-- A link frame arrives: an intact one is acknowledged, acknowledges frames sent, and is taken where it is the next in order (R665, R666). -/
def linkFrame (f : LinkFrame) (x : WithSr) : WithSr :=
  let (d, r) := x
  if !d.runs ∨ !d.pairOn ∨ !d.linkUp ∨ !f.intact then x
  else
    let d := { d with unacked := d.unacked.filter fun u => decide ((f.acked + 2 ^ 32 - u.1.seq) % 2 ^ 32 ≥ 2 ^ 31) }
    if f.ackOnly then (d, r)
    else if f.seq ≠ d.linkRx then (d.ackLink, r)
    else
      let d := d.tookControl
      if d.barred then (d, r)
      else
        let y := takePayload f (d, r)
        (y.1.tellJoined, y.2)

/-- The companion's heartbeat is parked while the link is down: the unit parks silently (R688). -/
def Dev.parkWith (d : Dev) : Dev :=
  let d := d.wr F.PAIR_STATUS_LAST_CHANGE [] 8
  { d with park := { d.park with follow := true } }

/-- The link is lost (R665, R668, R688). A SHADOW unit decides once the companion's heartbeat has had its 150 µs. -/
def Dev.dropLink (d : Dev) : Dev :=
  if !d.linkUp then d
  else
    let d := (d.wr F.PAIR_STATUS_LINK_UP [] 0).bump F.LINK_LOSSES_COUNT
    let d := ({ d with unacked := [], linkTx := 0, linkRx := 0 } : Dev).modPair fun p => { p with alone := d.now }
    let st := d.pairState
    if st = psReceiving then ((d.enterPair psSeeking false 2).dropHold).seekLone 2
    else if st = psSending ∨ (st = psSynced ∧ d.drives) then d.enterPair psLone true 2
    else if st = psSynced then
      if d.pair.takeover.isSome then d
      else if d.hbIn = 2 then d.parkWith
      else if d.on F.PAIR_STATUS_HB_FAULT then ((d.enterPair psDetached false 2).dropHold).bump F.DETACHES_COUNT
      else if d.hbIn = 0 then d.modPair fun p => { p with takeover := some { cause := 2 } }
      else d.modPair fun p => { p with linkGone := some d.now }
    else d.seekLone 2

/-- A lane has lost block lock, or both bring no intact block (R665): each lane's lock shows, with the link up or down (R693). -/
def linkLost (lane0 lane1 : Bool) (d : Dev) : Dev :=
  if d.runs ∧ d.pairOn then ((d.wr F.PAIR_LINK_LANE0_OK [] lane0.toNat).wr F.PAIR_LINK_LANE1_OK [] lane1.toNat).dropLink else d

/-- A frame is not acknowledged within 2 µs: it and every later one are sent again, and after the third time the link is lost
(R665). -/
def retransmit (d : Dev) : Dev :=
  match d.unacked with
  | [] => d
  | u :: _ =>
    if !d.runs ∨ !d.linkUp ∨ d.now < u.2.1 + 2000 then d
    else if 3 ≤ u.2.2 then d.dropLink
    else
      let l := d.unacked
      let d := l.foldl (fun d u => (d.emit (.link u.1)).bump F.RETRANSMITS_COUNT) d
      { d with unacked := l.map fun u => (u.1, d.now, u.2.2 + 1) }

/-- A joined SHADOW unit whose link has been down for 150 µs while the heartbeat stayed is DETACHED (R661, R668) (DEDUCED, log entry 53). -/
def Dev.judgeLink (d : Dev) : Dev :=
  match d.pair.linkGone with
  | none => d
  | some t =>
    if !d.shadow then d.modPair fun p => { p with linkGone := none }
    else if t + 150000 ≤ d.now ∧ d.pair.takeover.isNone then d.detach
    else d

/-- What the unit made itself since the last complete delta leaves its queues and folios (R668). -/
def Dev.dropAllOwn (d : Dev) : Dev :=
  let marks := ((d.queues.flatMap fun e => e.2.items.filterMap (·.own)) ++ (d.can.flatMap fun e => e.2.folios.filterMap (·.2.own))).eraseDups
  marks.foldl Dev.dropOwn d

/-- A side B unit, or a DETACHED one, has waited `SOLO_WAIT` (R668); what it waits under must hold all that time (DEDUCED, log entry 174). A DETACHED unit resumes from its last complete delta. -/
def soloWait (d : Dev) : Dev :=
  let w := d.rd F.PAIR_CFG_SOLO_WAIT * 1000000
  if !d.runs ∨ !d.pairOn then d
  else if d.pairState = psSeeking ∧ d.active ∧ d.noLink ∧ d.hbIn ≠ 1 then
    match d.boot.first with | some f => if max f d.pair.alone + w ≤ d.now then d.goLone 3 else d | none => d
  else if d.pairState = psDetached ∧ d.hbIn = 0 ∧ d.pair.hbSince + w ≤ d.now then
    let k := d.discardOwn
    (({ d with kept := k } : Dev).dropAllOwn).adoptCanErr.goLone 3 |> resumePns
  else d

/-- A SYNCHRONISED SHADOW unit sees no heartbeat while the link is up (R688). -/
def Dev.hbFault (d : Dev) : Dev := (d.wr F.PAIR_STATUS_HB_FAULT [] 1).noticeEntry 0x78 0 0

/-- The heartbeat is present again before the boundary at which a silent loss would lead to a takeover (R682). -/
def Dev.hbBack (d : Dev) : Dev :=
  match d.pair.takeover with
  | some t => if t.cause = 2 then d.modPair fun p => { p with takeover := none, linkGone := some d.now } else d
  | none => d

/-- The companion's heartbeat becomes absent, present or parked (R661, R668, R688). A restart sees it and does not act on it. -/
def heartbeatChange (level : Nat) (d : Dev) : Dev :=
  if !(d.runs || d.mode == .restart) ∨ 2 < level then d
  else
    let was := d.hbIn
    let d := (d.wr F.PAIR_STATUS_HB_IN [] level).modPair fun p => { p with hbSince := d.now, alone := if was = 1 then d.now else p.alone }
    if !d.runs ∨ !d.pairOn then d
    else if level = 0 ∧ d.shadow then
      if d.linkUp then d.hbFault
      else if d.on F.PAIR_STATUS_HB_FAULT then d
      else d.modPair fun p => { p with takeover := p.takeover.or (some { cause := 2 }), linkGone := none }
    else if level = 2 ∧ !d.linkUp ∧ (d.shadow ∨ d.pairState = psDetached) then
      d.parkWith
    else if level = 1 then d.hbBack else d.seekLone 3

/-! ### Takeover, yielding and joining (R682–R690) -/

/-- The DRIVE unit's withdrawal notice, with its t0 in ns of TD0: where t0 lies before the boundary that opened this transit, that boundary
was the takeover boundary (R682). -/
def withdrawalNotice (acc t0 : Nat) (d : Dev) : Dev :=
  let late := decide ((t0 : Int) * nsUnit < d.timeAt 0 d.tickStart)
  if d.runs ∧ d.shadow then d.tookControl.modPair fun p => { p with takeover := some { cause := 1, acc, late }, linkGone := none } else d

/-- After a takeover each core's persistent area is that of the last complete delta, its initialised data is reloaded, and its scratch
reads 0 (R190). -/
def Dev.reloadCores (d : Dev) : Dev :=
  { (d.modK fun k => { k with persist := d.mirror.persist }) with
    cores := smap (fun n c => { c with mem := if c.hasImage then imgMem n c.image else [] }) d.cores }

/-- Is the frame of a host item in a folio of the unit: it then ends on the wire (R403, R683)? -/
def Dev.inFolio (d : Dev) (h : HostRef) : Bool := d.can.any fun c => c.2.folios.any fun f => f.2.st != 0 && f.2.host == some h

/-- Items that rings have in hand complete WITHDRAWN: those whose effects were not released, then those without an outcome (R398, R682). -/
def Dev.endItems (d : Dev) : Dev :=
  d.kept.rings.foldl (fun d e =>
    let t := e.1 / 65
    let r := e.1 % 65
    let d := e.2.unreleased.foldl (fun d u => d.withdrawItem t r u) d
    let d := (e.2.inflight.filter fun h => !(e.2.waitC.any fun w => w.1 == h.acc) && !d.inFolio h).foldl (fun d h => d.complete h 0x60) d
    d.modRing t r fun g => { g with items := [], posted := [], unreleased := [] }) d

/-- The counters go on from those of the last complete delta (R651). -/
def Dev.adoptCounts (d : Dev) : Dev :=
  let l := d.pair.counts
  (d.modK fun k => { k with regs := smerge k.regs l }).modPair fun p => { p with counts := [] }

/-- The SHADOW unit becomes DRIVE (R682–R685) (DEDUCED, log entry 86). -/
def takeoverNow (d : Dev) : Dev :=
  match d.pair.takeover with
  | none => d
  | some t =>
    if !d.runs ∨ !d.shadow ∨ !(d.now = d.tickStart ∨ t.late) then d
    else
      let d := { d with acc := max d.acc (d.pair.peerNext + 131072) }
      let d := d.enterPair psLone true (if t.cause = 1 then 4 else 3)
      let d := { d with tookOver := some d.kept.transit, strobeDue := true }
      let d := (d.bump F.TAKEOVERS_COUNT).trigger_ 5
      let d := d.event (d.rd F.PAIR_CFG_EVT_TENANT) 0x0311 0 0xFFFF
        (detail16 (leBytes 1 t.cause ++ [0] ++ leBytes 8 d.kept.transit ++ leBytes 6 (if t.cause = 1 then t.acc else 0)))
      let d := d.adoptChans d.kept.chans fun ch => decide (64 ≤ ch)
      let mine (l : List QEntry) : List QEntry := (l.filter fun e => e.handle != 0).map fun e => { e with own := none, held := false }
      let d := (d.queues.map Prod.fst).foldl (fun d q => (d.setQueue q { d.queue q with items := mine (d.queue q).items }).wmCheck q) d
      let d := { d with can := smap (fun _ (c : CanCh) => { c with folios := smap (fun _ (f : Folio) => { f with own := none }) c.folios }) d.can }
      (resumePns d.dropHold.reloadCores.adoptCanErr.adoptCounts.endItems.beginDriving).modPair fun p => { p with takeover := none, deltaIn := none }

/-- A side B unit that drives without a link leaves the DRIVE role where it sees its companion's heartbeat (R687). -/
def yieldsNow (d : Dev) : Dev :=
  if d.runs ∧ d.now = d.tickStart ∧ d.pairOn ∧ d.pair.sideB ∧ d.drives ∧ d.noLink ∧ d.hbIn = 1 then
    (d.enterPair psDetached false 6).bump F.YIELDS_COUNT
  else d

/-- Has a unit the `PAIR` slots of the higher pair counter, where they can be brought to the same content (R590)? -/
def Dev.slotsSame (d : Dev) (r : Strongroom) : Bool :=
  kekServes d r && (!kekUsable d r || (match d.pair.peer with | some h => decide (h.pairCounter ≤ r.pairCounter) | none => true))

/-- Resynchronisation is complete at a boundary (R590, R594, R689): both units, which know that the joining one has joined, become SYNCHRONISED. -/
def resyncComplete (r : Strongroom) (d : Dev) : Dev :=
  if !d.runs ∨ !d.pairOn ∨ d.now ≠ d.tickStart ∨ d.transfer.isSome ∨ !d.pair.told ∨ !d.slotsSame r then d
  else if d.pairState = psReceiving ∧ d.joined ∧ !(d.unacked.any fun u => u.1.payload == .state psReceiving false true) then
    let d := if d.hbIn = 0 then d.hbFault else d
    (((d.enterPair psSynced false 5).adoptChans d.kept.chans fun ch => decide (ch < 64)).bump F.REJOINS_COUNT).modPair fun p => { p with seen := {} }
  else if d.pairState = psSending ∧ !d.deltaUnacked then (d.enterPair psSynced true 5).bump F.REJOINS_COUNT
  else d

/-- A held packet that is unclaimed 2 T after its entry goes to the DRIVE unit (R674). -/
def gapFill (d : Dev) : Dev :=
  if !d.runs ∨ !d.follows then d
  else
    match d.pair.hold.find? fun t => t.claimed.isNone && decide (t.transit + 2 ≤ d.kept.transit) with
    | none => d
    | some t =>
      let p := d.pkt t.handle
      let d := if d.on F.PAIR_CFG_GAP_FILL then
          (d.sendLink (.gapFill t.res p.kind p.data p.stampSec p.stampNs)).bump F.GAP_FILLED_COUNT
        else d
      (d.modPair fun p => { p with hold := p.hold.erase t }).unref t.handle

end Sys2Proof.Machine
end

