-- ==== Sys2Proof/Machine/Boot.lean ====
section
/-! DEFINITION. Resets, boots and restarts: what each keeps, how images come into force, the rails of the logic die, and what
PCIe configuration requests are answered (R638–R643, R727–R738, R762–R765). -/

namespace Sys2Proof.Machine

/-! ### Images at a boot (R222, R732, R733, R735) -/

/-- Which of a target's slots its boot starts: the active one, or the standby one after a fallback (R733). -/
inductive BootSlot | active | standby | none
  deriving DecidableEq, Repr

/-- The check of a target's slots. -/
def Dev.bootSlot (d : Dev) (sr : Strongroom) (kind target : Nat) : BootSlot :=
  let s := d.slots kind target
  let good (i : Option Image) : Bool := match i with | some i => d.imageFault sr kind target i == 0 | none => false
  if good s.live then .active
  else if good s.standby && (decide (3 < kind) || (match s.standby with | some i => d.groupOk [(256 * kind + target, i.col)] | none => false))
  then .standby else .none

/-- A fallback is recorded, with the first part that fell back (R733, R746). -/
def Dev.noteFallback (d : Dev) (kind target : Nat) : Dev :=
  let d := if d.on F.BOOT_FALLBACK_VALID then d else (d.wr F.BOOT_FALLBACK_TARGET [] target).wr F.BOOT_FALLBACK_KIND [] kind
  let d := (d.wr F.BOOT_STATUS_FALLBACK [] 1).wr F.BOOT_FALLBACK_VALID [] 1
  (d.incr F.BOOT_FALLBACK_COUNT).modSlots kind target ImgSlots.switch

/-- A part takes its image: a core is loaded, a configuration image's records apply (R735). -/
def Dev.startImage (d : Dev) (kind target : Nat) (i : Image) : Dev :=
  if kind < 3 then (Dev.loadCore target i false d).setCoreState target 1 else (d.configured kind target i).getD d

/-- One target at a boot. -/
def Dev.bootTarget (sr : Strongroom) (d : Dev) (x : Nat × Nat) : Dev :=
  let slot := d.bootSlot sr x.1 x.2
  let d := if slot = .standby then d.noteFallback x.1 x.2 else d
  if slot = .none then d
  else if x.1 = 3 then { d with boot := { d.boot with almOk := true } }
  else match (d.slots x.1 x.2).live with | some i => d.startImage x.1 x.2 i | none => d

/-- The cores and the almanac, which step 5 checks, then configuration images, which step 6 checks against the registers too, in the
order of R735 (R732, R733) (DEDUCED, log entry 82). -/
def bootOrder : List (Nat × Nat) :=
  (imgTargets.filter fun x => decide (x.1 < 4)) ++ (5, 0x7F) :: ((imgTargets.filter fun x => x.1 == 4) ++
    (imgTargets.filter fun x => x.1 == 5 && x.2 != 0x7F) ++ (imgTargets.filter fun x => x.1 == 6) ++ imgTargets.filter fun x => x.1 == 7)

/-- A CAN channel that was in bus-off at the commit of sleep is in it again after the wake boot (R534). -/
def Dev.restoreBusOff (d : Dev) : Dev :=
  if d.rd F.BOOT_STATUS_LAST_RESET = 4 then
    d.park.record.foldl (fun d r => if r.st = 2 ∧ d.on F.CAN_CFG_ENABLE [r.ch] then d.wr F.CAN_STATUS_STATE [r.ch] 2 else d) d
  else d

/-- Steps 3 to 7 of a boot (R732): images come into force and the tick starts. A DECOMMISSIONED device stops after step 4 (R558), and
so does one that trains memory of another size, with an entry of cause 0x08 (R778) (DEDUCED, log entry 89). -/
def Dev.bootTargets (d : Dev) (r : Strongroom) : Dev :=
  let d := { d with mode := .run, tickStart := d.now, boot := { d.boot with pg := true, almOk := false } }
  let d := d.wr F.PAIR_STATUS_SIDE [] d.pair.sideB.toNat
  let d := { d with images := smap (fun _ s => { s with verified := false }) d.images }
  if r.lifecycle = 4 then d.wr F.BOOT_STATUS_STEP [] 4
  else if !d.boot.memOk then ((d.wr F.BOOT_STATUS_STEP [] 4).log 2 0x94 0x08 0).2
  else
    let d := (bootOrder.foldl (Dev.bootTarget r) d).restoreBusOff.pairBoot
    let d := d.wr F.BOOT_STATUS_STEP [] 7
    let d := { d with tickLen := d.len, boot := { d.boot with admitDue := true } }.realign
    { d with mirror := d.kept }

/-- Steps 2 to 7 of a boot (R732): the key store is rebuilt first (DEDUCED, log entry 82). -/
def bootUnit (x : WithSr) : WithSr :=
  let y := rebuildStore x
  (y.1.bootTargets y.2, y.2)

/-- Steps 8 and 9 at a tick boundary (R732, R734, R789): the almanac in the active slot is admitted and activated; without one
that passes the boot ends. -/
def Dev.bootAdmit (d : Dev) (sr : Strongroom) : Dev :=
  if !d.boot.admitDue then d
  else
    let none_ (d : Dev) : Dev := { (d.wr F.BOOT_STATUS_NO_ALMANAC [] 1) with boot := { d.boot with admitDue := false, almWas := none } }
    match (if d.boot.almOk then (d.slots 3 0x7F).live.bind imgAlmanac else none) with
    | none => none_ d
    | some a =>
      match d.almanacRefused a none fun _ => 0 with
      | some x => none_ (d.noteRefusal x)
      | none =>
        if d.atMultiple a.len then
          let d := (d.firstActivation sr a).seekLone 0
          -- a withdrawal before the first complete delta finds the almanac in force as well (R38, R630)
          { d with mirror := { d.mirror with regs := almanacRegs a d.mirror.regs } }
        else d.wr F.BOOT_STATUS_STEP [] 8

/-! ### Power-on reset and the rails (R727–R729, R732, R762, R765) -/

/-- The device after a power-on reset of the module: fuses and MRAM stay, the park record with it (R729). -/
def Dev.poweredOn (d : Dev) (sideB memOk : Bool) : Dev :=
  { (default : Dev) with
    mode := .bootHeld, gradeF := d.gradeF, fresh := d.fresh, out := d.out, marks := d.marks, images := d.images, park := { record := d.park.record }
    pair := { sideB := sideB }, boot := { memOk, lsOn := true, perst := d.boot.perst.map fun e => (e.1, 0) } }

/-- The reservoir of a die is empty, 50 ms after its supply fell below 3.5 V or, from a lower `VBAT`, as early as R766 lets it be: the die
loses its state, which is a power-on reset of the whole module (R501, R727). The boot waits for the rails. -/
def reservoirOut (die : Nat) (d : Dev) : Dev :=
  match (d.die die).reservoir with
  | some t => if t + (d.die die).reserve ≤ d.now then d.poweredOn d.pair.sideB d.boot.memOk else d
  | none => d

/-- A power-on reset (R727, R732): `memOk` says that the memory that boots train is of the supported size (R778), `pg` is the time from its release to the end of step 7, or nothing where the rails of the logic
die do not come up by themselves in this boot. -/
def powerOn (sideB memOk : Bool) (pg : Option Nat) (x : WithSr) : WithSr :=
  let d := x.1.poweredOn sideB memOk
  match pg with
  | none => (d, x.2)
  | some t => bootUnit ({ d with now := t }, x.2)

/-- The level of `LS_EN0` to `LS_EN3`: they rise in this order, 0.5 ms apart, and fall in the opposite one, 0.2 ms apart (R762, R763). After a
timeout all are low until the sequence begins again. -/
def Dev.lsEn (d : Dev) (k : Nat) : Bool :=
  match d.boot.lsOff with
  | some t => decide (d.now < t + (3 - k) * 200000)
  | none => d.boot.lsOn && decide (d.boot.lsAt + 500000 * k ≤ d.now)

/-- `LS_PG` rises (R762, R764): a boot that waits for the rails runs, and a restart may end. One that comes more than 2.5 ms after `LS_EN0`
finds the enables dropped. -/
def lsPgHigh (x : WithSr) : WithSr :=
  let (d, r) := x
  if d.mode = .bootHeld then
    if d.lsEn 0 ∧ d.now ≤ d.boot.lsAt + 2500000 then bootUnit x else x
  else if d.mode = .park then x
  else ({ d with boot := { d.boot with pg := true } }, r)

/-- `LS_PG` is not high within 2.5 ms: PD-A drops every enable and begins again after 1 s (R762). -/
def lsPgTimeout (d : Dev) : Dev :=
  if d.mode = .bootHeld ∧ !d.boot.pg ∧ d.boot.lsAt + 2500000 ≤ d.now then
    { d with boot := { d.boot with lsAt := d.now + 1000000000 } }
  else d

/-! ### Wake boot (R534, R543, R728, R729) -/

/-- Registers of the always-on domains (R542, R545, R547, R548). -/
def alwaysOn (key : Nat) : Bool :=
  (0x2C0820 ≤ key && key < 0x2C0840) || (0x2C0900 ≤ key && key < 0x2C0A00 && key % 0x20 == 0x14) ||
    key == R.PARKS.base || key == R.WAKES.base || key == R.FALSE_WAKES.base

/-- The logic die as a wake finds it; a unit that parked as the DRIVE unit now holds its heartbeat low (R661) (DEDUCED, log entry 18). -/
def Dev.awakened (d : Dev) : Dev :=
  let n := d.poweredOn d.pair.sideB d.boot.memOk
  let n := if d.pairOn ∧ d.on F.PAIR_STATUS_DRIVE then n.emit (.heartbeat 0) else n
  let first := firstWake d.park.firstA d.park.firstB
  let since := [d.park.firstA, d.park.firstB].filterMap fun w => w.map (·.since)
  let age := since.foldl (fun m t => max m (d.now - t)) 0
  { n with
    kept := { n.kept with regs := d.kept.regs.filter fun e => alwaysOn e.1 }
    park := { record := d.park.record, counts := d.park.counts, firstA := d.park.firstA, firstB := d.park.firstB
              linAt := smap (fun _ t => d.now - t) d.park.linAt, lastWake := first, latchAge := age, told := true } }

/-- The park record is restored before the channels integrate (R534). -/
def Dev.restoreCan (d : Dev) : Dev :=
  d.park.record.foldl (fun d r => (d.wr F.CAN_STATUS_TEC [r.ch] r.tec).wr F.CAN_STATUS_REC [r.ch] r.rec_) d

/-- A latched wake boots the logic die (R543). -/
def wakeBoot (pg : Option Nat) (x : WithSr) : WithSr :=
  let (d, r) := x
  if d.mode ≠ .park ∨ !d.woken then x
  else
    let d := (d.awakened.bump F.WAKES_COUNT).wr F.BOOT_STATUS_LAST_RESET [] 4
    let d := d.restoreCan
    match pg with
    | none => (d, r)
    | some t => bootUnit ({ d with now := t }, r)

/-! ### External reset (R729–R731, R747) -/

/-- Registers that an external reset keeps: those of the ledger and the accession desk, the RWS counts of resets and withdrawals, the
always-on domains, and the recorder's position and status (R123, R729). -/
def keptExternal (key : Nat) : Bool := (0x10010 ≤ key && key < 0x10040) || key == 0x18 || key == R.FAULT_TOTAL.base || alwaysOn key || recorderReg key

/-- The registers of the domain pages: a domain's state outlives an external reset (R370, R729). -/
def isDomainReg (key : Nat) : Bool := 0x20100 ≤ key && key < 0x20300

/-- Step 2 to 4 of an external reset. `code` is `LAST_RESET`, `held` that `RST_N` stays low (DEDUCED, log entry 87). -/
def Dev.externalReset (d : Dev) (code : Nat) (held : Bool) : Dev :=
  let d := d.saveMarks.incr F.RESET_LOG_EXT_RESETS
  let perst := d.boot.perst
  let pg := d.boot.pg
  let memOk := d.boot.memOk
  let lsOn := d.boot.lsOn
  let lsAt := d.boot.lsAt
  let almWas := d.alm.or d.boot.almWas
  let d := d.goSilent 0
  let regs := d.kept.regs.filter fun e => keptExternal e.1 || isDomainReg e.1
  let k : Kept := { regs, transit := d.kept.transit, servos := smap (fun _ s => s.settled) d.kept.servos }
  let d := { d with
    mode := if held then .resetHeld else .restart, kept := k, mirror := k, alm := none, memPart := none, queues := [], cores := [], live := none, gates := [], msix := [], msixPend := [], pcie := []
    commitNo := 0, appliedAt := 0, tookOver := none, doorbells := [], wd := { t0 := d.now }
    pair := { d.pair with on := false }
    park := { d.park with guardAt := 0, guarded := false, aborts := [], committed := false, follow := false, told := false }
    boot := { since := d.now, ext := true, memOk, pg, perst, almWas, lsOn, lsAt } }
  d.wr F.BOOT_STATUS_LAST_RESET [] code

/-- Does a reset act in this mode: not in HALTED, nor while the logic die is off or waits for its rails (R731)? -/
def Dev.resettable (d : Dev) : Bool := d.mode == .run || d.mode == .restart

/-- `RST_N` is held low (R730). -/
def rstLow (held : Bool) (d : Dev) : Dev := if d.resettable then d.externalReset 1 held else d

/-- `RST_N` rises again after longer than 10 µs (R730). -/
def rstRelease (d : Dev) : Dev := if d.mode = .resetHeld then { d with mode := .restart } else d

/-- A write of the key to `DEV_RESET` through a port that serves it (R747). -/
def devReset (port key : Nat) (d : Dev) : Dev :=
  if d.mode = .run ∧ d.livePort port ∧ key % 65536 = 0xD0E5 then d.externalReset 2 false else d

/-! ### The end of a restart (R638, R705, R730) -/

/-- The part whose active image fails its check at a restart (R705). -/
def Dev.badActive (d : Dev) (sr : Strongroom) : Bool :=
  d.images.any fun e =>
    match e.2.live with
    | some i => let f := d.imageFault sr (e.1 / 256) (e.1 % 256) i; f == 4 || f == 5
    | none => false

/-- Items in hand complete WITHDRAWN, and every enabled ring is told of the restart (R264, R398, R616, R640). -/
def Dev.resumeRings (d : Dev) : Dev :=
  let rings := d.kept.rings
  -- records that the last delta has in other slots are written again, and the items in hand end
  let d := ({ d with rewrites := [], out := d.out ++ d.rewrites } : Dev).endItems
  let d := rings.foldl (fun d e =>
    if d.ringOn (e.1 / 65) (e.1 % 65) then d.event (e.1 / 65) 0x0005 0 (if e.1 % 65 = cipherRing then 0x40 else e.1 % 65) (detail16 (leBytes 8 d.kept.transit))
    else d) d
  d.replayBells

/-- Stacks are empty again (R81). -/
def Dev.emptyStacks (d : Dev) : Dev :=
  let d := (List.range 16).foldl (fun d c => if d.rd F.FLOW_TP_USE_OPEN [c] = 0 then d else d.wr F.FLOW_TP_USE_OPEN [c] 0) d
  let d := (List.range 20).foldl (fun d c => d.setCoreEntry c 0xFFFF) d
  d.wr F.STACKS_STATUS_FREE_CELLS [] d.freeCells

/-- `STATE` of every core after a restart, which ends a load in progress: quiesced, running its image, or stopped (R224, R713). -/
def Dev.showCores (d : Dev) : Dev :=
  (List.range 20).foldl (fun d c =>
    let v := if (d.gate c).quiesced then 2 else if (d.core c).hasImage then 1 else 0
    if d.coreState c = v then d else d.setCoreState c v) d

/-- Every enabled channel integrates; one that the stores show in bus-off stays in it (R256, R263). -/
def Dev.integrate (d : Dev) : Dev :=
  (List.range 24).foldl (fun d ch => if d.on F.CAN_CFG_ENABLE [ch] && d.canState ch != 2 then d.wr F.CAN_STATUS_STATE [ch] 3 else d) d

/-- What a restart tells of its cause (R638 step 10, R645) (DEDUCED, log entry 76). -/
def Dev.tellRestart (d : Dev) : Dev :=
  let us := (d.now - d.wd.t0) / 1000
  let d := d.wr F.FAULT_RESTART_RESTART_US [] (min 65535 us)
  let d := (d.log 5 d.wd.part 0x0C 0 us d.wd.acc 0).2
  d.event (d.rd F.FAULT_CFG_FAULT_TENANT) 0x0301 0 d.wd.part
    (detail16 (leBytes 1 d.wd.cause ++ leBytes 1 (min 15 d.recentWithdrawals.length) ++ leBytes 4 us ++ leBytes 6 d.wd.acc))

/-- A withdrawal in GUARD or after the commit (R541): a commit whose delta was not complete is told of again, and masters that owe their
go-to-sleep frame send it. -/
def Dev.parkAfterRestart (d : Dev) : Dev :=
  if d.park.committed then
    let late := d.rd F.PARK_STATUS_STATE != 2
    let d := d.wr F.PARK_STATUS_STATE [] 2
    let d := if d.quiet then d else (List.range 16).foldl Dev.goToSleep d
    if late then { d.tellCommit with park := { d.park with commitTransit := d.kept.transit } } else d
  else if d.park.guarded then d.leaveGuard 0x14 0 else { d with park := { d.park with aborts := [] } }

/-- The pair after an own withdrawal (R641, R668): a unit that drives alone at once keeps the outputs that it has reclaimed (R505). -/
def Dev.pairAfterRestart (d : Dev) : Dev :=
  if d.pairOn then
    let d := (d.setPair psSeeking false 7).seekLone 7
    if d.drives then d else d.outputsOff
  else d

/-- After a withdrawal every running domain runs at the rate of the last complete mirror delta (R370). -/
def Dev.resumeRates (d : Dev) : Dev :=
  (List.range 4).foldl (fun d i => if d.tdRuns i then d.setRate i (d.servo i).rate else d) d

/-- The rings of a port whose link is down are disabled, whatever the last delta says of them (R422). -/
def Dev.downRings (d : Dev) : Dev :=
  [0, 1, 2, 3].foldl (fun d p => if d.on F.HOST_PORT_LINK_UP [p] then d else d.portRingsOff p) d

/-- A withdrawal's restart ends at a boundary. -/
def Dev.resumeWithdrawn (d : Dev) (sr : Strongroom) : Dev :=
  if d.badActive sr then { (d.wr F.FAULT_STATUS_STATE [] 2) with mode := .halted }
  else
    let d := { d with mode := .run }
    let d := d.wr F.BOOT_STATUS_LAST_RESET [] 3
    let d := d.emptyStacks.handleAll.showCores
    let d := d.reclaimBoth
    let d := d.downRings.resumeRings.integrate
    let d := resumePns (d.recResume.trigger_ 3)
    let d := ((d.liveDone 0x60 0 0).wr F.LS_STATUS_BUSY [] 0).unverifyAll 2 fun _ => true
    let d := d.resumeRates.tellRestart.parkAfterRestart
    let d := { d with strobeDue := d.active }
    let d := match d.alm with | some a => d.startTasks a | none => d
    d.pairAfterRestart

/-- Domains that ran before an external reset and run after it go on as they were (R370, R729) (DEDUCED, log entry 77). -/
def Dev.keepDomains (d old : Dev) : Dev :=
  (List.range 4).foldl (fun d i =>
    -- the guard stays armed until the next power-on reset (R341)
    let d := if old.on F.TD_STATE_GUARD_ARMED [i] then d.wr F.TD_STATE_GUARD_ARMED [i] 1 else d
    if old.tdRuns i ∧ d.on F.TD_CFG_ENABLE [i] ∧ d.rd F.TD_CFG_ROLE [i] = old.rd F.TD_CFG_ROLE [i] then
      let d := (d.modServo i fun _ => old.servo i).setTd i (old.tdState i)
      let d := if old.on F.TD_STATE_JUMP_HELD [i] then d.wr F.TD_STATE_JUMP_HELD [i] 1 else d
      let d := { d with segs := sput d.segs i (sget old.segs i), pastSegs := (old.pastSegs.filter fun e => e.1 == i) ++ d.pastSegs }
      if i = 0 then { d with hist := old.hist } else d
    else d) d

/-- The device as the boot of an external reset finds it: the domains stand apart (R370, R729). -/
def Dev.externalBoot (d : Dev) : Dev :=
  { (d.modK fun k => { k with regs := k.regs.filter fun e => !isDomainReg e.1 }) with mode := .run }

/-- What follows that boot: the domains that run as before are kept, and the tick goes on; its step 10 tells of the restart, which no entry of a
cause began (R638, R730). -/
def Dev.externalBooted (d old : Dev) (r : Strongroom) : Dev :=
  let d := (d.keepDomains old).emptyStacks.handleAll
  let d := d.reclaimBoth
  let d := { d with tickStart := old.tickStart, tickLen := old.tickLen, track := old.track, boot := { d.boot with ext := false } }
  (d.followStep old).recResume.tellRestart.bootAdmit r

/-- An external reset ends at a boundary (R730): images, almanac and first strobe. -/
def resumeExternal (x : WithSr) : WithSr :=
  let y := bootUnit (x.1.externalBoot, x.2)
  (y.1.externalBooted x.1 y.2, y.2)

/-- `RESTART_COMPLETE`: the part that the cause names fails its built-in self-test, and the device enters HALTED (R637, R643); or, at a
boundary, once the rails are up, the restart ends (R638, R730, R764). -/
def restartComplete (tested : Bool) (x : WithSr) : WithSr :=
  if x.1.mode = .restart ∧ !x.1.boot.ext ∧ !tested then
    ({ (x.1.wr F.FAULT_STATUS_STATE [] 2) with mode := .halted }, x.2)
  else if x.1.mode ≠ .restart ∨ x.1.now ≠ x.1.tickStart ∨ !x.1.boot.pg then x
  else if x.1.boot.ext then resumeExternal x
  else
    let y := rebuildStore x
    (y.1.resumeWithdrawn y.2, y.2)

/-- A withdrawal comes from outside the model's own detectors (R631, R638, R764): `pgLow` says that the rails have gone. -/
def withdrawalFrom (part cause inst location : Nat) (pgLow : Bool) (d : Dev) : Dev :=
  let d := d.withdraw part cause inst location
  if pgLow then { d with boot := { d.boot with pg := false } } else d

/-! ### Configuration requests (R737, R738) -/

/-- The value of an item of configuration space: a BAR's size, and its type bits, those of a 32-bit memory BAR that is not
prefetchable (R376, R454), and the base that the host has assigned (R737); the MSI-X table's entries and the places of it and of the pending-bit array in BAR4; 1 for a capability of the list of R738, for the power states D0 and D3hot, and for a supported feature; sizes in bytes, of payloads (R445), of what the host has set, and of the read completion boundary; the ranges of
completion timeouts that the host can choose, and the code that it has chosen (R441) (PRESUMED, log entry 168). -/
def Dev.cfgValue (d : Dev) (sr : Strongroom) (port : Nat) : CfgItem → Nat
  | .vendorId => 0x1F5A
  | .deviceId => 0x2460
  | .revisionId => Config.stepping % 256
  | .classCode => 0x028000
  | .subVendorId => 0x1F5A
  | .subsystemId => 0x2400 + d.gradeF.toNat
  | .interruptPin => 0
  | .bar0Size => 0x1000000
  | .bar0Type | .bar2Type | .bar4Type => 0
  | .msixEntries => 256
  | .msixTable => 0
  | .msixPending => 0x1000
  | .functionReset | .timeoutDisable | .d0 | .d3hot | .powerManagement | .pciExpress | .msixCapability | .errorReporting | .serialCapability => 1
  | .bar0 => (sget d.pcie port).bar0.getD 0
  | .bar2 => (sget d.pcie port).bar2.getD 0
  | .bar4 => (sget d.pcie port).bar4.getD 0
  | .bar2Size => 0x10000
  | .bar4Size => 0x2000
  | .maxPayload => 512
  | .payloadSize => (sget d.pcie port).payload
  | .readRequestSize => (sget d.pcie port).readRequest
  | .readBoundary => 64
  | .timeoutRanges => 15
  | .completionTimeout => (sget d.pcie port).cto
  | .serialLow => ofLe (slice sr.identity 0 4)
  | .serialHigh => ofLe (slice sr.identity 4 4)

/-- The base that a write of a BAR of a size assigns; ones in every bit ask for the size and assign none (R737) (PRESUMED, log entry 168). -/
def barBase (size v : Nat) : Option Nat := if 2 ^ 32 - size ≤ v % 2 ^ 32 then none else some (v % 2 ^ 32 / size * size)

/-- The host sets an item by its code (R441, R445), or assigns a BAR (R737); a write of any other item changes nothing. -/
def Pcie.write (p : Pcie) (item : CfgItem) (v : Nat) : Pcie :=
  if item = .bar0 then { p with bar0 := barBase 0x1000000 v }
  else if item = .bar2 then { p with bar2 := barBase 0x10000 v }
  else if item = .bar4 then { p with bar4 := barBase 0x2000 v }
  else if item = .payloadSize then { p with mps := v % 8 }
  else if item = .readRequestSize then { p with mrrs := some (v % 8) }
  else if item = .completionTimeout then { p with cto := v % 32 }
  else p

/-- A configuration request: Retry Status until 100 ms after the later of t_b and the deassertion of the port's reset (R737; DESIGN CHOICE,
DESIGN CHOICE, log entry 148); the local counter starts at t_b. A device whose logic die is off does not answer. -/
def cfgRequest (port : Nat) (item : CfgItem) (write : Option Nat) (sr : Strongroom) (d : Dev) : Dev :=
  if d.mode = .park ∨ d.mode = .bootHeld ∨ 4 ≤ port then d
  else if d.now < sget d.boot.perst port + 100000000 then d.emit (.cfg port true 0)
  else match write with
    | none => d.emit (.cfg port false (d.cfgValue sr port item))
    | some v => ({ d with pcie := smod d.pcie port fun p => p.write item v }).emit (.cfg port false 0)

/-- A host port reset by its link, its function or `HPp_PERST_N` (R422, R737); `perst` is the deassertion of the last. -/
def portReset (p : Nat) (linkDown perst : Bool) (d : Dev) : Dev :=
  let d := if perst then { d with boot := { d.boot with perst := sput d.boot.perst p d.now } } else d
  if d.mode = .park ∨ d.mode = .bootHeld then d else hostPortReset p linkDown d

/-- A host port's link comes up (R422, R448). -/
def portLinkUp (p : Nat) (d : Dev) : Dev := if d.mode = .park ∨ d.mode = .bootHeld then d else hostPortLinkUp p d

end Sys2Proof.Machine
end

