-- ==== Sys2Proof/Machine/Boundary.lean ====
section
/-! DEFINITION. The transit: its latch cut, the completion of its mirror delta, and the boundary that ends it (R33–R39, R486,
R487, R630, R671–R673, and the boundary work that other chapters name). -/

namespace Sys2Proof.Machine

/-! ### The latch cut and the delta (R486, R630, R671) -/

/-- At 1,000/1,024 of the transit the latch set and the mirror delta close; a delta of more than M(L) bytes is a hardware fault
(R671–R673) (DESIGN CHOICE, log entry 50). -/
def latchCut (bytes : Nat) (d : Dev) : Dev :=
  if !d.runs ∨ d.cutDone ∨ d.now < d.point 1000 then d
  else if deltaCapacity d.len 1000 < bytes then d.withdraw 0x78 0x06 0
  else
    let d := d.finishOuts
    { (d.sendDelta bytes) with cutDone := true, cut := some d.keptNow, cutBytes := bytes }

/-- The delta of the open transit is complete (R630, R671, R573): the journal is emptied, so the kept stores as they stood at the
cut are what a withdrawal returns to. A SHADOW unit has them from the delta itself. -/
def deltaComplete (d : Dev) : Dev :=
  if !d.runs ∨ !d.cutDone ∨ (d.mirrors ∧ d.deltaUnacked) then d
  else if d.follows then
    if d.pair.deltaIn = some d.kept.transit then { d.placeProof with deltaDone := true } else d
  else if d.deltaDone then d
  else
    let d := { d with deltaDone := true, mirror := d.cut.getD d.keptNow, cut := none, rewrites := [] }
    let stand (o : LiveOp) : LiveOp := { o with stands := !o.pair && d.dueNext o }
    let d := { d with live := d.live.map stand }
    let d := if d.pairOn then d.wr F.PAIR_DELTA_BYTES [] d.cutBytes else d
    d.placeProof

/-! ### The boundary -/

/-- Has the boot ended at step 4, before the tick starts (R558, R732, R778)? (DEDUCED, log entry 105). -/
def Dev.bootStopped (d : Dev) : Bool := d.rd F.BOOT_STATUS_STEP == 4

/-- Does the tick generator give a boundary at this instant (R34–R36) (DEDUCED, log entry 48)? -/
def Dev.tickOk (d : Dev) (t : Nat) : Bool := decide (t = d.nextTick) && !d.bootStopped

/-- The body image (R218): input states, currents and channel status bytes of the transit that ended. -/
def Dev.bodyImage (d : Dev) : List Byte :=
  let cur (f : Fld) (ch : Nat) : List Byte := leBytes 2 (d.rd f [chanDie ch, chanLocal ch])
  d.inputImage ++ List.replicate 8 0
    ++ ((List.range 8).flatMap fun k => cur F.CH_CURRENT_MEAN (64 + k) ++ cur F.CH_CURRENT_PEAK (64 + k))
    ++ ((List.range 64).flatMap fun k => cur F.CH_CURRENT_MEAN k)
    ++ ((List.range 72).map fun ch => BitVec.ofNat 8 ((d.chan ch).status ch))
    ++ List.replicate 248 0

/-- Work of a core that the ending transit leaves unfinished although it was due: the first such entry's core (R47). -/
def Dev.firstOverdue (d : Dev) : Option (Nat × Nat) :=
  (List.range 20).findSome? fun c => (d.overdue c).map fun e => (c, e)

/-- The latch sets at the boundary (R486, R487): a set whose delta is complete waits for its strobe, any other is discarded; a SHADOW
unit keeps those of its own that a takeover would release (R682). -/
def Dev.closeLatch (d : Dev) : Dev :=
  { d with
    strobe := if d.deltaDone then d.latch else if d.shadow then (if d.strobeDue then [] else d.strobe) ++ d.latch else []
    strobeDue := d.deltaDone
    latch := d.latchNext
    latchNext := []
    cutDone := false
    deltaDone := false
    cut := none }

/-- A tenant's cipher operations: one that was carried once and is not served completes REFUSED_BUDGET (R62, R63, R612). -/
def Dev.carryCipher (d : Dev) : Dev :=
  (List.range 16).foldl (fun d t =>
    if d.ringKind t cipherRing ≠ 8 then d
    else
      let late := (d.ring t cipherRing).items.filter fun f => decide (f.ref.transit + 2 ≤ d.kept.transit)
      let d := if late = [] then d
        else d.modRing t cipherRing fun g => { g with items := g.items.filter fun f => decide (d.kept.transit < f.ref.transit + 2) }
      late.foldl (fun d f => d.cipherEnd t f 0x10) d) d

/-- The entries that flush the ledger in a transit allow so many (R650). -/
def Dev.flushRoom (d : Dev) : Nat :=
  match d.alm with
  | some a => sumOf (a.entries.filter fun e => e.kind == 9 && AlmEntry_active a e d.kept.transit) (·.costFixed)
  | none => 0

/-- A boundary of the running device, once the counter has advanced: every block's work at a boundary, in this order (DESIGN CHOICE, log entry 54). -/
def Dev.openTransit (d : Dev) (s : Sensed) (sr : Strongroom) : Dev :=
  let whole := d.deltaDone
  let d := d.closeLatch
  let d := { d with commitAcc := none }
  let d := if d.msgReady || !d.unwraps.isEmpty || d.transferReady then
      let (a, d) := d.number
      { d with commitAcc := some a }
    else d
  let d := senseBoundary s d.outputsDue
  let d := { d with body := d.bodyImage }
  let d := d.tickDies
  let d := basesBoundary 1 (basesBoundary 0 d)
  let d := timeBoundary d
  let d := coresBoundary d
  let d := (List.range 20).foldl (fun d c => carryCore c d) d
  let d := d.carryCipher
  let d := (d.reopenPorts.liveBoundary sr).releaseDue sr whole
  let d := ringsBoundary d
  let d := (arbBoundary d).feedWhere fun _ => true
  let d := portsBoundary d
  let d := (catalogueBoundary d).releaseBuckets
  let d := match d.alm with | some a => d.startTasks a | none => d
  let d := parkBoundary d
  let d := d.flushLedger d.flushRoom
  let d := { d with recCtl := d.recCtlNow }
  let d := if d.pairOn && d.drives then d.emit (.heartbeat 2) else d
  d.judgeLink.bootAdmit sr

/-- What a boundary brings (R33–R39): the transit counter advances by one, in a restart and in HALTED as well (R37, R38,
R639). SAFETY or CONTROL work that the ending transit leaves unfinished is a hardware fault (R47) (DESIGN CHOICE, log entry 47). -/
def Dev.boundary (t : Nat) (s : Sensed) (sr : Strongroom) (d : Dev) : Dev :=
  if d.runs then
    let d := (List.range 20).foldl (fun d c => carryCore c d) d.finishReads
    match d.firstOverdue with
    | some (c, e) => ((d.withdraw c 0x06 e).tick t).liveStands sr
    | none => (d.tick t).openTransit s sr
  else (d.tick t).liveStands sr

/-- `TRANSIT_BOUNDARY` at instant `t`: a boundary of the device's tick (R34–R36), a tick of a die that holds (R502), or both. -/
def transitBoundary (t : Nat) (s : Sensed) (sr : Strongroom) (d : Dev) : Dev :=
  let n := d.atTime t
  if d.mode = .bootHeld ∨ d.mode = .park then d
  else if d.tickOk t then (n.boundary t s sr).holdTicks s
  else if n.ownTicks = [] then d
  else n.holdTicks s

end Sys2Proof.Machine
end

