-- ==== Sys2Proof/Machine/Act.lean ====
section
/-! DEFINITION. How a meaning acts on the state: on the device, on the device as the Strongroom lets it read its store, or on
both; and who may give a command that is a register write. -/

namespace Sys2Proof.Machine

/-- What a meaning answers. -/
abbrev Result := Host.Outcome State Fault Refusal

/-- An effect on the device alone. -/
def State.onDev (s : State) (f : Dev → Dev) : Result := .next { s with dev := f s.dev }

/-- An effect on the device that reads the Strongroom's store. -/
def State.onDevWith (s : State) (f : Strongroom → Dev → Dev) : Result := .next { s with dev := f s.sr s.dev }

/-- An effect on the device and on the Strongroom's store. -/
def State.onBoth (s : State) (f : WithSr → WithSr) : Result :=
  .next { s with dev := (f (s.dev, s.sr)).1, sr := (f (s.dev, s.sr)).2 }

/-- A command given by a write of a setup register through a port: the port must serve the register, and SEAL drops it where
R743 does not except it. -/
def Dev.byRegister (d : Dev) (port a : Nat) (go : Dev → Dev) : Dev :=
  if !d.runs ∨ !d.served port a then d
  else if d.sealed && sealedOff a then d.bump F.SEAL_DROPS_COUNT
  else go d

/-- What happens at a power die, which runs from the release of power-on reset on (R732 step 1), but not while the module is parked. -/
def Dev.onDie (d : Dev) (f : Dev → Dev) : Dev := if d.mode = .park then d else f d

end Sys2Proof.Machine
end

