-- ==== Sys2Proof/Machine/CmdBoot.lean ====
section
/-! DEFINITION. Resets, the boot and the logic-die rails (R727–R735, R762–R765). -/

namespace Sys2Proof.Machine

/-! ### Meanings -/

/-- `POWER_ON_RESET` (R727, R729, R732, R778: the reset of the module; `memOk` says that the memory fitted is of the supported size, `pg` is the time from its release to the end of step 7, nothing where the logic-die rails are late). -/
def execPowerOnReset (sideB memOk : Bool) (pg : Option Nat) (s : State) : Result :=
  s.onBoth (powerOn sideB memOk pg)

/-- `EXTERNAL_RESET` (R730: `RST_N` low, held longer than 10 µs or not). -/
def execExternalReset (t : Nat) (held : Bool) (s : State) : Result :=
  s.onDev fun d => rstLow held (d.atTime t)

/-- `DEV_RESET` (R747). -/
def execDevReset (t : Nat) (port : HostPort) (key : Nat) (s : State) : Result :=
  s.onDev fun d => devReset port key (d.atTime t)

/-- `WAKE_BOOT` (R543). -/
def execWakeBoot (t : Nat) (pg : Option Nat) (s : State) : Result :=
  s.onBoth fun x => wakeBoot pg (x.1.atTime t, x.2)

/-- `RESTART_COMPLETE` (R637, R638, R730). -/
def execRestartComplete (t : Nat) (tested : Bool) (s : State) : Result :=
  s.onBoth fun x => restartComplete tested (x.1.atTime t, x.2)

/-- `LS_PG_TIMEOUT` (R762). -/
def execLsPgTimeout (t : Nat) (s : State) : Result :=
  s.onDev fun d => lsPgTimeout (d.atTime t)

/-- `LS_PG_HIGH` (R762, R764). -/
def execLsPgHigh (t : Nat) (s : State) : Result :=
  s.onBoth fun x => lsPgHigh (x.1.atTime t, x.2)

/-- `RST_N_RELEASE` (R730). -/
def execRstNRelease (t : Nat) (s : State) : Result :=
  s.onDev fun d => rstRelease (d.atTime t)

end Sys2Proof.Machine
end

