-- ==== Sys2Proof/Machine/CmdBus.lean ====
section
/-! DEFINITION. Inbound reads, deliveries, the gates and configuration requests (R8–R12, R376, R436–R458, R737–R748). -/

namespace Sys2Proof.Machine

/-! ### Meanings -/

/-- `SIDE_EFFECT_READ` (R10, R376, R446, R455: a read of so many words). -/
def execSideEffectRead (t : Nat) (reader : Reader) (addr words : Nat) (s : State) : Result :=
  s.onDevWith fun sr d => busRead (readerCode reader) addr words sr (d.atTime t)

/-- `READ_DELIVERY` (R10, R455: the reply to a read is delivered). -/
def execReadDelivery (t : Nat) (reader : Reader) (serial : Nat) (s : State) : Result :=
  s.onDev fun d => readDelivered (readerCode reader) serial (fun _ => true) (d.atTime t)

/-- `TRANSIT_COUNT_LO` (R40: a read of the register latches its partners). -/
def execTransitCountLo (t : Nat) (port : HostPort) (s : State) : Result :=
  s.onDevWith fun sr d => busRead port (regKey R.TRANSIT_COUNT_LO []) 1 sr (d.atTime t)

/-- `TD_NOW_SEC_LO` (R373: a read of the register latches its partners). -/
def execTdNowSecLo (t : Nat) (port : HostPort) (dom : TimeDom) (s : State) : Result :=
  s.onDevWith fun sr d => busRead port (regKey R.TD_NOW_SEC_LO [dom]) 1 sr (d.atTime t)

/-- `RX_OCTETS` (R332: a read of the low word of `RX_OCTETS` or `TX_OCTETS`). -/
def execRxOctets (t : Nat) (port : HostPort) (n : EthIx) (tx : Bool) (s : State) : Result :=
  s.onDevWith fun sr d => busRead port (regKey (if tx then R.TX_OCTETS_LO else R.RX_OCTETS_LO) [n]) 1 sr (d.atTime t)

/-- `SR_COMMIT_LO` (R593: a read of the register latches its partners). -/
def execSrCommitLo (t : Nat) (port : HostPort) (page : HostPort) (s : State) : Result :=
  s.onDevWith fun sr d => busRead port (regKey R.SR_COMMIT_LO [page]) 1 sr (d.atTime t)

/-- `ACC_NOW_LO` (R654: a read of the register latches its partners). -/
def execAccNowLo (t : Nat) (port : HostPort) (s : State) : Result :=
  s.onDevWith fun sr d => busRead port (regKey R.ACC_NOW_LO []) 1 sr (d.atTime t)

/-- `FAULT_LAST_LO` (R655: a read of the register latches its partners). -/
def execFaultLastLo (t : Nat) (port : HostPort) (s : State) : Result :=
  s.onDevWith fun sr d => busRead port (regKey R.FAULT_LAST_LO []) 1 sr (d.atTime t)

/-- `PAIR_TAKEOVER_LO` (R693: a read of the register latches its partners). -/
def execPairTakeoverLo (t : Nat) (port : HostPort) (s : State) : Result :=
  s.onDevWith fun sr d => busRead port (regKey R.PAIR_TAKEOVER_LO []) 1 sr (d.atTime t)

/-- `LS_APPLY_LO` (R725: a read of the register latches its partners). -/
def execLsApplyLo (t : Nat) (port : HostPort) (s : State) : Result :=
  s.onDevWith fun sr d => busRead port (regKey R.LS_APPLY_LO []) 1 sr (d.atTime t)

/-- `LEDGER_DATA0` (R654: a read of the register latches its partners). -/
def execLedgerData0 (t : Nat) (port : HostPort) (s : State) : Result :=
  s.onDevWith fun sr d => busRead port (regKey R.LEDGER_DATA [0]) 1 sr (d.atTime t)

/-- `RECEIVE_FOLIO_READ` (R241: the reply to a read of a receive queue's head is delivered). -/
def execReceiveFolioRead (t : Nat) (reader : Reader) (serial : Nat) (s : State) : Result :=
  s.onDev fun d => readDelivered (readerCode reader) serial (fun w => w.head) (d.atTime t)

/-- `GATE_CLOSE` (R437, R449: `late` names the unanswered requests, by requester and serial). -/
def execGateClose (t : Nat) (part : Nat) (late : List (Nat × Nat)) (s : State) : Result :=
  s.onDev fun d => let d := d.atTime t; if d.runs then closeGate part late d else d

/-- `HOLD_LIMIT_EXPIRY` (R450). -/
def execHoldLimitExpiry (t : Nat) (part : Nat) (s : State) : Result :=
  s.onDev fun d => let d := d.atTime t; if d.runs then holdExpired part d else d

/-- `STALE_REPLY` (R438: a reply that carries this call slip). -/
def execStaleReply (t : Nat) (slip : Slip) (s : State) : Result :=
  s.onDev fun d => let d := d.atTime t; if d.runs then staleReply slip d else d

/-- `COLLECT_TIMEOUT` (R442). -/
def execCollectTimeout (t : Nat) (port : HostPort) (serial : Nat) (s : State) : Result :=
  s.onDev fun d => let d := d.atTime t; if d.runs then collectTimeout port serial d else d

/-- `SERIAL_RELEASE` (R439). -/
def execSerialRelease (t : Nat) (requester serial : Nat) (s : State) : Result :=
  s.onDev fun d => let d := d.atTime t; if d.runs then serialRelease requester serial d else d

/-- `CONFIGURATION_REQUEST` (R441, R445, R454, R737, R738: a read, or a write of a value). -/
def execConfigurationRequest (t : Nat) (port : HostPort) (item : CfgItem) (write : Option Nat) (s : State) : Result :=
  s.onDevWith fun sr d => cfgRequest port item write sr (d.atTime t)

end Sys2Proof.Machine
end

