-- ==== Sys2Proof/Machine/CmdCan.lean ====
section
/-! DEFINITION. Commands of the CAN controllers (R234–R265). -/

namespace Sys2Proof.Machine

/-- A frame on the bus has ended for a receiver; in GUARD, after a commit and in watch park it is judged as a wake as well (R529, R533, R538, R539). -/
def canFrameSeen (ch : Nat) (f : CanFrame) (e : CanRx) (dataPhase : Bool) (sof : Nat) (d : Dev) : Dev :=
  let d := canReceive ch f e dataPhase sof d
  if (d.runs ∧ d.canListens ch ∧ (d.inGuard ∨ d.park.committed)) ∨ (d.mode = .park ∧ d.on F.PARK_CFG_MODE) then judgeFrame ch f (e == .good) d
  else d

/-- The recovery command, in `CAN_CMD` or by a command ring (R256). -/
def recoverVia (via : Via) (ch : Nat) (d : Dev) : Dev :=
  match via with
  | .reg port => d.byRegister port (regKey R.CAN_CMD [ch]) (recoverCan ch)
  | .ring t r => hostCommand t r (fun b => match b with | .channel res op _ => canOf res == some ch && op == 1 | _ => false) d

/-! ### Meanings -/

/-- `FOLIO_LOCK_EXPIRY` (R241). -/
def execFolioLockExpiry (ch : CanIx) (queueB : Bool) (s : State) : Result :=
  s.onDev fun d => if d.runs then folioLockExpiry ch queueB d else d

/-- `CAN_RX_FRAME` (R75, R234–R243, R538: a frame on the bus has ended; `sof` is the instant at which its start-of-frame bit began). -/
def execCanRxFrame (t : Nat) (ch : CanIx) (frame : CanFrame) (ending : CanRx) (dataPhase : Bool) (sof : Nat) (short : Bool) (s : State) : Result :=
  s.onDev fun d => canFrameSeen ch frame ending dataPhase sof ((d.atTime t).recFalls short)

/-- `CAN_ARBITRATION` (R248, R249) (DESIGN CHOICE, log entry 73). -/
def execCanArbitration (t : Nat) (ch : CanIx) (s : State) : Result :=
  s.onDev fun d => canArbitrate ch (feedFolios ch (d.atTime t))

/-- `CAN_TX_END` (R250–R255; `loop` is the loop delay that a transmission measures). -/
def execCanTxEnd (t : Nat) (ch : CanIx) (ending : CanTx) (dataPhase : Bool) (loop : Option Nat) (sof : Nat) (s : State) : Result :=
  s.onDev fun d => canTxEnd ch ending dataPhase loop sof (d.atTime t)

/-- `RECOVER` (R256, R794). -/
def execRecover (t : Nat) (via : Via) (ch : CanIx) (s : State) : Result :=
  s.onDev fun d => recoverVia via ch (d.atTime t)

/-- `RECOVERY_COMPLETE` (R256). -/
def execRecoveryComplete (t : Nat) (ch : CanIx) (s : State) : Result :=
  s.onDev fun d => recoveryComplete ch (d.atTime t)

/-- `EXPIRE` (R247). -/
def execExpire (t : Nat) (ch : CanIx) (folio : FolioIx) (s : State) : Result :=
  s.onDev fun d => let d := d.atTime t; if d.runs then expireFolio ch folio d else d

/-- `BUS_INTEGRATION` (R263). -/
def execBusIntegration (t : Nat) (ch : CanIx) (s : State) : Result :=
  s.onDev fun d => busIntegrated ch (d.atTime t)

end Sys2Proof.Machine
end

