-- ==== Sys2Proof/Machine/CmdCipher.lean ====
section
/-! DEFINITION. Operations of the tenants' cipher queues (R596–R624). -/

namespace Sys2Proof.Machine

/-! ### Meanings -/

/-- `ENCRYPT` (R597, R598, R611–R616: the operation at the front of the tenant's cipher queue). -/
def execEncrypt (t : Nat) (tenant : Tenant) (s : State) : Result :=
  s.onDevWith fun sr d => tenantCipher tenant cEncrypt sr (d.atTime t)

/-- `DECRYPT` (R597, R598, R611–R616: the operation at the front of the tenant's cipher queue). -/
def execDecrypt (t : Nat) (tenant : Tenant) (s : State) : Result :=
  s.onDevWith fun sr d => tenantCipher tenant cDecrypt sr (d.atTime t)

/-- `MAC_GENERATE` (R597, R598, R611–R616: the operation at the front of the tenant's cipher queue). -/
def execMacGenerate (t : Nat) (tenant : Tenant) (s : State) : Result :=
  s.onDevWith fun sr d => tenantCipher tenant cMacGen sr (d.atTime t)

/-- `MAC_VERIFY` (R597, R598, R611–R616: the operation at the front of the tenant's cipher queue). -/
def execMacVerify (t : Nat) (tenant : Tenant) (s : State) : Result :=
  s.onDevWith fun sr d => tenantCipher tenant cMacVerify sr (d.atTime t)

/-- `UNWRAP` (R618–R621). -/
def execUnwrap (t : Nat) (tenant : Tenant) (s : State) : Result :=
  s.onBoth fun x => tenantUnwrap tenant (x.1.atTime t, x.2)

/-- `SIGN` (R615). -/
def execSign (t : Nat) (tenant : Tenant) (s : State) : Result :=
  s.onDevWith fun sr d => tenantSign tenant sr (d.atTime t)

end Sys2Proof.Machine
end

