-- ==== Sys2Proof/Machine/CmdEngine.lean ====
section
/-! DEFINITION. The instructions of a core (R184–R204). -/

namespace Sys2Proof.Machine

/-! ### Meanings -/

/-- `ADD` (R197). -/
def execAdd (core : CoreId) (rd ra : GReg) (b : Src) (s : State) : Result :=
  s.onDev fun d => d.instr core 1 fun k => k.set rd (k.get ra + k.src b)

/-- `AND` (R197). -/
def execAnd (core : CoreId) (rd ra : GReg) (b : Src) (s : State) : Result :=
  s.onDev fun d => d.instr core 1 fun k => k.set rd (k.get ra &&& k.src b)

/-- `SHL` (R197). -/
def execShl (core : CoreId) (rd ra : GReg) (b : Src) (s : State) : Result :=
  s.onDev fun d => d.instr core 1 fun k => k.set rd (shiftLeft (k.get ra) (k.src b))

/-- `CMP` (R187, R197). -/
def execCmp (core : CoreId) (ra : GReg) (b : Src) (s : State) : Result :=
  s.onDev fun d => d.instr core 1 fun k => k.compare (k.get ra) (k.src b)

/-- `MOV` (R187, R197: from a general register, or from `CYCLES` or `TRANSIT`). -/
def execMov (core : CoreId) (rd : GReg) (src : MovSrc) (s : State) : Result :=
  s.onDev fun d => d.instr core 1 fun k => k.set rd (k.movSrc d.kept.transit src)

/-- `LUI` (R197: `value` is the value that the immediate stands for) (DEDUCED, log entry 11). -/
def execLui (core : CoreId) (rd : GReg) (value : Word) (s : State) : Result :=
  s.onDev fun d => d.instr core 1 fun k => k.set rd value

/-- `MUL` (R187, R197: the product goes to a pair). -/
def execMul (core : CoreId) (rd ra : GReg) (b : Src) (s : State) : Result :=
  s.onDev fun d => d.instrOr core 3 (pairBad rd) fun k => k.setPair rd (mul64 (k.get ra) (k.src b))

/-- `DIV` (R197). -/
def execDiv (core : CoreId) (rd ra : GReg) (b : Src) (s : State) : Result :=
  s.onDev fun d => d.instr core 20 fun k => let q := divide (k.get ra) (k.src b); { (k.set rd q.1) with v := k.v || q.2 }

/-- `BFX` (R197). -/
def execBfx (core : CoreId) (rd ra : GReg) (pos : Fin 32) (len : Fin 33) (s : State) : Result :=
  s.onDev fun d => d.instr core 1 fun k => k.set rd (bitField (k.get ra) pos len)

/-- `BFI` (R197). -/
def execBfi (core : CoreId) (rd ra : GReg) (pos : Fin 32) (len : Fin 33) (s : State) : Result :=
  s.onDev fun d => d.instr core 1 fun k => k.set rd (bitInsert (k.get rd) (k.get ra) pos len)

/-- `CLZ` (R197). -/
def execClz (core : CoreId) (rd ra : GReg) (s : State) : Result :=
  s.onDev fun d => d.instr core 1 fun k => k.set rd (BitVec.ofNat 32 (leadingZeros (k.get ra)))

/-- `POPC` (R197). -/
def execPopc (core : CoreId) (rd ra : GReg) (s : State) : Result :=
  s.onDev fun d => d.instr core 1 fun k => k.set rd (BitVec.ofNat 32 (popCount (k.get ra)))

/-- `BSWAP` (R197). -/
def execBswap (core : CoreId) (rd ra : GReg) (s : State) : Result :=
  s.onDev fun d => d.instr core 1 fun k => k.set rd (byteSwap (k.get ra))

/-- `CRCB` (R197). -/
def execCrcb (core : CoreId) (kind : CrcKind) (rd ra : GReg) (b : Src) (s : State) : Result :=
  s.onDev fun d => d.instr core 1 fun k => k.set rd (crcStep kind (k.get ra) ((k.src b).setWidth 8))

/-- `LD` (R188, R197). -/
def execLd (core : CoreId) (size : Size) (rd ra : GReg) (off : Word) (s : State) : Result :=
  s.onDev fun d => coreLoad core size rd ra off d

/-- `ST` (R188, R197). -/
def execSt (core : CoreId) (size : Size) (rs ra : GReg) (off : Word) (s : State) : Result :=
  s.onDev fun d => coreStore core size rs ra off d

/-- `B` (R197). -/
def execB (core : CoreId) (flag : FlagName) (want : Bool) (target : Nat) (s : State) : Result :=
  s.onDev fun d => coreBranch core flag want target d

/-- `J` (R197). -/
def execJ (core : CoreId) (target : Nat) (s : State) : Result :=
  s.onDev fun d => d.instr core 2 fun k => { k with pc := target }

/-- `CALL` (R197). -/
def execCall (core : CoreId) (target : Nat) (s : State) : Result :=
  s.onDev fun d => coreCall core target d

/-- `RET` (R197). -/
def execRet (core : CoreId) (s : State) : Result :=
  s.onDev fun d => coreReturn core d

/-- `SGX` (R201–R203). -/
def execSgx (core : CoreId) (rd : GReg) (desc : Src) (ra : GReg) (s : State) : Result :=
  s.onDev fun d => coreSgx core rd desc ra d

/-- `SGP` (R201, R202, R204). -/
def execSgp (core : CoreId) (rs : GReg) (desc : Src) (ra : GReg) (s : State) : Result :=
  s.onDev fun d => coreSgp core rs desc ra d

/-- `SGL` (R204). -/
def execSgl (core : CoreId) (rd rx rb : GReg) (s : State) : Result :=
  s.onDev fun d => coreSgl core rd rx rb d

/-- `END` (R196), or an undefined instruction or helper number (R215). -/
def execEndItem (t : Nat) (core : CoreId) (code : Option Nat) (s : State) : Result :=
  s.onDev fun d => coreEnds core code (d.atTime t)

end Sys2Proof.Machine
end

