-- ==== Sys2Proof/Machine/CmdEthernet.lean ====
section
/-! DEFINITION. Commands of the Ethernet ports (R284–R315, R358–R369). -/

namespace Sys2Proof.Machine

/-! ### Meanings -/

/-- `ETH_RX_FRAME` (R288–R297, R313). -/
def execEthRxFrame (t : Nat) (n : EthIx) (frame : EthFrame) (sof : Nat) (short : Bool) (s : State) : Result :=
  s.onDevWith fun sr d => ethReceive n sof frame sr ((d.atTime t).recFalls short)

/-- `TRANSMIT_OPPORTUNITY` (R299–R306, R312). -/
def execTransmitOpportunity (t : Nat) (n : EthIx) (s : State) : Result :=
  s.onDevWith fun sr d => transmitOpportunity n sr (d.atTime t)

/-- `STAMP_REPORT` (R368, R369). -/
def execStampReport (t : Nat) (n : EthIx) (s : State) : Result :=
  s.onDev fun d => let d := d.atTime t; if d.runs then stampReport n d else d

/-- `WINDOW_EDGE` (R302). -/
def execWindowEdge (t : Nat) (n : EthIx) (cls : Fin 3) (s : State) : Result :=
  s.onDev fun d => let d := d.atTime t; if d.runs then windowEdge n cls d else d

/-- `LAUNCH_TIME` (R364). -/
def execLaunchTime (t : Nat) (n : EthIx) (tc : TcIx) (s : State) : Result :=
  s.onDev fun d => let d := d.atTime t; if d.runs then launchTimeComes n tc d else d

/-- `LINK_CHANGE` (R286, R307, R308). -/
def execLinkChange (t : Nat) (n : EthIx) (up plca : Bool) (resolved : Option Nat) (s : State) : Result :=
  s.onDev fun d => linkChange n up plca resolved (d.atTime t)

/-- `PLCA_BEACON` (R311). -/
def execPlcaBeacon (t : Nat) (n : EthIx) (s : State) : Result :=
  s.onDev fun d => plcaBeacon n (d.atTime t)

/-- `PLCA_OPPORTUNITY` (R310). -/
def execPlcaOpportunity (t : Nat) (n : EthIx) (s : State) : Result :=
  s.onDevWith fun sr d => plcaOpportunity n sr (d.atTime t)

/-- `BEACON_LOSS` (R311). -/
def execBeaconLoss (t : Nat) (n : EthIx) (s : State) : Result :=
  s.onDev fun d => beaconLoss n (d.atTime t)

end Sys2Proof.Machine
end

