-- ==== Sys2Proof/Machine/CmdFault.lean ====
section
/-! DEFINITION. Faults, repairs, withdrawals and ledger commands (R625–R657). -/

namespace Sys2Proof.Machine

/-- A detector corrects a fault of a part while the logic die has state (R631). -/
def maskedFault (part cause inst location : Nat) (d : Dev) : Dev :=
  if (d.mode = .run ∨ d.mode = .restart) ∧ isPart part then maskFault part cause inst location d else d

/-- `FAULT_INJECT` with `GO` (R655); a device in FIELD ignores it, and a seal drops the write (R742). -/
def faultInject (port part kind : Nat) (sr : Strongroom) (d : Dev) : Dev :=
  if d.runs ∧ d.served port R.FAULT_INJECT.base then
    if d.sealed then d.bump F.SEAL_DROPS_COUNT
    else injectFault part kind d.sealed (sr.lifecycle == 2) ((d.wr F.FAULT_INJECT_KIND [] kind).wr F.FAULT_INJECT_PART [] part)
  else d

/-! ### Meanings -/

/-- `MASKED_FAULT` (R631, R634–R637). -/
def execMaskedFault (t : Nat) (part cause inst location : Nat) (s : State) : Result :=
  s.onDev fun d => maskedFault part cause inst location (d.atTime t)

/-- `REPAIR` (R634). -/
def execRepair (t : Nat) (s : State) : Result :=
  s.onDev fun d => let d := d.atTime t; if d.runs then repairFirst d else d

/-- `WITHDRAWAL` (R28, R638, R764). -/
def execWithdrawal (t : Nat) (part cause inst location : Nat) (pgLow : Bool) (s : State) : Result :=
  s.onDev fun d => withdrawalFrom part cause inst location pgLow (d.atTime t)

/-- `FAULT_INJECT` (R655). -/
def execFaultInject (t : Nat) (port : HostPort) (part : Fin 256) (kind : Fin 4) (s : State) : Result :=
  s.onDevWith fun sr d => faultInject port part kind sr (d.atTime t)

/-- `PIN` (R647, R654). -/
def execPin (t : Nat) (port : HostPort) (s : State) : Result :=
  s.onDev fun d => let d := d.atTime t; if d.runs then d.ledgerCmd port 1 ledgerPin else d

/-- `UNPIN` (R654). -/
def execUnpin (t : Nat) (port : HostPort) (s : State) : Result :=
  s.onDev fun d => let d := d.atTime t; if d.runs then d.ledgerCmd port 2 ledgerUnpin else d

/-- `CLEAR_OVERFLOW` (R646, R654). -/
def execClearOverflow (t : Nat) (port : HostPort) (s : State) : Result :=
  s.onDev fun d => let d := d.atTime t; if d.runs then d.ledgerCmd port 3 ledgerClear else d

end Sys2Proof.Machine
end

