-- ==== Sys2Proof/Machine/CmdHelper.lean ====
section
/-! DEFINITION. The helper calls of a core (R198–R211, R791, R792). -/

namespace Sys2Proof.Machine

/-! ### Meanings -/

/-- `PKT_READ` (R199). -/
def execPktRead (t : Nat) (core : CoreId) (dst off len : Nat) (s : State) : Result :=
  s.onDev fun d => hPktRead core dst off len (d.atTime t)

/-- `PKT_NEW` (R199, R791). -/
def execPktNew (t : Nat) (core : CoreId) (kind : PktKind) (s : State) : Result :=
  s.onDev fun d => hPktNew core kind (d.atTime t)

/-- `PKT_APPEND` (R199, R791). -/
def execPktAppend (t : Nat) (core : CoreId) (builder src len : Nat) (s : State) : Result :=
  s.onDev fun d => hPktAppend core builder src len (d.atTime t)

/-- `PKT_COMMIT` (R74, R199, R359: `timing` is the address of a timing block). -/
def execPktCommit (t : Nat) (core : CoreId) (builder : Nat) (queue : QueueIx) (timing : Option Nat) (s : State) : Result :=
  s.onDev fun d => hPktCommit core builder queue timing (d.atTime t)

/-- `PKT_FORWARD` (R77, R199). -/
def execPktForward (t : Nat) (core : CoreId) (queue : QueueIx) (s : State) : Result :=
  s.onDev fun d => hPktForward core queue (d.atTime t)

/-- `PKT_EDIT` (R161, R199: the operation stands in data memory at `addr`). -/
def execPktEdit (t : Nat) (core : CoreId) (addr : Nat) (s : State) : Result :=
  s.onDev fun d => hPktEdit core addr (d.atTime t)

/-- `ACF_NEXT` (R139, R165, R199). -/
def execAcfNext (t : Nat) (core : CoreId) (k : Nat) (s : State) : Result :=
  s.onDev fun d => hAcfNext core k (d.atTime t)

/-- `FOLIO_PUT` (R199, R245–R251, R792). -/
def execFolioPut (t : Nat) (core : CoreId) (builder : Option Nat) (ch : CanIx) (folio : FolioIx) (replace : Bool) (s : State) : Result :=
  s.onDev fun d => hFolioPut core builder ch folio replace (d.atTime t)

/-- `FOLIO_STATE` (R199). -/
def execFolioState (t : Nat) (core : CoreId) (ch : CanIx) (folio : FolioIx) (s : State) : Result :=
  s.onDev fun d => hFolioState core ch folio (d.atTime t)

/-- `OUT_CMD` (R199, R497: the command block stands in data memory at `addr`). -/
def execOutCmd (t : Nat) (core : CoreId) (s : State) : Result :=
  s.onDev fun d => hOutCmd core (d.atTime t)

/-- `EVENT` (R199, R418, R791). -/
def execEvent (t : Nat) (core : CoreId) (tenant : Tenant) (addr : Nat) (s : State) : Result :=
  s.onDev fun d => hEvent core tenant addr (d.atTime t)

/-- `REC_TRIGGER` (R111–R115, R199). -/
def execRecTrigger (t : Nat) (core : CoreId) (s : State) : Result :=
  s.onDev fun d => hRecTrigger core (d.atTime t)

/-- `CIPHER` (R199, R607, R608). -/
def execCipher (t : Nat) (core : CoreId) (s : State) : Result :=
  s.onDevWith fun sr d => hCipher core sr (d.atTime t)

/-- `MAC_TX` (R205, R207). -/
def execMacTx (t : Nat) (core : CoreId) (addr buf : Nat) (s : State) : Result :=
  s.onDevWith fun sr d => hMacTx core addr buf sr (d.atTime t)

/-- `MAC_RX` (R206, R207). -/
def execMacRx (t : Nat) (core : CoreId) (addr buf : Nat) (s : State) : Result :=
  s.onDevWith fun sr d => hMacRx core addr buf sr (d.atTime t)

/-- `CAT_READ` (R171, R199). -/
def execCatRead (t : Nat) (core : CoreId) (index dst : Nat) (s : State) : Result :=
  s.onDev fun d => hCatRead core index dst (d.atTime t)

/-- `TP_OPEN` (R209, R211: `ctx` gives the session that the context is opened for). -/
def execTpOpen (t : Nat) (core : CoreId) (ctx : TpCtx) (s : State) : Result :=
  s.onDev fun d => hTpOpen core ctx (d.atTime t)

/-- `TP_DATA` (R210, R211). -/
def execTpData (t : Nat) (core : CoreId) (ctx : TpIx) (s : State) : Result :=
  s.onDev fun d => hTpData core ctx (d.atTime t)

/-- `TP_CLOSE` (R209, R211). -/
def execTpClose (t : Nat) (core : CoreId) (ctx : TpIx) (s : State) : Result :=
  s.onDev fun d => hTpClose core ctx (d.atTime t)

/-- `TP_REPLY` (R211). -/
def execTpReply (t : Nat) (core : CoreId) (ctx : TpIx) (kind : TpReplyKind) (n : Nat) (s : State) : Result :=
  s.onDev fun d => hTpReply core ctx kind n (d.atTime t)

/-- `TP_SEGMENT` (R211). -/
def execTpSegment (t : Nat) (core : CoreId) (ctx : TpIx) (n src : Nat) (queue : QueueIx) (s : State) : Result :=
  s.onDev fun d => hTpSegment core ctx n src queue (d.atTime t)

/-- `TP_ABORT` (R211). -/
def execTpAbort (t : Nat) (core : CoreId) (ctx : TpIx) (s : State) : Result :=
  s.onDev fun d => hTpAbort core ctx (d.atTime t)

/-- `TP_EXPIRED` (R210). -/
def execTpExpired (t : Nat) (fe : FeId) (ctx : TpIx) (s : State) : Result :=
  s.onDev fun d => let d := d.atTime t; if d.runs then tpExpired fe ctx d else d

/-- `TIME_NOW` (R199, R348). -/
def execTimeNow (t : Nat) (core : CoreId) (s : State) : Result :=
  s.onDev fun d => hTimeNow core (d.atTime t)

/-- `SYNC_FEED` (R345–R352). -/
def execSyncFeed (t : Nat) (core : CoreId) (s : State) : Result :=
  s.onDev fun d => hSyncFeed core (d.atTime t)

end Sys2Proof.Machine
end

