-- ==== Sys2Proof/Machine/CmdHost.lean ====
section
/-! DEFINITION. Rings, descriptors and host commands (R383–R425), and table commands (R142, R154, R158). -/

namespace Sys2Proof.Machine

/-- A stream filter is written, by its registers or by a command ring (R317, R331). -/
def writeFilterVia (via : Via) (i : Nat) (w : List Word) (d : Dev) : Dev :=
  match via with
  | .reg port => (([R.SF_CTL, R.SF_MATCH].zip w).foldl (fun d x => d.busWord port (regKey x.1 [i]) x.2.toNat allBits) d)
  | .ring t r => hostCommand t r (fun b => match b with | .stream op k _ => op == 3 && k == i | _ => false) d

/-- A meter is written, by its registers or by a command ring (R318, R331). -/
def writeMeterVia (via : Via) (i : Nat) (w : List Word) (d : Dev) : Dev :=
  match via with
  | .reg port => ((meterRegs.zip w).foldl (fun d x => d.busWord port (regKey x.1 [i]) x.2.toNat allBits) d)
  | .ring t r => hostCommand t r (fun b => match b with | .stream op k _ => op == 4 && k == i | _ => false) d

/-! ### Meanings -/

/-- `WRITE_BACK` (R397, R419). -/
def execWriteBack (t : Nat) (tenant : Tenant) (ring : RingIx) (s : State) : Result :=
  s.onDev fun d => writeBack tenant ring (d.atTime t)

/-- `DOORBELL` (R387, R623). -/
def execDoorbell (t : Nat) (port : HostPort) (tenant : Tenant) (ring : RingIx) (index : Fin 65536) (s : State) : Result :=
  s.onDev fun d => doorbell port tenant ring index false (d.atTime t)

/-- `DOORBELL_ARM` (R419). -/
def execDoorbellArm (t : Nat) (port : HostPort) (tenant : Tenant) (ring : RingIx) (s : State) : Result :=
  s.onDev fun d => doorbell port tenant ring 0 true (d.atTime t)

/-- `RING_RESET` (R423). -/
def execRingReset (t : Nat) (port : HostPort) (tenant : Tenant) (ring : RingIx) (enable : Bool) (s : State) : Result :=
  s.onDev fun d => ringReset port tenant ring enable (d.atTime t)

/-- `HOST_PORT_RESET` (R422, R737). -/
def execHostPortReset (t : Nat) (port : HostPort) (linkDown perst : Bool) (s : State) : Result :=
  s.onDev fun d => portReset port linkDown perst (d.atTime t)

/-- `DESCRIPTOR_FETCH` (R389–R394, R399; `item` is what the host has written in the ring's next slots and in the buffers they name). -/
def execDescriptorFetch (t : Nat) (tenant : Tenant) (ring : RingIx) (item : HostRead) (s : State) : Result :=
  s.onDev fun d => fetchItem tenant ring item (d.atTime t)

/-- `TX_FRAME` (R360, R401, R402). -/
def execTxFrame (t : Nat) (tenant : Tenant) (ring : RingIx) (s : State) : Result :=
  s.onDev fun d => txFrame tenant ring (d.atTime t)

/-- `TX_FOLIO` (R403). -/
def execTxFolio (t : Nat) (tenant : Tenant) (ring : RingIx) (s : State) : Result :=
  s.onDev fun d => txFolio tenant ring (d.atTime t)

/-- `CANCEL` (R404). -/
def execCancel (t : Nat) (tenant : Tenant) (ring : RingIx) (s : State) : Result :=
  s.onDev fun d => cancelItem tenant ring (d.atTime t)

/-- `RX_BUF` (R405). -/
def execRxBuf (t : Nat) (tenant : Tenant) (ring : RingIx) (slot : List Byte) (s : State) : Result :=
  s.onDev fun d => postBuffer tenant ring slot (d.atTime t)

/-- `OUT_CMD_DESCRIPTOR` (R406, R492). -/
def execOutCmdDescriptor (t : Nat) (tenant : Tenant) (ring : RingIx) (s : State) : Result :=
  s.onDev fun d => outCmdItem tenant ring (d.atTime t)

/-- `REC_TRIGGER_COMMAND` (R114). -/
def execRecTriggerCommand (t : Nat) (tenant : Tenant) (ring : RingIx) (s : State) : Result :=
  s.onDev fun d => hostCommand tenant ring (fun b => match b with | .recTrigger => true | _ => false) (d.atTime t)

/-- `REC_READOUT` (R118, R119). -/
def execRecReadout (t : Nat) (tenant : Tenant) (ring : RingIx) (s : State) : Result :=
  s.onDev fun d => hostCommand tenant ring (fun b => match b with | .recReadout _ _ _ _ => true | _ => false) (d.atTime t)

/-- `REC_RELEASE` (R120). -/
def execRecRelease (t : Nat) (tenant : Tenant) (ring : RingIx) (s : State) : Result :=
  s.onDev fun d => hostCommand tenant ring (fun b => match b with | .recRelease _ => true | _ => false) (d.atTime t)

/-- `TABLE` (R158). -/
def execTable (t : Nat) (tenant : Tenant) (ring : RingIx) (s : State) : Result :=
  s.onDev fun d => hostCommand tenant ring (fun b => match b with | .table _ _ _ _ _ => true | _ => false) (d.atTime t)

/-- `INDIRECT` (R169). -/
def execIndirect (t : Nat) (tenant : Tenant) (ring : RingIx) (s : State) : Result :=
  s.onDev fun d => hostCommand tenant ring (fun b => match b with | .indirect _ _ _ => true | _ => false) (d.atTime t)

/-- `CLEAR_BLOCKED` (R317). -/
def execClearBlocked (t : Nat) (tenant : Tenant) (ring : RingIx) (s : State) : Result :=
  s.onDev fun d => hostCommand tenant ring (fun b => match b with | .stream op _ _ => op == 1 | _ => false) (d.atTime t)

/-- `CLEAR_RED_LATCH` (R319). -/
def execClearRedLatch (t : Nat) (tenant : Tenant) (ring : RingIx) (s : State) : Result :=
  s.onDev fun d => hostCommand tenant ring (fun b => match b with | .stream op _ _ => op == 2 | _ => false) (d.atTime t)

/-- `WRITE_FILTER` (R317, R331: by command, or by a write of the filter's registers through a port). -/
def execWriteFilter (t : Nat) (via : Via) (index : FilterIx) (words : List Word) (s : State) : Result :=
  s.onDev fun d => writeFilterVia via index words (d.atTime t)

/-- `WRITE_METER` (R318, R331). -/
def execWriteMeter (t : Nat) (via : Via) (index : MeterIx) (words : List Word) (s : State) : Result :=
  s.onDev fun d => writeMeterVia via index words (d.atTime t)

/-- `INSTALL_TRANSMIT_SA` (R609). -/
def execInstallTransmitSa (t : Nat) (tenant : Tenant) (ring : RingIx) (s : State) : Result :=
  s.onDev fun d => hostCommand tenant ring (fun b => match b with | .macsec _ op _ _ _ => op == 1 | _ => false) (d.atTime t)

/-- `INSTALL_RECEIVE_SA` (R609). -/
def execInstallReceiveSa (t : Nat) (tenant : Tenant) (ring : RingIx) (s : State) : Result :=
  s.onDev fun d => hostCommand tenant ring (fun b => match b with | .macsec _ op _ _ _ => op == 2 | _ => false) (d.atTime t)

/-- `REMOVE_SA` (R328). -/
def execRemoveSa (t : Nat) (tenant : Tenant) (ring : RingIx) (s : State) : Result :=
  s.onDev fun d => hostCommand tenant ring (fun b => match b with | .macsec _ op _ _ _ => op == 3 | _ => false) (d.atTime t)

/-- `SET_TX_AN` (R323). -/
def execSetTxAn (t : Nat) (tenant : Tenant) (ring : RingIx) (s : State) : Result :=
  s.onDev fun d => hostCommand tenant ring (fun b => match b with | .macsec _ op _ _ _ => op == 4 | _ => false) (d.atTime t)

/-- `ADD_RECEIVE_CHANNEL` (R328). -/
def execAddReceiveChannel (t : Nat) (tenant : Tenant) (ring : RingIx) (s : State) : Result :=
  s.onDev fun d => hostCommand tenant ring (fun b => match b with | .macsec _ op _ _ _ => op == 5 | _ => false) (d.atTime t)

/-- `REMOVE_RECEIVE_CHANNEL` (R328). -/
def execRemoveReceiveChannel (t : Nat) (tenant : Tenant) (ring : RingIx) (s : State) : Result :=
  s.onDev fun d => hostCommand tenant ring (fun b => match b with | .macsec _ op _ _ _ => op == 6 | _ => false) (d.atTime t)

/-- `TBL_WRITE_OR_INSERT` (R154, R158). -/
def execTblWriteOrInsert (t : Nat) (port : HostPort) (table : Fin 16) (index : Nat) (s : State) : Result :=
  s.onDev fun d => (d.atTime t).byRegister port R.TBL_CMD.base fun d => tblCommand table 1 index d

/-- `TBL_READ_OR_LOOKUP` (R154, R158). -/
def execTblReadOrLookup (t : Nat) (port : HostPort) (table : Fin 16) (index : Nat) (s : State) : Result :=
  s.onDev fun d => (d.atTime t).byRegister port R.TBL_CMD.base fun d => tblCommand table 2 index d

/-- `TBL_INVALIDATE_OR_DELETE` (R154, R158). -/
def execTblInvalidateOrDelete (t : Nat) (port : HostPort) (table : Fin 16) (index : Nat) (s : State) : Result :=
  s.onDev fun d => (d.atTime t).byRegister port R.TBL_CMD.base fun d => tblCommand table 3 index d

/-- `RECEIVE_DELIVERY` (R405, R409–R413). -/
def execReceiveDelivery (t : Nat) (tenant : Tenant) (ring : RingIx) (s : State) : Result :=
  s.onDev fun d => receiveDelivery tenant ring (d.atTime t)

/-- `RING_STARVED` (R412, R413). -/
def execRingStarved (t : Nat) (tenant : Tenant) (ring : RingIx) (s : State) : Result :=
  s.onDev fun d => ringStarved tenant ring (d.atTime t)

/-- `DMA_TIMEOUT` (R420, R441: `since` is the instant at which the read was issued; `payload` says that it was a payload read of the item in hand). -/
def execDmaTimeout (t : Nat) (tenant : Tenant) (ring : RingIx) (since : Nat) (payload : Bool) (s : State) : Result :=
  s.onDev fun d => dmaTimeout tenant ring since payload (d.atTime t)

/-- `HOST_PORT_LINK_UP` (R422, R448). -/
def execHostPortLinkUp (t : Nat) (port : HostPort) (s : State) : Result :=
  s.onDev fun d => portLinkUp port (d.atTime t)

end Sys2Proof.Machine
end

