-- ==== Sys2Proof/Machine/CmdLin.lean ====
section
/-! DEFINITION. Commands of the LIN controllers (R266–R283, R535). -/

namespace Sys2Proof.Machine

/-- A table switch, by `LIN_SCHED.REQUEST` or by a command ring (R274). -/
def tableSwitchVia (via : Via) (ch table : Nat) (d : Dev) : Dev :=
  match via with
  | .reg port => d.byRegister port (regKey R.LIN_SCHED [ch]) (requestTable ch table)
  | .ring t r =>
    hostCommand t r (fun b => match b with | .channel res op k => linOf res == some ch && op == 2 && k == table | _ => false) d

/-! ### Meanings -/

/-- `LIN_WAKE_REPEAT` (R535). -/
def execLinWakeRepeat (t : Nat) (ch : LinIx) (s : State) : Result :=
  s.onDev fun d => linWakeRepeat ch (d.atTime t)

/-- `LIN_SLOT` (R271–R274). -/
def execLinSlot (t : Nat) (ch : LinIx) (s : State) : Result :=
  s.onDev fun d => linSlot ch (d.atTime t)

/-- `LIN_RESPONSE` (R270, R272, R277–R279). -/
def execLinResponse (t : Nat) (ch : LinIx) (resp : LinResp) (short : Bool) (s : State) : Result :=
  s.onDev fun d => linResponse ch resp ((d.atTime t).recFalls short)

/-- `LIN_HEADER` (R269, R275, R276; a break of `brkLen` ns that began at `brk`, a measured bit time of `bit` ns). -/
def execLinHeader (t : Nat) (ch : LinIx) (pid : Byte) (brkLen bit brk : Nat) (s : State) : Result :=
  s.onDev fun d => linHeader ch pid.toNat brkLen bit brk (d.atTime t)

/-- `LIN_PUBLISH_UPDATE` (R268, R281). -/
def execLinPublishUpdate (t : Nat) (ch : LinIx) (s : State) : Result :=
  s.onDev fun d => linPublishUpdate ch (d.atTime t)

/-- `LIN_TABLE_SWITCH` (R274). -/
def execLinTableSwitch (t : Nat) (via : Via) (ch : LinIx) (table : Fin 4) (s : State) : Result :=
  s.onDev fun d => tableSwitchVia via ch table (d.atTime t)

end Sys2Proof.Machine
end

