-- ==== Sys2Proof/Machine/CmdLive.lean ====
section
/-! DEFINITION. Live service (R67–R70, R696–R726). -/

namespace Sys2Proof.Machine

/-! ### Meanings -/

/-- `LENGTH_CHANGE_SWITCH` (R70). -/
def execLengthChangeSwitch (t : Nat) (s : State) : Result :=
  s.onDevWith fun sr d => lengthSwitched sr (d.atTime t)

/-- `STORE` (R697: `image` is what the DMA read gave, nothing where it failed). -/
def execStore (t : Nat) (port : HostPort) (fields : LsFields) (image : Option (List Byte)) (s : State) : Result :=
  s.onDev fun d => liveStore port fields image (d.atTime t)

/-- `VERIFY` (R703). -/
def execVerify (t : Nat) (port : HostPort) (fields : LsFields) (s : State) : Result :=
  s.onDevWith fun sr d => liveVerify port fields sr (d.atTime t)

/-- `ACTIVATE` (R706–R718). -/
def execActivate (t : Nat) (port : HostPort) (fields : LsFields) (s : State) : Result :=
  s.onDev fun d => liveActivate port fields (d.atTime t)

/-- `ABORT` (R704). -/
def execAbort (t : Nat) (port : HostPort) (fields : LsFields) (s : State) : Result :=
  s.onDev fun d => liveAbort port fields (d.atTime t)

/-- `QUIESCE` (R720). -/
def execQuiesce (t : Nat) (port : HostPort) (fields : LsFields) (s : State) : Result :=
  s.onDev fun d => liveQuiesce port fields (d.atTime t)

/-- `RESUME` (R720). -/
def execResume (t : Nat) (port : HostPort) (fields : LsFields) (s : State) : Result :=
  s.onDev fun d => liveResume port fields (d.atTime t)

/-- `LENGTH` (R70). -/
def execLength (t : Nat) (port : HostPort) (fields : LsFields) (s : State) : Result :=
  s.onDev fun d => liveLength port fields (d.atTime t)

/-- `APPLY_BOUNDARY` (R702). -/
def execApplyBoundary (t : Nat) (s : State) : Result :=
  s.onDevWith fun sr d => applied sr (d.atTime t)

end Sys2Proof.Machine
end

