-- ==== Sys2Proof/Machine/CmdPair.lean ====
section
/-! DEFINITION. The companion and its link (R658–R694). -/

namespace Sys2Proof.Machine

/-! ### Meanings -/

/-- `HELLO` (R668, R669). -/
def execHello (t : Nat) (hello : Hello) (latency : Nat) (s : State) : Result :=
  s.onBoth fun x => helloReceived hello latency (x.1.atTime t, x.2)

/-- `LINK_FRAME` (R663–R665). -/
def execLinkFrame (t : Nat) (frame : LinkFrame) (s : State) : Result :=
  s.onBoth fun x => linkFrame frame (x.1.atTime t, x.2)

/-- `RETRANSMIT` (R665). -/
def execRetransmit (t : Nat) (s : State) : Result :=
  s.onDev fun d => retransmit (d.atTime t)

/-- `LINK_LOST` (R665). -/
def execLinkLost (t : Nat) (lane0 lane1 : Bool) (s : State) : Result :=
  s.onDev fun d => linkLost lane0 lane1 (d.atTime t)

/-- `HEARTBEAT_CHANGE` (R661: 0 absent, 1 present, 2 parked). -/
def execHeartbeatChange (t : Nat) (level : Fin 3) (s : State) : Result :=
  s.onDev fun d => heartbeatChange level (d.atTime t)

/-- `SOLO_WAIT` (R668). -/
def execSoloWait (t : Nat) (s : State) : Result :=
  s.onDev fun d => soloWait (d.atTime t)

/-- `WITHDRAWAL_NOTICE` (R682; `t0` is the companion's withdrawal instant in whole ns of TD0). -/
def execWithdrawalNotice (t : Nat) (acc t0 : Nat) (s : State) : Result :=
  s.onDev fun d => withdrawalNotice acc t0 (d.atTime t)

/-- `TAKEOVER` (R682–R685). -/
def execTakeover (t : Nat) (s : State) : Result :=
  s.onDev fun d => takeoverNow (d.atTime t)

/-- `YIELDS` (R687). -/
def execYields (t : Nat) (s : State) : Result :=
  s.onDev fun d => yieldsNow (d.atTime t)

/-- `RESYNCHRONISATION_COMPLETE` (R689). -/
def execResynchronisationComplete (t : Nat) (s : State) : Result :=
  s.onDevWith fun r d => resyncComplete r (d.atTime t)

/-- `DEPARTURE` (R675). -/
def execDeparture (t : Nat) (queue tally : Nat) (s : State) : Result :=
  s.onDev fun d => let d := d.atTime t; if d.runs then departure queue tally d else d

/-- `GAP_FILL` (R674). -/
def execGapFill (t : Nat) (s : State) : Result :=
  s.onDev fun d => gapFill (d.atTime t)

end Sys2Proof.Machine
end

