-- ==== Sys2Proof/Machine/CmdPark.lean ====
section
/-! DEFINITION. Switch inputs, sleep and wakes (R511–R548). -/

namespace Sys2Proof.Machine

/-- The commit of sleep: a live-service command that has not applied completes CANCELLED (R540, R723) (DEDUCED, log entry 80). -/
def sleepCommitLive (d : Dev) : Dev :=
  let e := sleepCommit d
  if e.park.committed && !d.park.committed then e.liveDone 0x40 0 0 else e

/-! ### Meanings -/

/-- `SLEEP_COMMIT` (R540). -/
def execSleepCommit (t : Nat) (s : State) : Result :=
  s.onDev fun d => sleepCommitLive (d.atTime t)

/-- `PARK_ENTRY` (R540). -/
def execParkEntry (t : Nat) (s : State) : Result :=
  s.onDev fun d => parkEntry (d.atTime t)

/-- `WAKE_LATCH` (R531, R538, R542). -/
def execWakeLatch (t : Nat) (source : WakeSource) (s : State) : Result :=
  s.onDev fun d => wakeLatch source (d.atTime t)

/-- `PARK_POLL` (R532: `levels` lists the inputs that read active). -/
def execParkPoll (t : Nat) (levels : List Nat) (s : State) : Result :=
  s.onDev fun d => parkPoll levels (d.atTime t)

/-- `PARK_TIMER` (R536). -/
def execParkTimer (t : Nat) (s : State) : Result :=
  s.onDev fun d => parkTimer (d.atTime t)

/-- `DEBOUNCED_CHANGE` (R515–R517, R526, R532; the levels of the input's raw samples up to `t`). -/
def execDebouncedChange (t : Nat) (sw : InputIx) (levels : List (Nat × Nat)) (s : State) : Result :=
  s.onDev fun d => debounceInput sw levels (d.atTime t)

/-- `CHATTER` (R519; the levels of the input's raw samples up to `t`). -/
def execChatter (t : Nat) (sw : InputIx) (levels : List (Nat × Nat)) (s : State) : Result :=
  s.onDev fun d => chatterEnter sw levels (d.atTime t)

/-- `CHATTER_EXIT` (R519; the levels of the input's raw samples up to `t`). -/
def execChatterExit (t : Nat) (sw : InputIx) (levels : List (Nat × Nat)) (s : State) : Result :=
  s.onDev fun d => chatterExit sw levels (d.atTime t)

/-- `STUCK` (R520). -/
def execStuck (t : Nat) (sw : InputIx) (s : State) : Result :=
  s.onDev fun d => stuckEnter sw (d.atTime t)

/-- `INPUT_SAMPLE` (R522, R524). -/
def execInputSample (t : Nat) (die : DieIx) (group : Fin 12) (short : Bool) (s : State) : Result :=
  s.onDev fun d => inputSample die group ((d.atTime t).recFalls short)

end Sys2Proof.Machine
end

