-- ==== Sys2Proof/Machine/CmdProtect.lean ====
section
/-! DEFINITION. What the power dies do by themselves (R460–R475, R498–R507). -/

namespace Sys2Proof.Machine

/-! ### Meanings -/

/-- `SHORT_TRIP` (R464: the start of the short, the current in mA and the energy charged, in µJ). -/
def execShortTrip (t : Nat) (ch : ChanIx) (since ma uj : Nat) (s : State) : Result :=
  s.onDev fun d => (d.atTime t).onDie fun d => shortTrip ch since ma uj d

/-- `OVERCURRENT_TRIP` (R465). -/
def execOvercurrentTrip (t : Nat) (ch : ChanIx) (ma since : Nat) (s : State) : Result :=
  s.onDev fun d => (d.atTime t).onDie fun d => overcurrentTrip ch ma since d

/-- `INRUSH_WINDOW_END` (R466). -/
def execInrushWindowEnd (t : Nat) (ch : ChanIx) (limited : Bool) (ma uj : Nat) (s : State) : Result :=
  s.onDev fun d => (d.atTime t).onDie fun d => inrushEnds ch limited ma uj d

/-- `TEMPERATURE_TRIP` (R467). -/
def execTemperatureTrip (t : Nat) (ch : ChanIx) (ma uj : Nat) (s : State) : Result :=
  s.onDev fun d => (d.atTime t).onDie fun d => tripChan ch 4 ma uj d

/-- `RETRY` (R469). -/
def execRetry (t : Nat) (ch : ChanIx) (temp : Int) (s : State) : Result :=
  s.onDev fun d => (d.atTime t).onDie fun d => retryChan ch temp d

/-- `FW_FAULT` (R472). -/
def execFwFault (t : Nat) (ch : ChanIx) (s : State) : Result :=
  s.onDev fun d => (d.atTime t).onDie fun d => fwFault ch d

/-- `OPEN_LOAD` (R473). -/
def execOpenLoad (t : Nat) (ch : ChanIx) (s : State) : Result :=
  s.onDev fun d => (d.atTime t).onDie fun d => openLoad ch d

/-- `OFF_FAULT` (R473). -/
def execOffFault (t : Nat) (ch : ChanIx) (high : Bool) (s : State) : Result :=
  s.onDev fun d => (d.atTime t).onDie fun d => offFault ch high d

/-- `HOLD` (R502). -/
def execHold (t : Nat) (die : DieIx) (s : State) : Result :=
  s.onDev fun d => (d.atTime t).onDie fun d => holdDie die d

/-- `HOLD_WINDOW_END` (R504). -/
def execHoldWindowEnd (t : Nat) (ch : ChanIx) (s : State) : Result :=
  s.onDev fun d => (d.atTime t).onDie fun d => holdWindowEnd ch d

/-- `CRANK` (R500, R517). -/
def execCrank (t : Nat) (die : DieIx) (below : Bool) (s : State) : Result :=
  s.onDev fun d => (d.atTime t).onDie fun d => crankInputs die below d

/-- `LOW_SEEN` (R501, R766). -/
def execLowSeen (t : Nat) (die : DieIx) (below : Bool) (mv : Nat) (s : State) : Result :=
  s.onDev fun d => lowSeen die below mv (d.atTime t)

/-- `RESERVOIR_EXHAUSTED` (R501). -/
def execReservoirExhausted (t : Nat) (die : DieIx) (s : State) : Result :=
  s.onDev fun d => reservoirOut die (d.atTime t)

end Sys2Proof.Machine
end

