-- ==== Sys2Proof/Machine/CmdStrongroom.lean ====
section
/-! DEFINITION. Key-update and lifecycle messages, their commit, and what follows it (R565–R595). -/

namespace Sys2Proof.Machine

/-- `SR_CMD` takes the fields of a command given through a page that answers the port (R593). -/
def Dev.srFields (d : Dev) (port page op len : Nat) (pair : Bool) : Dev :=
  if d.runs ∧ d.mailOk port page then
    ((d.wr F.SR_CMD_LENGTH [page] len).wr F.SR_CMD_PAIR [page] pair.toNat).wr F.SR_CMD_CMD [page] op
  else d

/-- A submission through a mailbox page, where the page answers the port (R593). -/
def submitVia (port page len : Nat) (x : WithSr) : WithSr :=
  if x.1.runs ∧ x.1.mailOk port page then submitMsg page (len % 512) x else x

/-- A replay of a kept proof reply through a mailbox page. -/
def replayVia (port page : Nat) (pair : Bool) (x : WithSr) : WithSr :=
  if x.1.runs ∧ x.1.mailOk port page then replayProof page pair x else x

/-- The commit boundary (R582); an image verified with a signer that the commit rewrites is no longer verified (R724). -/
def keyCommitNow (x : WithSr) : WithSr :=
  if x.1.runs ∧ x.1.now = x.1.tickStart then
    let y := keyCommit x
    (y.1.signersChanged x.2 y.2, y.2)
  else x

/-! ### Meanings -/

/-- `SUBMIT` (R569–R573, R593: the message staged in the mailbox page). -/
def execSubmit (t : Nat) (port : HostPort) (page : HostPort) (len : Nat) (s : State) : Result :=
  s.onBoth fun x => submitVia port page len ((x.1.atTime t).srFields port page 1 (len % 512) false, x.2)

/-- `REPLAY_PROOF` (R576). -/
def execReplayProof (t : Nat) (port : HostPort) (page : HostPort) (pair : Bool) (s : State) : Result :=
  s.onBoth fun x => replayVia port page pair ((x.1.atTime t).srFields port page 2 0 pair, x.2)

/-- `KEY_COMMIT_BOUNDARY` (R579–R582). -/
def execKeyCommitBoundary (t : Nat) (s : State) : Result :=
  s.onBoth fun x => keyCommitNow (x.1.atTime t, x.2)

/-- `SCRUB` (R584). -/
def execScrub (t : Nat) (slot : Nat) (s : State) : Result :=
  s.onDev fun d => let d := d.atTime t; if d.runs then scrubSlot slot d else d

/-- `BACKOFF_EXPIRY` (R572, R621). -/
def execBackoffExpiry (t : Nat) (tenant : Option Tenant) (s : State) : Result :=
  s.onDev fun d => let d := d.atTime t; if d.runs then backoffExpiry (tenant.map (·.val)) d else d

end Sys2Proof.Machine
end

