-- ==== Sys2Proof/Machine/CmdTime.lean ====
section
/-! DEFINITION. Commands of the time domains (R340, R351–R356). -/

namespace Sys2Proof.Machine

/-- The set command, in a register or by a command ring (R352). -/
def setTimeVia (via : Via) (dom : Nat) (d : Dev) : Dev :=
  match via with
  | .reg port =>
    d.byRegister port (regKey R.TD_CMD [dom]) fun d =>
      d.giveSet dom (d.rd F.TD_SET_SEC_LO_SET [dom] + 4294967296 * d.rd F.TD_SET_SEC_HI_SET [dom]) (d.rd F.TD_SET_NS_SET [dom])
  | .ring t r => hostCommand t r (fun b => match b with | .time i op _ _ => i == dom && op == 1 | _ => false) d

/-- The accept-step command (R351). -/
def acceptStepVia (via : Via) (dom : Nat) (d : Dev) : Dev :=
  match via with
  | .reg port => d.byRegister port (regKey R.TD_CMD [dom]) (·.giveAccept dom)
  | .ring t r => hostCommand t r (fun b => match b with | .time i op _ _ => i == dom && op == 2 | _ => false) d

/-! ### Meanings -/

/-- `OCCULTATION`, at a boundary (R353–R356). -/
def execOccultation (t : Nat) (dom : TimeDom) (s : State) : Result :=
  s.onDev fun d => let d := d.atTime t; if d.runs && d.now == d.tickStart && d.tdRuns dom then occultDomain dom d else d

/-- `SET` (R352). -/
def execSetTime (t : Nat) (via : Via) (dom : TimeDom) (s : State) : Result :=
  s.onDev fun d => setTimeVia via dom (d.atTime t)

/-- `ACCEPT_STEP` (R351). -/
def execAcceptStep (t : Nat) (via : Via) (dom : TimeDom) (s : State) : Result :=
  s.onDev fun d => acceptStepVia via dom (d.atTime t)

end Sys2Proof.Machine
end

