-- ==== Sys2Proof/Machine/CmdTransit.lean ====
section
/-! DEFINITION. The transit, dispatch, and the queues' and the classifier's own work (R33–R66, R100, R113, R128, R178, R193, R486, R487, R671). -/

namespace Sys2Proof.Machine

/-- The packet that has waited longest for the pipeline passes it (R128). -/
def classifyNext (d : Dev) : Dev :=
  match d.toClassify with
  | [] => d
  | h :: _ => if d.runs then classifyPkt h d else d

/-! ### Meanings -/

/-- `TRANSIT_BOUNDARY` (R33–R39 and the boundary work of every block; `sensed` is what the power dies measured). -/
def execTransitBoundary (t : Nat) (sensed : Sensed) (s : State) : Result :=
  s.onDevWith fun sr d => transitBoundary t sensed sr d

/-- `LATCH_CUT` (R486, R671, R673: `bytes` is the length of the transit's mirror delta). -/
def execLatchCut (t : Nat) (bytes : Nat) (s : State) : Result :=
  s.onDev fun d => latchCut bytes (d.atTime t)

/-- `DELTA_COMPLETE` (R630, R671). -/
def execDeltaComplete (t : Nat) (s : State) : Result :=
  s.onDev fun d => deltaComplete (d.atTime t)

/-- `COMMIT_STROBE` (R487). -/
def execCommitStrobe (t : Nat) (short : Bool) (s : State) : Result :=
  s.onDev fun d => commitStrobe ((d.atTime t).recFalls short)

/-- `DISPATCH` (R193). -/
def execDispatch (t : Nat) (core : CoreId) (s : State) : Result :=
  s.onDev fun d => dispatchCore core (carryCore core (d.atTime t))

/-- `CARRY_OVER` (R62, R63). -/
def execCarryOver (core : CoreId) (s : State) : Result :=
  s.onDev fun d => if d.runs then carryCore core d else d

/-- `REFILL` (R100). -/
def execRefill (t : Nat) (queue : QueueIx) (s : State) : Result :=
  s.onDev fun d => let d := d.atTime t; if d.runs then refillQueue queue d else d

/-- `SPAN_CLOSE` (R113). -/
def execSpanClose (t : Nat) (s : State) : Result :=
  s.onDev fun d => closeSpans (d.atTime t)

/-- `CLASSIFICATION` (R128: the packet that committed first). -/
def execClassification (t : Nat) (s : State) : Result :=
  s.onDev fun d => classifyNext (d.atTime t)

/-- `LIVENESS_TIMEOUT` (R178). -/
def execLivenessTimeout (t : Nat) (index : CatIx) (s : State) : Result :=
  s.onDev fun d => let d := d.atTime t; if d.runs then checkLive index d else d

end Sys2Proof.Machine
end

