-- ==== Sys2Proof/Machine/CmdWrite.lean ====
section
/-! DEFINITION. Inbound writes: each word is stored as its register shell stores it, and a command that it gives acts (R12, R446, R447, R741–R748). -/

namespace Sys2Proof.Machine

/-- A command of `LS_CMD` with `GO` (R725), its fields as the register holds them after the write; `image` is what the DMA read
of a STORE gives. -/
def liveWord (port : Nat) (image : Option (List Byte)) (x : WithSr) : WithSr :=
  let d := x.1
  let f : LsFields :=
    { pair := d.on F.LS_CMD_PAIR, carry := d.on F.LS_CMD_CARRY, withAlm := d.on F.LS_CMD_WITH_ALMANAC,
      kind := d.rd F.LS_CMD_KIND, target := d.rd F.LS_CMD_TARGET }
  (match d.rd F.LS_CMD_OP with
    | 1 => liveStore port f image d
    | 2 => liveVerify port f x.2 d
    | 3 => liveActivate port f d
    | 4 => liveAbort port f d
    | 5 => liveQuiesce port f d
    | 6 => liveResume port f d
    | 7 => liveLength port f d
    | op => liveOther port op f d, x.2)

/-- A command of `SR_CMD` with `GO` through a mailbox page (R593). -/
def srWord (port page : Nat) (x : WithSr) : WithSr :=
  match x.1.rd F.SR_CMD_CMD [page] with
  | 1 => submitVia port page (x.1.rd F.SR_CMD_LENGTH [page]) x
  | 2 => replayVia port page (x.1.on F.SR_CMD_PAIR [page]) x
  | _ => (if x.1.mailOk port page then x.1.srRefuse page 0x01 else x.1, x.2)

/-- A command of `LEDGER_CMD` with `GO` (R654). -/
def ledgerWord (port : Nat) (d : Dev) : Dev :=
  match d.rd F.LEDGER_CMD_OP with
  | 1 => d.ledgerCmd port 1 ledgerPin
  | 2 => d.ledgerCmd port 2 ledgerUnpin
  | 3 => d.ledgerCmd port 3 ledgerClear
  | op => d.ledgerCmd port op fun d _ => (0x12, d)

/-- The command that a word of an inbound write gives, once the word is stored (R741): `v` are its bits under its byte enables
`mask`. -/
def goWord (port a v mask : Nat) (image : Option (List Byte)) (x : WithSr) : WithSr :=
  let d := x.1
  let on (f : Dev → Dev) : WithSr := (f d, x.2)
  if !d.runs ∨ !d.served port a ∨ (d.sealed && sealedOff a) then x
  else
    match regAt (d.place a) with
    | none => x
    | some (r, ix) =>
      let i := ix.getD 0 0
      if r.isOne [R.SR_CMD] then if bitAt v 31 then srWord port i x else x
      else if r.isOne [R.LS_CMD] then if bitAt v 31 then liveWord port image x else x
      else if r.isOne [R.TBL_CMD] then
        if bitAt v 31 then on (tblCommand (d.rd F.TBL_CMD_TABLE) (d.rd F.TBL_CMD_OP) (d.rd F.TBL_CMD_INDEX)) else x
      else if r.isOne [R.LEDGER_CMD] then if bitAt v 31 then on (ledgerWord port) else x
      else if r.isOne [R.TD_CMD] then
        let d := if bitAt v 31 then setTimeVia (.reg (.ofNat 4 port)) i d else d
        (if bitAt v 30 then acceptStepVia (.reg (.ofNat 4 port)) i d else d, x.2)
      else if r.isOne [R.CAN_CMD] then if bitAt v 31 then on (recoverCan i) else x
      else if r.isOne [R.LIN_SCHED] then
        let k := d.rd F.LIN_SCHED_REQUEST [i]
        if bitAt mask 8 then on (requestWritten i k) else x
      else if r.isOne [R.FAULT_INJECT] then
        if bitAt v 31 then on (injectFault (d.rd F.FAULT_INJECT_PART) (d.rd F.FAULT_INJECT_KIND) d.sealed (x.2.lifecycle == 2)) else x
      else if r.isOne [R.DEV_RESET] then on (devReset port v)
      else x

/-- The words of an inbound write in ascending order (R447), each stored and then acted on. -/
def writeWords (port : Nat) (image : Option (List Byte)) : Nat → List (Word × Nat) → WithSr → WithSr
  | _, [], x => x
  | a, w :: r, x =>
    let m := enabledBits w.2
    writeWords port image (a + 4) r (goWord port a (w.1.toNat &&& m) m image (x.1.busWord port a w.1.toNat m, x.2))

/-- An inbound write (R12, R446, R447, R741) (DESIGN CHOICE, log entry 42). -/
def registerWrite (port a : Nat) (w : List (Word × Nat)) (image : Option (List Byte)) (x : WithSr) : WithSr :=
  if x.1.mode = .halted ∨ x.1.mode = .park ∨ x.1.mode = .bootHeld ∨ (port < 4 ∧ !x.1.barsOn port) ∨ !requestOk a w.length ∨ (x.1.writeWaits a w.length).isSome then (busWrite port a w x.1, x.2)
  else writeWords port image a w x

/-! ### Meanings -/

/-- `SEAL` (R742: a write of `SEAL` with the later words of its request, each with its byte enables). -/
def execSealSetup (t : Nat) (port : HostPort) (key : Word) (later : List (Word × Nat)) (s : State) : Result :=
  s.onBoth fun x => registerWrite port R.SEAL.base ((key, 15) :: later) none (x.1.atTime t, x.2)

/-- `REGISTER_WRITE` (R12, R446, R447, R741: an inbound write, each word with its byte enables; `image` is what a DMA read that the write starts gives). -/
def execRegisterWrite (t : Nat) (port : HostPort) (addr : Nat) (words : List (Word × Nat)) (image : Option (List Byte)) (s : State) : Result :=
  s.onBoth fun x => registerWrite port addr words image (x.1.atTime t, x.2)

end Sys2Proof.Machine
end

