-- ==== Sys2Proof/Machine/Dispatch.lean ====
section
/-! DEFINITION. The effect of a command: one arm per constructor, each one call of that command's meaning. -/

namespace Sys2Proof.Machine

def exec (i : Instr) (s : State) : Host.Outcome State Fault Refusal :=
  match i with
  | .powerOnReset sideB memOk pg => Sys2Proof.Machine.execPowerOnReset sideB memOk pg s
  | .externalReset t held => Sys2Proof.Machine.execExternalReset t held s
  | .devReset t port key => Sys2Proof.Machine.execDevReset t port key s
  | .sealSetup t port key later => Sys2Proof.Machine.execSealSetup t port key later s
  | .registerWrite t port addr words image => Sys2Proof.Machine.execRegisterWrite t port addr words image s
  | .sideEffectRead t reader addr words => Sys2Proof.Machine.execSideEffectRead t reader addr words s
  | .readDelivery t reader serial => Sys2Proof.Machine.execReadDelivery t reader serial s
  | .transitCountLo t port => Sys2Proof.Machine.execTransitCountLo t port s
  | .tdNowSecLo t port dom => Sys2Proof.Machine.execTdNowSecLo t port dom s
  | .rxOctets t port n tx => Sys2Proof.Machine.execRxOctets t port n tx s
  | .srCommitLo t port page => Sys2Proof.Machine.execSrCommitLo t port page s
  | .accNowLo t port => Sys2Proof.Machine.execAccNowLo t port s
  | .faultLastLo t port => Sys2Proof.Machine.execFaultLastLo t port s
  | .pairTakeoverLo t port => Sys2Proof.Machine.execPairTakeoverLo t port s
  | .lsApplyLo t port => Sys2Proof.Machine.execLsApplyLo t port s
  | .ledgerData0 t port => Sys2Proof.Machine.execLedgerData0 t port s
  | .receiveFolioRead t reader serial => Sys2Proof.Machine.execReceiveFolioRead t reader serial s
  | .folioLockExpiry ch queueB => Sys2Proof.Machine.execFolioLockExpiry ch queueB s
  | .transitBoundary t sensed => Sys2Proof.Machine.execTransitBoundary t sensed s
  | .sleepCommit t => Sys2Proof.Machine.execSleepCommit t s
  | .parkEntry t => Sys2Proof.Machine.execParkEntry t s
  | .wakeLatch t source => Sys2Proof.Machine.execWakeLatch t source s
  | .parkPoll t levels => Sys2Proof.Machine.execParkPoll t levels s
  | .parkTimer t => Sys2Proof.Machine.execParkTimer t s
  | .wakeBoot t pg => Sys2Proof.Machine.execWakeBoot t pg s
  | .linWakeRepeat t ch => Sys2Proof.Machine.execLinWakeRepeat t ch s
  | .lengthChangeSwitch t => Sys2Proof.Machine.execLengthChangeSwitch t s
  | .latchCut t bytes => Sys2Proof.Machine.execLatchCut t bytes s
  | .deltaComplete t => Sys2Proof.Machine.execDeltaComplete t s
  | .commitStrobe t short => Sys2Proof.Machine.execCommitStrobe t short s
  | .writeBack t tenant ring => Sys2Proof.Machine.execWriteBack t tenant ring s
  | .dispatch t core => Sys2Proof.Machine.execDispatch t core s
  | .carryOver core => Sys2Proof.Machine.execCarryOver core s
  | .add core rd ra b => Sys2Proof.Machine.execAdd core rd ra b s
  | .and core rd ra b => Sys2Proof.Machine.execAnd core rd ra b s
  | .shl core rd ra b => Sys2Proof.Machine.execShl core rd ra b s
  | .cmp core ra b => Sys2Proof.Machine.execCmp core ra b s
  | .mov core rd src => Sys2Proof.Machine.execMov core rd src s
  | .lui core rd value => Sys2Proof.Machine.execLui core rd value s
  | .mul core rd ra b => Sys2Proof.Machine.execMul core rd ra b s
  | .div core rd ra b => Sys2Proof.Machine.execDiv core rd ra b s
  | .bfx core rd ra pos len => Sys2Proof.Machine.execBfx core rd ra pos len s
  | .bfi core rd ra pos len => Sys2Proof.Machine.execBfi core rd ra pos len s
  | .clz core rd ra => Sys2Proof.Machine.execClz core rd ra s
  | .popc core rd ra => Sys2Proof.Machine.execPopc core rd ra s
  | .bswap core rd ra => Sys2Proof.Machine.execBswap core rd ra s
  | .crcb core kind rd ra b => Sys2Proof.Machine.execCrcb core kind rd ra b s
  | .ld core size rd ra off => Sys2Proof.Machine.execLd core size rd ra off s
  | .st core size rs ra off => Sys2Proof.Machine.execSt core size rs ra off s
  | .b core flag want target => Sys2Proof.Machine.execB core flag want target s
  | .j core target => Sys2Proof.Machine.execJ core target s
  | .call core target => Sys2Proof.Machine.execCall core target s
  | .ret core => Sys2Proof.Machine.execRet core s
  | .sgx core rd desc ra => Sys2Proof.Machine.execSgx core rd desc ra s
  | .sgp core rs desc ra => Sys2Proof.Machine.execSgp core rs desc ra s
  | .sgl core rd rx rb => Sys2Proof.Machine.execSgl core rd rx rb s
  | .endItem t core code => Sys2Proof.Machine.execEndItem t core code s
  | .pktRead t core dst off len => Sys2Proof.Machine.execPktRead t core dst off len s
  | .pktNew t core kind => Sys2Proof.Machine.execPktNew t core kind s
  | .pktAppend t core builder src len => Sys2Proof.Machine.execPktAppend t core builder src len s
  | .pktCommit t core builder queue timing => Sys2Proof.Machine.execPktCommit t core builder queue timing s
  | .pktForward t core queue => Sys2Proof.Machine.execPktForward t core queue s
  | .pktEdit t core addr => Sys2Proof.Machine.execPktEdit t core addr s
  | .acfNext t core k => Sys2Proof.Machine.execAcfNext t core k s
  | .folioPut t core builder ch folio replace => Sys2Proof.Machine.execFolioPut t core builder ch folio replace s
  | .folioState t core ch folio => Sys2Proof.Machine.execFolioState t core ch folio s
  | .outCmd t core => Sys2Proof.Machine.execOutCmd t core s
  | .event t core tenant addr => Sys2Proof.Machine.execEvent t core tenant addr s
  | .recTrigger t core => Sys2Proof.Machine.execRecTrigger t core s
  | .cipher t core => Sys2Proof.Machine.execCipher t core s
  | .macTx t core addr buf => Sys2Proof.Machine.execMacTx t core addr buf s
  | .macRx t core addr buf => Sys2Proof.Machine.execMacRx t core addr buf s
  | .catRead t core index dst => Sys2Proof.Machine.execCatRead t core index dst s
  | .tpOpen t core ctx => Sys2Proof.Machine.execTpOpen t core ctx s
  | .tpData t core ctx => Sys2Proof.Machine.execTpData t core ctx s
  | .tpClose t core ctx => Sys2Proof.Machine.execTpClose t core ctx s
  | .tpReply t core ctx kind n => Sys2Proof.Machine.execTpReply t core ctx kind n s
  | .tpSegment t core ctx n src queue => Sys2Proof.Machine.execTpSegment t core ctx n src queue s
  | .tpAbort t core ctx => Sys2Proof.Machine.execTpAbort t core ctx s
  | .tpExpired t fe ctx => Sys2Proof.Machine.execTpExpired t fe ctx s
  | .timeNow t core => Sys2Proof.Machine.execTimeNow t core s
  | .syncFeed t core => Sys2Proof.Machine.execSyncFeed t core s
  | .occultation t dom => Sys2Proof.Machine.execOccultation t dom s
  | .setTime t via dom => Sys2Proof.Machine.execSetTime t via dom s
  | .acceptStep t via dom => Sys2Proof.Machine.execAcceptStep t via dom s
  | .canRxFrame t ch frame ending dataPhase sof short => Sys2Proof.Machine.execCanRxFrame t ch frame ending dataPhase sof short s
  | .refill t queue => Sys2Proof.Machine.execRefill t queue s
  | .spanClose t => Sys2Proof.Machine.execSpanClose t s
  | .classification t => Sys2Proof.Machine.execClassification t s
  | .livenessTimeout t index => Sys2Proof.Machine.execLivenessTimeout t index s
  | .canArbitration t ch => Sys2Proof.Machine.execCanArbitration t ch s
  | .canTxEnd t ch ending dataPhase loop sof => Sys2Proof.Machine.execCanTxEnd t ch ending dataPhase loop sof s
  | .recover t via ch => Sys2Proof.Machine.execRecover t via ch s
  | .recoveryComplete t ch => Sys2Proof.Machine.execRecoveryComplete t ch s
  | .expire t ch folio => Sys2Proof.Machine.execExpire t ch folio s
  | .linSlot t ch => Sys2Proof.Machine.execLinSlot t ch s
  | .linResponse t ch resp short => Sys2Proof.Machine.execLinResponse t ch resp short s
  | .linHeader t ch pid brkLen bit brk => Sys2Proof.Machine.execLinHeader t ch pid brkLen bit brk s
  | .linPublishUpdate t ch => Sys2Proof.Machine.execLinPublishUpdate t ch s
  | .linTableSwitch t via ch table => Sys2Proof.Machine.execLinTableSwitch t via ch table s
  | .ethRxFrame t n frame sof short => Sys2Proof.Machine.execEthRxFrame t n frame sof short s
  | .transmitOpportunity t n => Sys2Proof.Machine.execTransmitOpportunity t n s
  | .stampReport t n => Sys2Proof.Machine.execStampReport t n s
  | .windowEdge t n cls => Sys2Proof.Machine.execWindowEdge t n cls s
  | .launchTime t n tc => Sys2Proof.Machine.execLaunchTime t n tc s
  | .linkChange t n up plca resolved => Sys2Proof.Machine.execLinkChange t n up plca resolved s
  | .plcaBeacon t n => Sys2Proof.Machine.execPlcaBeacon t n s
  | .plcaOpportunity t n => Sys2Proof.Machine.execPlcaOpportunity t n s
  | .beaconLoss t n => Sys2Proof.Machine.execBeaconLoss t n s
  | .doorbell t port tenant ring index => Sys2Proof.Machine.execDoorbell t port tenant ring index s
  | .doorbellArm t port tenant ring => Sys2Proof.Machine.execDoorbellArm t port tenant ring s
  | .ringReset t port tenant ring enable => Sys2Proof.Machine.execRingReset t port tenant ring enable s
  | .hostPortReset t port linkDown perst => Sys2Proof.Machine.execHostPortReset t port linkDown perst s
  | .descriptorFetch t tenant ring item => Sys2Proof.Machine.execDescriptorFetch t tenant ring item s
  | .txFrame t tenant ring => Sys2Proof.Machine.execTxFrame t tenant ring s
  | .txFolio t tenant ring => Sys2Proof.Machine.execTxFolio t tenant ring s
  | .cancel t tenant ring => Sys2Proof.Machine.execCancel t tenant ring s
  | .rxBuf t tenant ring slot => Sys2Proof.Machine.execRxBuf t tenant ring slot s
  | .outCmdDescriptor t tenant ring => Sys2Proof.Machine.execOutCmdDescriptor t tenant ring s
  | .recTriggerCommand t tenant ring => Sys2Proof.Machine.execRecTriggerCommand t tenant ring s
  | .recReadout t tenant ring => Sys2Proof.Machine.execRecReadout t tenant ring s
  | .recRelease t tenant ring => Sys2Proof.Machine.execRecRelease t tenant ring s
  | .table t tenant ring => Sys2Proof.Machine.execTable t tenant ring s
  | .indirect t tenant ring => Sys2Proof.Machine.execIndirect t tenant ring s
  | .clearBlocked t tenant ring => Sys2Proof.Machine.execClearBlocked t tenant ring s
  | .clearRedLatch t tenant ring => Sys2Proof.Machine.execClearRedLatch t tenant ring s
  | .writeFilter t via index words => Sys2Proof.Machine.execWriteFilter t via index words s
  | .writeMeter t via index words => Sys2Proof.Machine.execWriteMeter t via index words s
  | .installTransmitSa t tenant ring => Sys2Proof.Machine.execInstallTransmitSa t tenant ring s
  | .installReceiveSa t tenant ring => Sys2Proof.Machine.execInstallReceiveSa t tenant ring s
  | .removeSa t tenant ring => Sys2Proof.Machine.execRemoveSa t tenant ring s
  | .setTxAn t tenant ring => Sys2Proof.Machine.execSetTxAn t tenant ring s
  | .addReceiveChannel t tenant ring => Sys2Proof.Machine.execAddReceiveChannel t tenant ring s
  | .removeReceiveChannel t tenant ring => Sys2Proof.Machine.execRemoveReceiveChannel t tenant ring s
  | .tblWriteOrInsert t port table index => Sys2Proof.Machine.execTblWriteOrInsert t port table index s
  | .tblReadOrLookup t port table index => Sys2Proof.Machine.execTblReadOrLookup t port table index s
  | .tblInvalidateOrDelete t port table index => Sys2Proof.Machine.execTblInvalidateOrDelete t port table index s
  | .receiveDelivery t tenant ring => Sys2Proof.Machine.execReceiveDelivery t tenant ring s
  | .ringStarved t tenant ring => Sys2Proof.Machine.execRingStarved t tenant ring s
  | .encrypt t tenant => Sys2Proof.Machine.execEncrypt t tenant s
  | .decrypt t tenant => Sys2Proof.Machine.execDecrypt t tenant s
  | .macGenerate t tenant => Sys2Proof.Machine.execMacGenerate t tenant s
  | .macVerify t tenant => Sys2Proof.Machine.execMacVerify t tenant s
  | .unwrap t tenant => Sys2Proof.Machine.execUnwrap t tenant s
  | .sign t tenant => Sys2Proof.Machine.execSign t tenant s
  | .submit t port page len => Sys2Proof.Machine.execSubmit t port page len s
  | .replayProof t port page pair => Sys2Proof.Machine.execReplayProof t port page pair s
  | .keyCommitBoundary t => Sys2Proof.Machine.execKeyCommitBoundary t s
  | .scrub t slot => Sys2Proof.Machine.execScrub t slot s
  | .backoffExpiry t tenant => Sys2Proof.Machine.execBackoffExpiry t tenant s
  | .maskedFault t part cause inst location => Sys2Proof.Machine.execMaskedFault t part cause inst location s
  | .repair t => Sys2Proof.Machine.execRepair t s
  | .withdrawal t part cause inst location pgLow => Sys2Proof.Machine.execWithdrawal t part cause inst location pgLow s
  | .restartComplete t tested => Sys2Proof.Machine.execRestartComplete t tested s
  | .faultInject t port part kind => Sys2Proof.Machine.execFaultInject t port part kind s
  | .pin t port => Sys2Proof.Machine.execPin t port s
  | .unpin t port => Sys2Proof.Machine.execUnpin t port s
  | .clearOverflow t port => Sys2Proof.Machine.execClearOverflow t port s
  | .gateClose t part late => Sys2Proof.Machine.execGateClose t part late s
  | .holdLimitExpiry t part => Sys2Proof.Machine.execHoldLimitExpiry t part s
  | .staleReply t slip => Sys2Proof.Machine.execStaleReply t slip s
  | .dmaTimeout t tenant ring since payload => Sys2Proof.Machine.execDmaTimeout t tenant ring since payload s
  | .collectTimeout t port serial => Sys2Proof.Machine.execCollectTimeout t port serial s
  | .serialRelease t requester serial => Sys2Proof.Machine.execSerialRelease t requester serial s
  | .shortTrip t ch since ma uj => Sys2Proof.Machine.execShortTrip t ch since ma uj s
  | .overcurrentTrip t ch ma since => Sys2Proof.Machine.execOvercurrentTrip t ch ma since s
  | .inrushWindowEnd t ch limited ma uj => Sys2Proof.Machine.execInrushWindowEnd t ch limited ma uj s
  | .temperatureTrip t ch ma uj => Sys2Proof.Machine.execTemperatureTrip t ch ma uj s
  | .retry t ch temp => Sys2Proof.Machine.execRetry t ch temp s
  | .fwFault t ch => Sys2Proof.Machine.execFwFault t ch s
  | .openLoad t ch => Sys2Proof.Machine.execOpenLoad t ch s
  | .offFault t ch high => Sys2Proof.Machine.execOffFault t ch high s
  | .hold t die => Sys2Proof.Machine.execHold t die s
  | .holdWindowEnd t ch => Sys2Proof.Machine.execHoldWindowEnd t ch s
  | .crank t die below => Sys2Proof.Machine.execCrank t die below s
  | .lowSeen t die below mv => Sys2Proof.Machine.execLowSeen t die below mv s
  | .reservoirExhausted t die => Sys2Proof.Machine.execReservoirExhausted t die s
  | .lsPgTimeout t => Sys2Proof.Machine.execLsPgTimeout t s
  | .debouncedChange t sw levels => Sys2Proof.Machine.execDebouncedChange t sw levels s
  | .chatter t sw levels => Sys2Proof.Machine.execChatter t sw levels s
  | .chatterExit t sw levels => Sys2Proof.Machine.execChatterExit t sw levels s
  | .stuck t sw => Sys2Proof.Machine.execStuck t sw s
  | .inputSample t die group short => Sys2Proof.Machine.execInputSample t die group short s
  | .hello t hello latency => Sys2Proof.Machine.execHello t hello latency s
  | .linkFrame t frame => Sys2Proof.Machine.execLinkFrame t frame s
  | .retransmit t => Sys2Proof.Machine.execRetransmit t s
  | .linkLost t lane0 lane1 => Sys2Proof.Machine.execLinkLost t lane0 lane1 s
  | .heartbeatChange t level => Sys2Proof.Machine.execHeartbeatChange t level s
  | .soloWait t => Sys2Proof.Machine.execSoloWait t s
  | .withdrawalNotice t acc t0 => Sys2Proof.Machine.execWithdrawalNotice t acc t0 s
  | .takeover t => Sys2Proof.Machine.execTakeover t s
  | .yields t => Sys2Proof.Machine.execYields t s
  | .resynchronisationComplete t => Sys2Proof.Machine.execResynchronisationComplete t s
  | .departure t queue tally => Sys2Proof.Machine.execDeparture t queue tally s
  | .gapFill t => Sys2Proof.Machine.execGapFill t s
  | .store t port fields image => Sys2Proof.Machine.execStore t port fields image s
  | .verify t port fields => Sys2Proof.Machine.execVerify t port fields s
  | .activate t port fields => Sys2Proof.Machine.execActivate t port fields s
  | .abort t port fields => Sys2Proof.Machine.execAbort t port fields s
  | .quiesce t port fields => Sys2Proof.Machine.execQuiesce t port fields s
  | .resume t port fields => Sys2Proof.Machine.execResume t port fields s
  | .length t port fields => Sys2Proof.Machine.execLength t port fields s
  | .applyBoundary t => Sys2Proof.Machine.execApplyBoundary t s
  | .configurationRequest t port item write => Sys2Proof.Machine.execConfigurationRequest t port item write s
  | .hostPortLinkUp t port => Sys2Proof.Machine.execHostPortLinkUp t port s
  | .busIntegration t ch => Sys2Proof.Machine.execBusIntegration t ch s
  | .lsPgHigh t => Sys2Proof.Machine.execLsPgHigh t s
  | .rstNRelease t => Sys2Proof.Machine.execRstNRelease t s

end Sys2Proof.Machine
end

