-- ==== Sys2Proof/Safety.lean ====
section
/-! DEFINITION. What claims call sound: a Strongroom whose working store keeps its canonical form and whose DECOMMISSIONED state
holds no key; and the words in which claims speak of a core that executes an instruction. -/

namespace Sys2Proof.Machine

/-- A slot without a key (R559, R581). -/
def KeySlot.empty (s : KeySlot) : Bool := s.value == [] && s.type == 0

/-- The Strongroom's persistent store is sound: the lifecycle is one of the five states; the working store keeps its canonical form;
and in DECOMMISSIONED the device root fuses are blown and no slot holds a key (R556). -/
def Strongroom.sound (r : Strongroom) : Prop :=
  r.lifecycle ≤ 4 ∧ swf r.slots = true ∧
    (r.lifecycle = 4 → r.blown = true ∧ ∀ n, n < 512 → isVirtual n = false → (sget r.slots n).empty = true)

/-- The state is sound. -/
def State.Sound (s : State) : Prop := s.sr.sound

/-- The state with another device: the Strongroom's store and the commands that wait are the same. -/
def State.withDev (s : State) (d : Dev) : State := { s with dev := d }

/-- The state with another device and another Strongroom's store. -/
def State.withBoth (s : State) (x : WithSr) : State := { s with dev := x.1, sr := x.2 }

/-- A core can execute an instruction of `n` cycles: the device runs, the core has an item, the instruction lies in its code, and
the item's almanac entry still allows the cycles (R45, R47, R193). -/
def Dev.ready (d : Dev) (c n : Nat) : Prop :=
  d.runs = true ∧ ∃ it, (d.core c).busy = some it ∧ (d.core c).pc + 4 ≤ (d.core c).codeLen ∧ (d.core c).pc % 4 = 0 ∧
    ∀ e, d.entry it.entry = some e → (d.core c).cycles + n ≤ if AlmEntry_task e then e.costFixed else e.costItem

/-- The device once core `c` has executed an instruction of `n` cycles that does `f` to it: the core alone has changed, its program
counter has gone on, and the cycles are charged (R45, R197). -/
def Dev.executed (d : Dev) (c n : Nat) (f : Core → Core) : Dev :=
  d.modCore c fun k => let k' := f { k with pc := k.pc + 4 }; { k' with cycles := k.cycles + n, used := k.used + n }

end Sys2Proof.Machine
end

