-- ==== Sys2Proof/Certificates/Slice0/Obligations.lean ====
section
/-! DEFINITION. The statements for the provers. -/

open Sys2Proof Sys2Proof.Machine

/-! ### The whole machine -/

/-- A step takes the command at the front of the queue and answers what it does on the device with the rest of the queue. -/
def Obligations.FrontCommandRuns : Prop :=
  ∀ (c : Instr) (rest : List Instr) (s : State),
    step { s with pending := c :: rest } = exec c { s with pending := rest }

/-- With no command waiting the block idles (the model's choice, log entry 44). -/
def Obligations.IdleWithoutCommands : Prop :=
  ∀ s : State, s.pending = [] → step s = .next s

/-- Every command, in every state and with every operand, ends in a next state, and leaves the queue of those that wait behind it:
no command stops the block, so each of the constructors of Instr completes in every state. -/
def Obligations.EveryCommandAnswersANextState : Prop :=
  ∀ (c : Instr) (s : State), ∃ t, exec c s = .next t ∧ t.pending = s.pending

/-- The commands through which the Strongroom works: every other leaves its persistent store as it was. -/
def strongroomCommand : Instr → Bool
  | .powerOnReset .. | .wakeBoot .. | .lsPgHigh .. | .restartComplete .. => true
  | .sealSetup .. | .registerWrite .. | .submit .. | .unwrap .. => true
  | .keyCommitBoundary .. | .linkFrame .. => true
  | _ => false

/-- No command but those through which the Strongroom works changes its persistent store: its keys, counters, proofs and
lifecycle (R551). -/
def Obligations.OnlyTheStrongroomWritesItsStore : Prop :=
  ∀ (c : Instr) (s t : State), strongroomCommand c = false → exec c s = .next t → t.sr = s.sr

/-- The state right after reset is sound. -/
def Obligations.ResetIsSound : Prop := State.reset.Sound

/-- Every step from a sound state answers a sound state: the lifecycle is one of the five, the working store keeps its canonical
form, and DECOMMISSIONED has blown fuses and no key. -/
def Obligations.EveryStepKeepsSoundness : Prop :=
  ∀ s t : State, s.Sound → step s = .next t → t.Sound

/-- The lifecycle only stays or advances to the next state, in every step from every state (R557). -/
def Obligations.LifecycleOnlyAdvances : Prop :=
  ∀ s t : State, step s = .next t →
    t.sr.lifecycle = s.sr.lifecycle ∨ (t.sr.lifecycle = s.sr.lifecycle + 1 ∧ t.sr.lifecycle ≤ 4)

/-- DECOMMISSIONED is final: from a sound state in it every step leaves it, with the device root blown and no slot holding a
key. -/
def Obligations.DecommissionedIsFinal : Prop :=
  ∀ s t : State, s.Sound → s.sr.lifecycle = 4 → step s = .next t →
    t.sr.lifecycle = 4 ∧ t.sr.blown = true ∧ ∀ n, n < 512 → isVirtual n = false → (sget t.sr.slots n).empty = true

/-! ### The cores -/

/-- Integer arithmetic, logic, shift, move and immediate: a core that can execute writes the result to its destination, takes one
cycle, and changes nothing else (R197). A shift by 32 or more is the model's free value (log entry 3). -/
def Obligations.EngineArithmetic : Prop :=
  ∀ (s : State) (c : CoreId) (rd ra : GReg) (b : Src) (w : Word), s.dev.ready c 1 →
    exec (.add c rd ra b) s = .next (s.withDev (s.dev.executed c 1 fun k => k.set rd (k.get ra + k.src b))) ∧
    exec (.and c rd ra b) s = .next (s.withDev (s.dev.executed c 1 fun k => k.set rd (k.get ra &&& k.src b))) ∧
    (∀ src : MovSrc, exec (.mov c rd src) s = .next (s.withDev (s.dev.executed c 1 fun k =>
      k.set rd (match src with | .reg r => k.get r | .cycles => BitVec.ofNat 32 k.cycles | .transit => BitVec.ofNat 32 s.dev.kept.transit)))) ∧
    exec (.lui c rd w) s = .next (s.withDev (s.dev.executed c 1 fun k => k.set rd w)) ∧
    exec (.shl c rd ra b) s = .next (s.withDev (s.dev.executed c 1 fun k =>
      k.set rd (if (k.src b).toNat < 32 then k.get ra <<< (k.src b).toNat else Config.shiftWide (k.get ra) (k.src b))))

/-- The bit-field and byte instructions and the CRC step write their result, take one cycle, and change nothing else (R197). What
each result is, `BitResults` says. -/
def Obligations.EngineBitOperations : Prop :=
  ∀ (s : State) (c : CoreId) (rd ra : GReg) (b : Src) (pos : Fin 32) (len : Fin 33) (kind : CrcKind), s.dev.ready c 1 →
    exec (.bfx c rd ra pos len) s = .next (s.withDev (s.dev.executed c 1 fun k => k.set rd (bitField (k.get ra) pos len))) ∧
    exec (.bfi c rd ra pos len) s =
      .next (s.withDev (s.dev.executed c 1 fun k => k.set rd (bitInsert (k.get rd) (k.get ra) pos len))) ∧
    exec (.clz c rd ra) s =
      .next (s.withDev (s.dev.executed c 1 fun k => k.set rd (BitVec.ofNat 32 (leadingZeros (k.get ra))))) ∧
    exec (.popc c rd ra) s = .next (s.withDev (s.dev.executed c 1 fun k => k.set rd (BitVec.ofNat 32 (popCount (k.get ra))))) ∧
    exec (.bswap c rd ra) s = .next (s.withDev (s.dev.executed c 1 fun k => k.set rd (byteSwap (k.get ra)))) ∧
    exec (.crcb c kind rd ra b) s =
      .next (s.withDev (s.dev.executed c 1 fun k => k.set rd (crcStep kind (k.get ra) ((k.src b).setWidth 8))))

/-- What the bit-field and byte instructions compute: a field is read from and put at its bits, those beyond bit 31 read 0 (the
model's choice, log entry 9); leading zeros end at the highest bit that is set; a byte swap reverses the four bytes. -/
def Obligations.BitResults : Prop :=
  (∀ (a : Word) (pos len i : Nat), i < 32 → (bitField a pos len).getLsbD i = (decide (i < len) && a.getLsbD (pos + i))) ∧
  (∀ (a b : Word) (pos len i : Nat), i < 32 →
    (bitInsert a b pos len).getLsbD i = if pos ≤ i ∧ i < pos + len then b.getLsbD (i - pos) else a.getLsbD i) ∧
  (∀ a : Word, (a = 0 → leadingZeros a = 32) ∧
    (a ≠ 0 → leadingZeros a < 32 ∧ a.getLsbD (31 - leadingZeros a) = true ∧ ∀ i, 31 - leadingZeros a < i → a.getLsbD i = false)) ∧
  (∀ a : Word, popCount a = ((List.range 32).map fun i => (a.getLsbD i).toNat).sum) ∧
  (∀ (a : Word) (n j : Nat), n < 4 → j < 8 → (byteSwap a).getLsbD (8 * n + j) = a.getLsbD (8 * (3 - n) + j))

/-- `CMP` sets the zero, negative and overflow flags by the difference of its operands, takes one cycle, and writes no register;
carry is the model's free value (log entry 2). -/
def Obligations.EngineCompare : Prop :=
  ∀ (s : State) (c : CoreId) (ra : GReg) (b : Src), s.dev.ready c 1 →
    exec (.cmp c ra b) s = .next (s.withDev (s.dev.executed c 1 fun k =>
      { k with z := k.get ra - k.src b == 0
               n := (k.get ra - k.src b).getLsbD 31
               v := decide ((k.get ra).toInt - (k.src b).toInt ≠ (k.get ra - k.src b).toInt)
               c := Config.cmpCarry (k.get ra) (k.src b) }))

/-- `MUL` writes 64 bits to an even–odd pair in 3 cycles: the low word is the product's, and the whole is the product wherever its
signed and unsigned readings agree; an odd register named as the pair is program error 0x01 (R187, R197). -/
def Obligations.EngineMultiply : Prop :=
  (∀ (s : State) (c : CoreId) (rd ra : GReg) (b : Src), s.dev.ready c 3 → rd.val % 2 = 0 →
    exec (.mul c rd ra b) s = .next (s.withDev (s.dev.executed c 3 fun k => k.setPair rd (mul64 (k.get ra) (k.src b))))) ∧
  (∀ a b : Word, (mul64 a b).setWidth 32 = a * b) ∧
  (∀ a b : Word, a.toNat * b.toNat = (a.toInt * b.toInt) % 2 ^ 64 → (mul64 a b).toNat = a.toNat * b.toNat) ∧
  (∀ (s : State) (c : CoreId) (rd ra : GReg) (b : Src), s.dev.ready c 3 → rd.val % 2 = 1 →
    exec (.mul c rd ra b) s = .next (s.withDev (s.dev.programError c 0x01)))

/-- `DIV` takes 20 cycles: a divisor of 0 gives quotient 0 and sets overflow; elsewhere the quotient is the division's wherever its
signed and unsigned readings agree, and the flags stay (R197; the rest is the model's, log entry 4). -/
def Obligations.EngineDivide : Prop :=
  ∀ (s : State) (c : CoreId) (rd ra : GReg) (b : Src), s.dev.ready c 20 →
    ∃ t, exec (.div c rd ra b) s = .next t ∧ t.pending = s.pending ∧ t.sr = s.sr ∧
      (let k := s.dev.core c
       (k.src b = 0 → t.dev = s.dev.executed c 20 fun k => { k.set rd 0 with v := true }) ∧
       (k.src b ≠ 0 → (k.get ra).udiv (k.src b) = (k.get ra).sdiv (k.src b) →
         t.dev = s.dev.executed c 20 fun k => k.set rd ((k.get ra).udiv (k.src b))))

/-- Loads read whole values from the places the memory map gives, least significant byte first, at its cost: 2 cycles, 4 in the
shared variable area (R188, R217). -/
def Obligations.EngineLoad : Prop :=
  ∀ (s : State) (c : CoreId) (size : Size) (rd ra : GReg) (off : Word),
    let addr := ((s.dev.core c).get ra + off).toNat
    let r := region c addr (szBytes size)
    s.dev.ready c (if r = .shared then 4 else 2) → r ≠ .none → r ≠ .code → addr % szBytes size = 0 →
    (size = .dword → rd.val % 2 = 0) →
    exec (.ld c size rd ra off) s = .next (s.withDev (s.dev.executed c (if r = .shared then 4 else 2) fun k =>
      if size = .dword then k.setPair rd (BitVec.ofNat 64 (ofLe (s.dev.loadBytes c addr 8)))
      else k.set rd (BitVec.ofNat 32 (ofLe (s.dev.loadBytes c addr (szBytes size))))))

/-- A store to data memory writes the value's bytes there, least significant first, in 1 cycle, and every other byte of the core's
data memory reads as before (R188). -/
def Obligations.EngineStore : Prop :=
  ∀ (s : State) (c : CoreId) (size : Size) (rs ra : GReg) (off : Word),
    let k := s.dev.core c
    let addr := (k.get ra + off).toNat
    let n := szBytes size
    let v := if size = .dword then (k.getPair rs).toNat else (k.get rs).toNat
    s.dev.ready c 1 → region c addr n = .dmem → addr % n = 0 → (size = .dword → rs.val % 2 = 0) →
    ∃ t, exec (.st c size rs ra off) s = .next t ∧ t.sr = s.sr ∧ t.pending = s.pending ∧
      (∀ i, i < n → t.dev.dmem c (addr - dmemBase c + i) = (leBytes n v).getD i 0) ∧
      (∀ a, a < addr - dmemBase c ∨ addr - dmemBase c + n ≤ a → t.dev.dmem c a = s.dev.dmem c a) ∧
      (∀ r : GReg, (t.dev.core c).get r = k.get r) ∧
      (t.dev.core c).pc = k.pc + 4 ∧ (t.dev.core c).cycles = k.cycles + 1 ∧
      (∀ e : Nat, e ≠ c → t.dev.core e = s.dev.core e)

/-- A store to a shared word that the image owns takes 2 cycles and does not show in any load before the next boundary, not even in
the writer's own (R188, R214). -/
def Obligations.SharedStoreWaits : Prop :=
  ∀ (s : State) (c : CoreId) (rs ra : GReg) (off : Word),
    let k := s.dev.core c
    let addr := (k.get ra + off).toNat
    let w := (addr - 0x30000000) / 8
    s.dev.ready c 2 → region c addr 4 = .shared → addr % 4 = 0 →
    k.image.col.svFirst ≤ w → w < k.image.col.svFirst + k.image.col.svCount →
    ∃ t, exec (.st c .word rs ra off) s = .next t ∧ (t.dev.core c).cycles = k.cycles + 2 ∧
      (∀ (e : CoreId) (a n : Nat), region e a n = .shared → t.dev.loadBytes e a n = s.dev.loadBytes e a n)

/-- A branch takes 1 cycle where its condition fails and 2 where it holds; jump, call and return take 2; a call returns to the
instruction behind it (R197). -/
def Obligations.EngineControlFlow : Prop :=
  ∀ (s : State) (c : CoreId) (flag : FlagName) (want : Bool) (target ret : Nat) (rest : List Nat), s.dev.ready c 2 →
    exec (.b c flag want target) s = .next (s.withDev (if (s.dev.core c).flag flag = want then s.dev.executed c 2 fun k => { k with pc := target } else s.dev.executed c 1 id)) ∧
    exec (.j c target) s = .next (s.withDev (s.dev.executed c 2 fun k => { k with pc := target })) ∧
    (4 * ((s.dev.core c).stack.length + 1) ≤ (s.dev.core c).scratch c →
      exec (.call c target) s =
        .next (s.withDev (s.dev.executed c 2 fun k => { k with stack := k.pc :: k.stack, pc := target }))) ∧
    ((s.dev.core c).stack = ret :: rest →
      exec (.ret c) s = .next (s.withDev (s.dev.executed c 2 fun k => { k with stack := rest, pc := ret })))

/-- `G0` reads 0 and ignores writes, and any other register reads what was written to it while the rest stay (R187). -/
def Obligations.GeneralRegisters : Prop :=
  ∀ (k : Core) (r q : GReg) (w : Word), k.get 0 = 0 ∧ k.set 0 w = k ∧
    (r ≠ 0 → (k.set r w).get r = w) ∧ (q ≠ r → (k.set r w).get q = k.get q)

/-- A core without an item, or one of a device that does not run, executes nothing: the arithmetic, memory and control commands
leave the device as it was (R193). -/
def Obligations.IdleCoreExecutesNothing : Prop :=
  ∀ (s : State) (c : CoreId) (rd ra : GReg) (b : Src) (w : Word) (size : Size) (target : Nat), s.dev.coreBusy c = false →
    exec (.add c rd ra b) s = .next s ∧ exec (.cmp c ra b) s = .next s ∧ exec (.mul c rd ra b) s = .next s ∧
    exec (.div c rd ra b) s = .next s ∧ exec (.ld c size rd ra w) s = .next s ∧ exec (.st c size rd ra w) s = .next s ∧
    exec (.j c target) s = .next s ∧ exec (.call c target) s = .next s ∧ exec (.sgx c rd b ra) s = .next s ∧
    exec (.sgp c rd b ra) s = .next s

/-! ### Signals and the end of an item -/

/-- Where the bits of a signal lie: position `k` names bit `k` mod 8 of byte `k` div 8 of the buffer; in little-endian order the positions
go upward from the start; in big-endian order the start is the most significant bit, and each next lower bit is one position down,
or, behind bit 0 of a byte, bit 7 of the next byte (R202). -/
def Obligations.SignalBitPositions : Prop :=
  ∀ s : Word, (sigBits s).length = sigLen s ∧
    (∀ (d : Dev) (c base i : Nat) (b : Byte), i < sigLen s → d.sigByte c base ((sigBits s).getD i 0 / 8) = some b →
      (d.sigValue c base s).1.testBit i = b.getLsbD ((sigBits s).getD i 0 % 8)) ∧
    (sigOrder s = false → ∀ i, i < sigLen s → (sigBits s).getD i 0 = sigStart s + i) ∧
    (sigOrder s = true → (sigBits s).getD (sigLen s - 1) 0 = sigStart s ∧
      ∀ i, i + 1 < sigLen s → (sigBits s).getD i 0 =
        (let pos := (sigBits s).getD (i + 1) 0
         if pos % 8 = 0 then pos + 15 else pos - 1))

/-- `SGX` delivers a signal from the packet window or data memory: each bit of the value is the buffer's bit at its position, a bit out
of reach reads 0 and sets `NV`, the value is sign- or zero-extended into one register or, beyond 32 bits, a pair; it takes 3 or 5
cycles and changes nothing else (R197, R201–R203). -/
def Obligations.SignalExtract : Prop :=
  ∀ (s : State) (c : CoreId) (rd ra : GReg) (desc : Src),
    let k := s.dev.core c
    let base := (k.get ra).toNat
    let sig := k.src desc
    let cost := if 32 < sigLen sig then 5 else 3
    s.dev.ready c cost → region c base 1 = .window ∨ region c base 1 = .dmem → (32 < sigLen sig → rd.val % 2 = 0) →
    ∃ (v : Nat) (nv : Bool),
      exec (.sgx c rd desc ra) s = .next (s.withDev (s.dev.executed c cost fun k =>
        { (k.deliver rd (sigLen sig) v (sigSigned sig)) with nv := nv })) ∧
      v < 2 ^ sigLen sig ∧
      (∀ i, i < sigLen sig → v.testBit i =
        (let pos := (sigBits sig).getD i 0
         match s.dev.sigByte c base (pos / 8) with | some b => b.getLsbD (pos % 8) | none => false)) ∧
      (nv = true ↔ ∃ i, i < sigLen sig ∧ s.dev.sigByte c base ((sigBits sig).getD i 0 / 8) = none)

/-- What a signal is delivered as: its own value where it is unsigned, its two's complement value where it is signed (R203). -/
def Obligations.SignalDelivery : Prop :=
  ∀ (k : Core) (rd : GReg) (len v : Nat) (q : GReg), 0 < len → len ≤ 64 → v < 2 ^ len → rd ≠ 0 →
    (len ≤ 32 → ((k.deliver rd len v false).get rd).toNat = v ∧
      ((k.deliver rd len v true).get rd).toInt = (if v.testBit (len - 1) then (v : Int) - 2 ^ len else v)) ∧
    (32 < len → rd.val % 2 = 0 → ((k.deliver rd len v false).getPair rd).toNat = v ∧
      ((k.deliver rd len v true).getPair rd).toInt = (if v.testBit (len - 1) then (v : Int) - 2 ^ len else v)) ∧
    (q ≠ rd → (32 < len → q.val ≠ rd.val + 1) → (k.deliver rd len v false).get q = k.get q ∧ (k.deliver rd len v true).get q = k.get q)

/-- `SGP` writes the low bits of its register or pair at the descriptor's positions of a buffer in data memory and leaves every other
bit of the core's data memory as it was; it takes 3 or 5 cycles and changes no register of any core (R197, R202, R204). -/
def Obligations.SignalPack : Prop :=
  ∀ (s : State) (c : CoreId) (rs ra : GReg) (desc : Src),
    let k := s.dev.core c
    let base := (k.get ra).toNat
    let sig := k.src desc
    let cost := if 32 < sigLen sig then 5 else 3
    let v := if 32 < sigLen sig then (k.getPair rs).toNat else (k.get rs).toNat
    s.dev.ready c cost → (∀ p ∈ sigBits sig, inDmem c (base + p / 8) 1 = true) → (32 < sigLen sig → rs.val % 2 = 0) →
    ∃ t, exec (.sgp c rs desc ra) s = .next t ∧ t.sr = s.sr ∧ t.pending = s.pending ∧
      (∀ i, i < sigLen sig →
        (t.dev.dmem c (base - dmemBase c + (sigBits sig).getD i 0 / 8)).getLsbD ((sigBits sig).getD i 0 % 8) = v.testBit i) ∧
      (∀ a j, j < 8 → (∀ p ∈ sigBits sig, ¬(a = base - dmemBase c + p / 8 ∧ j = p % 8)) →
        (t.dev.dmem c a).getLsbD j = (s.dev.dmem c a).getLsbD j) ∧
      (∀ r : GReg, (t.dev.core c).get r = k.get r) ∧ (t.dev.core c).cycles = k.cycles + cost ∧ (t.dev.core c).pc = k.pc + 4 ∧
      (∀ e : Nat, e ≠ c → t.dev.core e = s.dev.core e)

/-- `SGP` completes wherever every bit of its descriptor lies in the core's data memory and a signal of more than 32 bits names an even
register: the next state is the device with the bits written, the program counter behind the instruction and 3 or 5 cycles charged
(R197, R204). -/
def Obligations.SignalPackCompletes : Prop :=
  ∀ (s : State) (c : CoreId) (rs ra : GReg) (desc : Src),
    let k := s.dev.core c
    let base := (k.get ra).toNat
    let sig := k.src desc
    let cost := if 32 < sigLen sig then 5 else 3
    let v := if 32 < sigLen sig then (k.getPair rs).toNat else (k.get rs).toNat
    s.dev.ready c cost → (∀ p ∈ sigBits sig, inDmem c (base + p / 8) 1 = true) → (32 < sigLen sig → rs.val % 2 = 0) →
    exec (.sgp c rs desc ra) s = .next (s.withDev ((s.dev.packBits c base v sig).executed c cost id))

/-- `SGL` computes its value times the factor, shifted right, plus the offset, exactly; saturates it to the target's range; sets `NV`
where it saturated; and delivers it as `SGX` would, in 6 cycles (R197, R204). The parameter block stands at the address in `rb`. -/
def Obligations.SignalConvert : Prop :=
  ∀ (s : State) (c : CoreId) (rd rx rb : GReg),
    let k := s.dev.core c
    let blk := s.dev.dmemBytes c (k.get rb).toNat 16
    let wide := bitAt (byteAt blk 3) 1
    let raw : Nat := if wide then (k.getPair rx).toNat else (k.get rx).toNat
    let x : Int := if bitAt (byteAt blk 3) 0 then (if wide then (k.getPair rx).toInt else (k.get rx).toInt) else raw
    let a : Int := (BitVec.ofNat 16 (ofLe (slice blk 0 2))).toInt
    let b : Int := (BitVec.ofNat 32 (ofLe (slice blk 4 4))).toInt
    let target := BitVec.ofNat 32 (ofLe (slice blk 8 4))
    let n := sigLen target
    let y := (x * a) / 2 ^ (byteAt blk 2 % 32) + b
    let low : Int := if sigSigned target then -(2 ^ (n - 1)) else 0
    let high : Int := if sigSigned target then 2 ^ (n - 1) - 1 else 2 ^ n - 1
    let z := max low (min high y)
    s.dev.ready c 6 → inDmem c (k.get rb).toNat 16 = true → (wide = true → rx.val % 2 = 0) → (32 < n → rd.val % 2 = 0) →
    exec (.sgl c rd rx rb) s = .next (s.withDev (s.dev.executed c 6 fun k =>
      { (k.deliver rd n ((z % 2 ^ n).toNat) (sigSigned target)) with nv := decide (z ≠ y) }))

/-- `END` with OK, REFUSED_POLICY or a code that a helper returned ends the item: the core is idle, every builder it had open is
discarded, and no other core changes; with another code it is program error 0x05 (R196, R215). -/
def Obligations.EndOfItem : Prop :=
  ∀ (s : State) (t : Nat) (c : CoreId) (code : Nat), s.dev.ready c 2 →
    ((code = 0 ∨ code = 0x12 ∨ (s.dev.core c).codes.contains code = true) →
      ∃ u, exec (.endItem t c (some code)) s = .next u ∧ u.sr = s.sr ∧ u.pending = s.pending ∧
        (u.dev.core c).busy = none ∧ (∀ b, b < 4 → (sget (u.dev.core c).builders b).opn = false) ∧
        (u.dev.core c).cycles = (s.dev.core c).cycles + 2 ∧
        (∀ r : GReg, (u.dev.core c).get r = (s.dev.core c).get r) ∧ (∀ e : Nat, e ≠ c → u.dev.core e = s.dev.core e)) ∧
    (¬(code = 0 ∨ code = 0x12 ∨ (s.dev.core c).codes.contains code = true) →
      exec (.endItem t c (some code)) s = .next (s.withDev ((s.dev.atTime t).programError c 0x05)))

/-! ### Registers, the seal and resets -/

/-- What a write does to a field, by its access code: RW and RWS take the written bits where the field accepts the value; W1C clears
the bits written 1; RO, WO and RC ignore the write; and every bit outside the field stays (R9). -/
def Obligations.FieldAccessCodes : Prop :=
  ∀ (w v : Nat) (f : FieldDef), w < 2 ^ 32 → f.lo ≤ f.hi → f.hi < 32 →
    let new := writeField v allBits w f
    (∀ i, (i < f.lo ∨ f.hi < i) → new.testBit i = w.testBit i) ∧
    ((f.acc = .rw ∨ f.acc = .rws) → f.valid = none → bitsOf new f.hi f.lo = bitsOf v f.hi f.lo) ∧
    ((f.acc = .rw ∨ f.acc = .rws) → ∀ a b, f.valid = some (a, b) →
      bitsOf new f.hi f.lo = if a ≤ bitsOf v f.hi f.lo ∧ bitsOf v f.hi f.lo ≤ b then bitsOf v f.hi f.lo else bitsOf w f.hi f.lo) ∧
    (f.acc = .w1c → ∀ i, f.lo ≤ i → i ≤ f.hi → new.testBit i = (w.testBit i && !v.testBit i)) ∧
    ((f.acc = .ro ∨ f.acc = .wo ∨ f.acc = .rc) → new = w)

/-- A counter of the side-effect window counts up and holds at its greatest value, and no other register changes (R10). -/
def Obligations.CountersSaturate : Prop :=
  ∀ (d : Dev) (f g : Fld) (ix jx : List Nat) (n : Nat), f.lo ≤ f.hi → f.hi < 32 →
    (d.bump f ix n).rd f ix = min (2 ^ (f.hi + 1 - f.lo) - 1) (d.rd f ix + n) ∧
    (regKey g.reg jx ≠ regKey f.reg ix → (d.bump f ix n).rd g jx = d.rd g jx)

/-- Right after reset every field of every register reads its reset value (those whose reset depends on the register's index apart), the
transit counter is 0, no command waits, and nothing is committed to sleep. -/
def Obligations.ResetRegisters : Prop :=
  (∀ r ∈ regTable, r.var = .none → ∀ ix, ∀ f ∈ r.fields,
    bitsOf (regGet State.reset.dev.kept.regs r ix) f.hi f.lo = f.reset) ∧
  State.reset.dev.kept.transit = 0 ∧ State.reset.pending = [] ∧ State.reset.sr.lifecycle = 0 ∧
  (∀ c : Nat, (State.reset.dev.core c).busy = none) ∧ State.reset.dev.park.committed = false

/-- Writing the key to `SEAL` through a port with its BARs assigned seals the device, another word does not, and a sealed device stays sealed; the later words of the same
request are performed on the device as the key has left it; and once the device is sealed, a write to a setup register that the
seal covers changes nothing but `SEAL_DROPS`, which advances (R742, R743). -/
def Obligations.TheSeal : Prop :=
  ∀ (s : State) (t : Nat) (port : HostPort), s.dev.runs = true → s.dev.barsOn port = true →
    (∀ key : Word, ∃ u, exec (.sealSetup t port key []) s = .next u ∧ u.sr = s.sr ∧ u.dev.runs = true ∧
      u.dev.sealed = (s.dev.sealed || decide (key.toNat % 65536 = 0x5EA1)) ∧
      ∀ w later, later.length < 7 →
        exec (.sealSetup t port key (w :: later)) s = exec (.registerWrite t port (R.SEAL.base + 4) (w :: later) none) u) ∧
    (∀ (a be : Nat) (w : Word) (image : Option (List Byte)),
      let d := s.dev.atTime t
      d.sealed = true → d.served port a = true → inBar2 a = false → (regAt (d.place a)).isSome = true →
      sealedOff a = true → a % 4 = 0 →
      exec (.registerWrite t port a [(w, be)] image) s = .next (s.withDev (d.bump F.SEAL_DROPS_COUNT)))

/-- `DEV_RESET` resets a running device on its key through a port that live service enables, and does nothing otherwise; in HALTED
neither it nor `RST_N` has an effect (R643, R731, R747). -/
def Obligations.ResetsNeedTheirKey : Prop :=
  ∀ (s : State) (t : Nat) (port : HostPort) (key : Nat) (held : Bool),
    let d := s.dev.atTime t
    (d.mode = .run → d.livePort port = true → key % 65536 = 0xD0E5 →
      exec (.devReset t port key) s = .next (s.withDev (d.externalReset 2 false))) ∧
    ((d.mode ≠ .run ∨ d.livePort port = false ∨ key % 65536 ≠ 0xD0E5) → exec (.devReset t port key) s = .next (s.withDev d)) ∧
    (d.mode = .halted → exec (.externalReset t held) s = .next (s.withDev d))

/-! ### Accession, ledger, gates -/

/-- The order of accession numbers: each precedes those up to 2⁴⁷ − 1 after it modulo 2⁴⁸ and follows none of them, and none
precedes itself (R627). -/
def Obligations.AccessionOrder : Prop :=
  ∀ a n : Nat, a < 2 ^ 48 → n < 2 ^ 47 →
    (accBefore a ((a + n) % 2 ^ 48) = true ↔ 0 < n) ∧ accBefore ((a + n) % 2 ^ 48) a = false

/-- The driver pins and unpins: `PIN` sets `PINNED` of the selected entry, while fewer than 1,024 are pinned, and is refused with
REFUSED_FULL at 1,024; `UNPIN` clears both pins, but not of a MASKED entry that is not handled, which is refused; no other entry
changes (R647, R654). -/
def Obligations.LedgerPins : Prop :=
  ∀ (s : State) (t : Nat) (port : HostPort),
    let d := s.dev.atTime t
    let i := d.rd F.LEDGER_SEL_INDEX
    let e := sget d.ledger i
    d.runs = true → d.diagPort port = true →
    (i ≠ 0 → e.used = true → e.pinned = false → d.pinnedByDriver < 1024 →
      ∃ u, exec (.pin t port) s = .next u ∧ (sget u.dev.ledger i) = { e with pinned := true } ∧
        u.dev.rd F.LEDGER_STATUS_CODE = 0 ∧ ∀ j, j ≠ i → sget u.dev.ledger j = sget d.ledger j) ∧
    (i ≠ 0 → e.used = true → e.pinned = false → 1024 ≤ d.pinnedByDriver →
      ∃ u, exec (.pin t port) s = .next u ∧ u.dev.ledger = d.ledger ∧ u.dev.rd F.LEDGER_STATUS_CODE = 0x11) ∧
    (¬(e.cls = 1 ∧ e.handled = false) →
      ∃ u, exec (.unpin t port) s = .next u ∧ sget u.dev.ledger i = { e with pinned := false, autoPin := false } ∧
        u.dev.rd F.LEDGER_STATUS_CODE = 0 ∧ ∀ j, j ≠ i → sget u.dev.ledger j = sget d.ledger j) ∧
    (e.cls = 1 ∧ e.handled = false →
      ∃ u, exec (.unpin t port) s = .next u ∧ u.dev.ledger = d.ledger ∧ u.dev.rd F.LEDGER_STATUS_CODE = 0x12) ∧
    (∃ u, exec (.clearOverflow t port) s = .next u ∧ u.dev.overflow = {} ∧ u.dev.ledger = d.ledger)

/-- A draining gate with nothing left unanswered closes: its epoch advances by one modulo 256, and nothing else changes but its state;
a gate that does not drain ignores the command (R437). -/
def Obligations.GateCloses : Prop :=
  ∀ (s : State) (t part : Nat),
    let d := s.dev.atTime t
    d.runs = true →
    ((d.gate part).st = 1 → (part < 0x80 ∨ 0x83 < part) →
      exec (.gateClose t part []) s =
        .next (s.withDev (d.modGate part fun g => { g with st := 2, epoch := (g.epoch + 1) % 256 }))) ∧
    ((d.gate part).st ≠ 1 → exec (.gateClose t part []) s = .next (s.withDev d))

/-! ### Dispatch and arbitration -/

/-- `DISPATCH` starts, on an idle core, the eligible item that comes first: the item is in hand, the program counter stands at its entry
of the dispatch table, nothing is charged, and the item has left the queue (R193, R194). -/
def Obligations.DispatchStartsTheFirst : Prop :=
  ∀ (s : State) (t : Nat) (c : CoreId) (it : Item) (entry : Nat × Nat),
    let d := s.dev.atTime t
    d.runs = true → d.coreState c = 1 → (d.core c).busy = none → (∀ j ∈ (d.core c).queue, d.kept.transit ≤ j.elig) →
    it ∈ (d.core c).queue → d.canStart c it = true →
    (∀ j ∈ (d.core c).queue, d.canStart c j = true → j ≠ it → it.before j = true ∧ j.before it = false) →
    (imgTable (d.core c).image).find? (fun x => x.1 == it.entry) = some entry →
    ∃ u, exec (.dispatch t c) s = .next u ∧ u.sr = s.sr ∧ (u.dev.core c).busy = some it ∧ (u.dev.core c).pc = entry.2 ∧
      (u.dev.core c).nv = false ∧ (u.dev.core c).cycles = 0 ∧ (u.dev.core c).queue = (d.core c).queue.erase it ∧
      (∀ r : GReg, (u.dev.core c).get r = (d.core c).get r) ∧ ∀ e : Nat, e ≠ c → u.dev.core e = d.core e

/-- At an arbitration opportunity the controller selects the pending folio whose arbitration field, dominant bits first, is least, and of
equal ones the lowest; its transmission begins (R248). -/
def Obligations.ArbitrationSelects : Prop :=
  (∀ (d : Dev) (ch k : Nat), d.bestFolio ch = some k →
    let waits (j : Nat) : Prop := (d.folio ch j).st = 1 ∧ (d.folio ch j).ready ≤ d.kept.transit
    let field (j : Nat) : Nat := arbField (canOfBytes (d.folio ch j).data)
    k < 64 ∧ waits k ∧ ∀ j, j < 64 → waits j → field k < field j ∨ (field k = field j ∧ k ≤ j)) ∧
  (∀ (s : State) (t : Nat) (ch : CanIx) (k : Nat),
    let e := feedFolios ch (s.dev.atTime t)
    e.canSends ch = true → e.txFolio ch = none → e.bestFolio ch = some k →
    exec (.canArbitration t ch) s = .next (s.withDev (e.modFolio ch k fun f => { f with st := 2 })))

/-! ### The transit -/

/-- `LATCH_CUT` acts from 1,000/1,024 of the transit on and only once, and with a mirror delta within the transit's capacity it keeps the
stores as they then stand, with the output commands that the transit has read (R486, R671, R672). -/
def Obligations.LatchCutAtItsPoint : Prop :=
  ∀ (s : State) (t bytes : Nat),
    let d := s.dev.atTime t
    d.runs = true →
    ((d.cutDone = true ∨ d.now < d.point 1000) → exec (.latchCut t bytes) s = .next (s.withDev d)) ∧
    (d.cutDone = false → d.point 1000 ≤ d.now → bytes ≤ deltaCapacity d.len 1000 →
      ∃ u, exec (.latchCut t bytes) s = .next u ∧ u.dev.cutDone = true ∧ u.dev.cut = some d.finishOuts.keptNow ∧ u.dev.cutBytes = bytes ∧
        u.dev.kept = d.finishOuts.kept)

/-- When the delta of a transit is complete in a single unit, what a withdrawal returns to is the stores as the cut kept them (R630). -/
def Obligations.DeltaCompleteEmptiesTheJournal : Prop :=
  ∀ (s : State) (t : Nat),
    let d := s.dev.atTime t
    d.runs = true → d.cutDone = true → d.mirrors = false → d.follows = false → d.deltaDone = false →
    ∃ u, exec (.deltaComplete t) s = .next u ∧ u.dev.mirror = d.cut.getD d.keptNow ∧ u.dev.deltaDone = true ∧ u.sr = s.sr

/-- In a restart, a held reset or HALTED the transit counter advances by exactly one at each tick boundary; at an instant at which the tick
gives no boundary it stays, and nothing changes unless a power die that holds has a tick of its own there (R37, R38, R502). -/
def Obligations.TransitCounterGoesOn : Prop :=
  ∀ (s : State) (t : Nat) (sensed : Sensed), s.dev.mode ≠ .run → s.dev.mode ≠ .bootHeld → s.dev.mode ≠ .park →
    (s.dev.tickOk t = true → ∃ u, exec (.transitBoundary t sensed) s = .next u ∧
      u.dev.kept.transit = s.dev.kept.transit + 1 ∧ u.dev.mode = s.dev.mode ∧ u.sr = s.sr) ∧
    (s.dev.tickOk t = false → ∃ u, exec (.transitBoundary t sensed) s = .next u ∧
      u.dev.kept.transit = s.dev.kept.transit ∧ u.dev.mode = s.dev.mode ∧ u.sr = s.sr ∧
      ((s.dev.atTime t).ownTicks = [] → u = s))

/-- Between two changes of its rate a time domain's time grows with the local counter at its rate, to within a unit of 2⁻¹⁶ ns (R335). -/
def Obligations.TimeIsLinear : Prop :=
  ∀ (g : Seg) (loc n : Nat), g.loc0 ≤ loc →
    let exact := (n : Int) * 65536 * (4294967296 * 1000000000 + g.rate)
    let grown := g.timeAt (loc + n) - g.timeAt loc
    (grown - 1) * (4294967296 * 1000000000) < exact ∧ exact < (grown + 1) * (4294967296 * 1000000000)

/-! ### Doorbells -/

/-- Until the host has assigned a port's BARs, no memory request through the port does anything: no write, no read and no doorbell (R737). After
that, a doorbell through a port that its tenant is not bound to changes nothing but `DB_FOREIGN`; a valid one of a submission ring replaces
the ring's index and takes an accession number; an invalid one stalls the ring. It is invalid where the index is not below the
ring's size or fewer slots would be outstanding than before (R379, R387, R388, R420). -/
def Obligations.DoorbellWrites : Prop :=
  ∀ (s : State) (t : Nat) (port : HostPort) (tenant : Tenant) (ring : RingIx) (index : Fin 65536),
    let d := s.dev.atTime t
    let n := d.ringSize tenant ring
    let g := d.ring tenant ring
    let outstanding (i : Nat) : Nat := (i + n - g.head) % n
    let same := Host.Outcome.next (s.withDev d)
    (d.barsOn port = false →
      exec (.doorbell t port tenant ring index) s = same ∧ exec (.doorbellArm t port tenant ring) s = same ∧
      (∀ enable : Bool, exec (.ringReset t port tenant ring enable) s = same) ∧
      (∀ (addr : Nat) (words : List (Word × Nat)) (image : Option (List Byte)), exec (.registerWrite t port addr words image) s = same) ∧
      (∀ (key : Word) (later : List (Word × Nat)), exec (.sealSetup t port key later) s = same) ∧
      ∀ addr words : Nat, exec (.sideEffectRead t (.host port) addr words) s = same) ∧
    (d.runs = true → d.barsOn port = true → d.portOf tenant ≠ port →
      exec (.doorbell t port tenant ring index) s = .next (s.withDev (d.bump F.DB_FOREIGN_COUNT [port]))) ∧
    (d.runs = true → d.barsOn port = true → d.portOf tenant = port → d.serves port = true → d.quiet = false → d.ringOn tenant ring = true →
      d.ringStalled tenant ring = false → isSubmission (d.ringKind tenant ring) = true →
      ((index : Nat) < n ∧ outstanding g.tail ≤ outstanding index →
        ∃ u, exec (.doorbell t port tenant ring index) s = .next u ∧ u.dev.acc = (d.acc + 1) % 2 ^ 48 ∧
          (u.dev.ring tenant ring).tail = index ∧ (u.dev.ring tenant ring).dbs = g.dbs ++ [((index : Nat), d.acc)] ∧ u.sr = s.sr) ∧
      (¬((index : Nat) < n ∧ outstanding g.tail ≤ outstanding index) →
        ∃ u, exec (.doorbell t port tenant ring index) s = .next u ∧ u.dev.ringStalled tenant ring = true ∧
          (u.dev.ring tenant ring).tail = g.tail ∧ (u.dev.ring tenant ring).dbs = g.dbs ∧ u.sr = s.sr))

/-! ### The Strongroom -/

/-- A submission leaves every working slot, both counters, both kept proofs and the lifecycle as they were: a message is all or nothing,
and what it does comes with its commit (R570, R582). -/
def Obligations.SubmissionOnlyStages : Prop :=
  ∀ (s u : State) (t : Nat) (port page : HostPort) (len : Nat), exec (.submit t port page len) s = .next u →
    u.sr.slots = s.sr.slots ∧ u.sr.counter = s.sr.counter ∧ u.sr.pairCounter = s.sr.pairCounter ∧
    u.sr.proof = s.sr.proof ∧ u.sr.pairProof = s.sr.pairProof ∧ u.sr.lifecycle = s.sr.lifecycle ∧ u.sr.blown = s.sr.blown

/-- While a message is in hand a submission is refused with `REASON` 0x0C, and the message stays in hand (R573). -/
def Obligations.OneMessageAtATime : Prop :=
  ∀ (s : State) (t : Nat) (port page : HostPort) (len : Nat),
    let d := s.dev.atTime t
    d.runs = true → d.mailOk port page = true → d.inHand.isSome = true →
    ∃ u, exec (.submit t port page len) s = .next u ∧ u.sr = s.sr ∧ u.dev.inHand = d.inHand ∧
      u.dev.rd F.SR_STATUS_REASON [page] = 0x0C ∧ u.dev.rd F.SR_STATUS_DONE [page] = 1

/-- Replaying a proof places the kept reply of the kind chosen and changes nothing else: of the Strongroom's store nothing, of the device
only the page's mailbox registers (R576). A DECOMMISSIONED unit is apart (`DecommissionedRefusesMessages`). -/
def Obligations.ReplayPlacesTheKeptProof : Prop :=
  ∀ (s : State) (t : Nat) (port page : HostPort) (pair : Bool),
    let d := s.dev.atTime t
    let kept := if pair then s.sr.pairProof else s.sr.proof
    d.runs = true → d.mailOk port page = true → s.sr.lifecycle ≠ 4 →
    ∃ u, exec (.replayProof t port page pair) s = .next u ∧ u.sr = s.sr ∧ u.pending = s.pending ∧
      u.dev = { d with kept := { d.kept with regs := u.dev.kept.regs } } ∧
      (∀ w, w < 64 → u.dev.rd F.SR_REPLY_DATA [page, w] = ofLe (slice kept (4 * w) 4)) ∧
      u.dev.rd F.SR_STATUS_DONE [page] = 1 ∧ u.dev.rd F.SR_STATUS_REASON [page] = 0 ∧
      (∀ (g : Fld) (jx : List Nat), regKey g.reg jx ≠ regKey R.SR_CMD [page] → regKey g.reg jx ≠ regKey R.SR_STATUS [page] →
        (∀ w, w < 64 → regKey g.reg jx ≠ regKey R.SR_REPLY [page, w]) → u.dev.rd g jx = d.rd g jx)

/-- A DECOMMISSIONED unit refuses every well-formed message that it looks at, and the replay of a proof, with `REASON` 0x0A, and its store
stays (R558; that a replay is refused so is the model's reading, log entry 99). It looks at a message where none is in hand, no proof
reply is still to be placed, no transfer or blob of the pair is (the model's reading, log entry 178), and no backoff runs (R572, R573). -/
def Obligations.DecommissionedRefusesMessages : Prop :=
  ∀ (s : State) (t : Nat) (port page : HostPort) (len : Nat) (pair : Bool),
    let d := s.dev.atTime t
    s.sr.lifecycle = 4 → d.runs = true → d.mailOk port page = true →
    (d.srBusy = false → d.srWaits = false → msgForm ((d.srFields port page 1 (len % 512) false).srMsg page (len % 512)) = true →
      ∃ u, exec (.submit t port page len) s = .next u ∧ u.sr = s.sr ∧ u.dev.inHand = none ∧
        u.dev.rd F.SR_STATUS_REASON [page] = 0x0A ∧ u.dev.rd F.SR_STATUS_DONE [page] = 1) ∧
    (∃ u, exec (.replayProof t port page pair) s = .next u ∧ u.sr = s.sr ∧
      u.dev.rd F.SR_STATUS_REASON [page] = 0x0A ∧ u.dev.rd F.SR_STATUS_DONE [page] = 1)

/-! ### Power dies, inputs, park -/

/-- Within the inrush window an overcurrent does not trip a channel, nor does a current up to `OC_LIMIT`, nor one that has been above it for less
than `OC_TIME` (in units of 50 µs; the time counts from the end of the inrush window on); outside the window, a channel that is on and whose
corrected current has been above `OC_LIMIT` for `OC_TIME` trips, and is off (R465, R466). -/
def Obligations.OvercurrentTrips : Prop :=
  ∀ (s : State) (t ma since : Nat) (ch : ChanIx),
    let d := s.dev.atTime t
    let due := max since (d.ocFrom ch) + d.dieChf F.CH_PROT_OC_TIME ch * 50000
    d.mode ≠ .park →
    (d.inInrush ch = true → exec (.overcurrentTrip t ch ma since) s = .next (s.withDev d)) ∧
    (d.sensed ch ma ≤ d.ocLimit ch → exec (.overcurrentTrip t ch ma since) s = .next (s.withDev d)) ∧
    (d.now < due → exec (.overcurrentTrip t ch ma since) s = .next (s.withDev d)) ∧
    (d.inInrush ch = false → d.ocLimit ch < d.sensed ch ma → due ≤ d.now → (d.chan ch).outState ≠ 0 →
      ∃ u, exec (.overcurrentTrip t ch ma since) s = .next u ∧ (u.dev.chan ch).tripped = true ∧ (u.dev.chan ch).outState = 0 ∧ u.sr = s.sr)

/-- An input enters STUCK when it has been active without a break for `STUCK_T` seconds, and a `STUCK_T` of 0 disables the check
(R520). -/
def Obligations.StuckInputs : Prop :=
  ∀ (s : State) (t : Nat) (sw : InputIx),
    let d := s.dev.atTime t
    let x := (d.input sw).upTo (d.cranks (inputDie sw)) d.now
    let limit := d.swRd F.SW_GUARD_STUCK_T sw
    (limit = 0 → exec (.stuck t sw) s = .next (s.withDev d)) ∧
    (x.run < limit * 1000000000 → exec (.stuck t sw) s = .next (s.withDev d)) ∧
    (limit ≠ 0 → limit * 1000000000 ≤ x.run → x.value = true → x.chatter = false → d.mode ≠ .park →
      ∃ u, exec (.stuck t sw) s = .next u ∧ (u.dev.input sw).stuck = true ∧ (u.dev.input sw).value = true ∧ u.sr = s.sr)

/-- `PARK_ENTRY` parks, at a boundary, a running device whose sleep has committed, once the transit after the commit's has published what the
commit wrote, and no other (R25, R540). -/
def Obligations.ParkNeedsItsCommit : Prop :=
  ∀ (s : State) (t : Nat),
    let d := s.dev.atTime t
    let due := d.runs = true ∧ d.park.committed = true ∧ d.park.commitTransit + 2 ≤ d.kept.transit ∧ d.now = d.tickStart
    (due → ∃ u, exec (.parkEntry t) s = .next u ∧ u.dev.mode = .park ∧ u.dev.boot.lsOn = false ∧ u.sr = s.sr) ∧
    (¬due → exec (.parkEntry t) s = .next (s.withDev d))

/-! ### Every command completes -/

/-- Each command named here completes: for every state and every operand (the rules put no further condition on its being carried
out), exec answers a next state, which is that of the command's own effect, and the Strongroom's store and the waiting
commands change only where it says so. Resets, the boot and the rails (R727–R735, R762, R764). The commands: POWER_ON_RESET,
EXTERNAL_RESET, DEV_RESET, WAKE_BOOT, RESTART_COMPLETE, LS_PG_TIMEOUT, LS_PG_HIGH, RST_N_RELEASE. -/
def Obligations.BootCommandsComplete : Prop :=
  ∀ s : State,
    (∀ (sideB memOk : Bool) (pg : Option Nat), exec (.powerOnReset sideB memOk pg) s = .next (s.withBoth (powerOn sideB memOk pg (s.dev, s.sr)))) ∧
    (∀ (t : Nat) (held : Bool), exec (.externalReset t held) s = .next (s.withDev (rstLow held (s.dev.atTime t)))) ∧
    (∀ (t : Nat) (port : HostPort) (key : Nat),
      exec (.devReset t port key) s = .next (s.withDev (devReset port key (s.dev.atTime t)))) ∧
    (∀ (t : Nat) (pg : Option Nat), exec (.wakeBoot t pg) s = .next (s.withBoth (wakeBoot pg (s.dev.atTime t, s.sr)))) ∧
    (∀ (t : Nat) (tested : Bool), exec (.restartComplete t tested) s = .next (s.withBoth (restartComplete tested (s.dev.atTime t, s.sr)))) ∧
    (∀ (t : Nat), exec (.lsPgTimeout t) s = .next (s.withDev (lsPgTimeout (s.dev.atTime t)))) ∧
    (∀ (t : Nat), exec (.lsPgHigh t) s = .next (s.withBoth (lsPgHigh (s.dev.atTime t, s.sr)))) ∧
    (∀ (t : Nat), exec (.rstNRelease t) s = .next (s.withDev (rstRelease (s.dev.atTime t))))

/-- Each command named here completes: for every state and every operand (the rules put no further condition on its being carried
out), exec answers a next state, which is that of the command's own effect, and the Strongroom's store and the waiting
commands change only where it says so. Inbound writes and reads, their deliveries, the quiesce gates and configuration
requests (R8–R12, R436–R458, R737–R748). A read may come from a host port or from either supervisor. The commands: SEAL,
REGISTER_WRITE, SIDE_EFFECT_READ, READ_DELIVERY, TRANSIT_COUNT_LO, TD_NOW_SEC_LO, RX_OCTETS, SR_COMMIT_LO, ACC_NOW_LO,
FAULT_LAST_LO, PAIR_TAKEOVER_LO, LS_APPLY_LO, LEDGER_DATA0, RECEIVE_FOLIO_READ, GATE_CLOSE, HOLD_LIMIT_EXPIRY, STALE_REPLY,
COLLECT_TIMEOUT, SERIAL_RELEASE, CONFIGURATION_REQUEST. -/
def Obligations.RegisterAccessesComplete : Prop :=
  ∀ s : State,
    (∀ (t : Nat) (port : HostPort) (key : Word) (later : List (Word × Nat)),
      exec (.sealSetup t port key later) s =
        .next (s.withBoth (registerWrite port R.SEAL.base ((key, 15) :: later) none (s.dev.atTime t, s.sr)))) ∧
    (∀ (t : Nat) (port : HostPort) (addr : Nat) (words : List (Word × Nat)) (image : Option (List Byte)),
      exec (.registerWrite t port addr words image) s =
        .next (s.withBoth (registerWrite port addr words image (s.dev.atTime t, s.sr)))) ∧
    (∀ (t : Nat) (reader : Reader) (addr words : Nat),
      exec (.sideEffectRead t reader addr words) s = .next (s.withDev (busRead (readerCode reader) addr words s.sr (s.dev.atTime t)))) ∧
    (∀ (t : Nat) (reader : Reader) (serial : Nat),
      exec (.readDelivery t reader serial) s = .next (s.withDev (readDelivered (readerCode reader) serial (fun _ => true) (s.dev.atTime t)))) ∧
    (∀ (t : Nat) (port : HostPort),
      exec (.transitCountLo t port) s = .next (s.withDev (busRead port (regKey R.TRANSIT_COUNT_LO []) 1 s.sr (s.dev.atTime t)))) ∧
    (∀ (t : Nat) (port : HostPort) (dom : TimeDom),
      exec (.tdNowSecLo t port dom) s = .next (s.withDev (busRead port (regKey R.TD_NOW_SEC_LO [dom]) 1 s.sr (s.dev.atTime t)))) ∧
    (∀ (t : Nat) (port : HostPort) (n : EthIx) (tx : Bool),
      exec (.rxOctets t port n tx) s =
        .next (s.withDev (busRead port (regKey (if tx then R.TX_OCTETS_LO else R.RX_OCTETS_LO) [n]) 1 s.sr (s.dev.atTime t)))) ∧
    (∀ (t : Nat) (port : HostPort) (page : HostPort),
      exec (.srCommitLo t port page) s = .next (s.withDev (busRead port (regKey R.SR_COMMIT_LO [page]) 1 s.sr (s.dev.atTime t)))) ∧
    (∀ (t : Nat) (port : HostPort),
      exec (.accNowLo t port) s = .next (s.withDev (busRead port (regKey R.ACC_NOW_LO []) 1 s.sr (s.dev.atTime t)))) ∧
    (∀ (t : Nat) (port : HostPort),
      exec (.faultLastLo t port) s = .next (s.withDev (busRead port (regKey R.FAULT_LAST_LO []) 1 s.sr (s.dev.atTime t)))) ∧
    (∀ (t : Nat) (port : HostPort),
      exec (.pairTakeoverLo t port) s = .next (s.withDev (busRead port (regKey R.PAIR_TAKEOVER_LO []) 1 s.sr (s.dev.atTime t)))) ∧
    (∀ (t : Nat) (port : HostPort),
      exec (.lsApplyLo t port) s = .next (s.withDev (busRead port (regKey R.LS_APPLY_LO []) 1 s.sr (s.dev.atTime t)))) ∧
    (∀ (t : Nat) (port : HostPort),
      exec (.ledgerData0 t port) s = .next (s.withDev (busRead port (regKey R.LEDGER_DATA [0]) 1 s.sr (s.dev.atTime t)))) ∧
    (∀ (t : Nat) (reader : Reader) (serial : Nat),
      exec (.receiveFolioRead t reader serial) s = .next (s.withDev (readDelivered (readerCode reader) serial (fun w => w.head) (s.dev.atTime t)))) ∧
    (∀ (t : Nat) (part : Nat) (late : List (Nat × Nat)),
      exec (.gateClose t part late) s = .next (s.withDev (let d := s.dev.atTime t; if d.runs then closeGate part late d else d))) ∧
    (∀ (t : Nat) (part : Nat),
      exec (.holdLimitExpiry t part) s = .next (s.withDev (let d := s.dev.atTime t; if d.runs then holdExpired part d else d))) ∧
    (∀ (t : Nat) (slip : Slip),
      exec (.staleReply t slip) s = .next (s.withDev (let d := s.dev.atTime t; if d.runs then staleReply slip d else d))) ∧
    (∀ (t : Nat) (port : HostPort) (serial : Nat),
      exec (.collectTimeout t port serial) s =
        .next (s.withDev (let d := s.dev.atTime t; if d.runs then collectTimeout port serial d else d))) ∧
    (∀ (t : Nat) (requester serial : Nat),
      exec (.serialRelease t requester serial) s =
        .next (s.withDev (let d := s.dev.atTime t; if d.runs then serialRelease requester serial d else d))) ∧
    (∀ (t : Nat) (port : HostPort) (item : CfgItem) (write : Option Nat),
      exec (.configurationRequest t port item write) s = .next (s.withDev (cfgRequest port item write s.sr (s.dev.atTime t))))

/-- Each command named here completes: for every state and every operand (the rules put no further condition on its being carried
out), exec answers a next state, which is that of the command's own effect, and the Strongroom's store and the waiting
commands change only where it says so. The transit and the work of queues, recorder and classifier (R33–R66, R100, R113, R128,
R178, R486, R487, R671). The commands: TRANSIT_BOUNDARY, LATCH_CUT, DELTA_COMPLETE, COMMIT_STROBE, DISPATCH, CARRY_OVER,
REFILL, SPAN_CLOSE, CLASSIFICATION, LIVENESS_TIMEOUT. -/
def Obligations.TransitCommandsComplete : Prop :=
  ∀ s : State,
    (∀ (t : Nat) (sensed : Sensed),
      exec (.transitBoundary t sensed) s = .next (s.withDev (transitBoundary t sensed s.sr s.dev))) ∧
    (∀ (t : Nat) (bytes : Nat), exec (.latchCut t bytes) s = .next (s.withDev (latchCut bytes (s.dev.atTime t)))) ∧
    (∀ (t : Nat), exec (.deltaComplete t) s = .next (s.withDev (deltaComplete (s.dev.atTime t)))) ∧
    (∀ (t : Nat) (short : Bool),
      exec (.commitStrobe t short) s = .next (s.withDev (commitStrobe ((s.dev.atTime t).recFalls short)))) ∧
    (∀ (t : Nat) (core : CoreId),
      exec (.dispatch t core) s = .next (s.withDev (dispatchCore core (carryCore core (s.dev.atTime t))))) ∧
    (∀ (core : CoreId), exec (.carryOver core) s = .next (s.withDev (if s.dev.runs then carryCore core s.dev else s.dev))) ∧
    (∀ (t : Nat) (queue : QueueIx),
      exec (.refill t queue) s = .next (s.withDev (let d := s.dev.atTime t; if d.runs then refillQueue queue d else d))) ∧
    (∀ (t : Nat), exec (.spanClose t) s = .next (s.withDev (closeSpans (s.dev.atTime t)))) ∧
    (∀ (t : Nat), exec (.classification t) s = .next (s.withDev (classifyNext (s.dev.atTime t)))) ∧
    (∀ (t : Nat) (index : CatIx),
      exec (.livenessTimeout t index) s = .next (s.withDev (let d := s.dev.atTime t; if d.runs then checkLive index d else d)))

/-- Each command named here completes: for every state and every operand (the rules put no further condition on its being carried
out), exec answers a next state, which is that of the command's own effect, and the Strongroom's store and the waiting
commands change only where it says so. Helper calls (R198–R211, R791, R792). The commands: PKT_READ, PKT_NEW, PKT_APPEND,
PKT_COMMIT, PKT_FORWARD, PKT_EDIT, ACF_NEXT, FOLIO_PUT, FOLIO_STATE, OUT_CMD, EVENT, REC_TRIGGER, CIPHER, MAC_TX, MAC_RX,
CAT_READ, TP_OPEN, TP_DATA, TP_CLOSE, TP_REPLY, TP_SEGMENT, TP_ABORT, TP_EXPIRED, TIME_NOW, SYNC_FEED. -/
def Obligations.HelperCallsComplete : Prop :=
  ∀ s : State,
    (∀ (t : Nat) (core : CoreId) (dst off len : Nat),
      exec (.pktRead t core dst off len) s = .next (s.withDev (hPktRead core dst off len (s.dev.atTime t)))) ∧
    (∀ (t : Nat) (core : CoreId) (kind : PktKind),
      exec (.pktNew t core kind) s = .next (s.withDev (hPktNew core kind (s.dev.atTime t)))) ∧
    (∀ (t : Nat) (core : CoreId) (builder src len : Nat),
      exec (.pktAppend t core builder src len) s = .next (s.withDev (hPktAppend core builder src len (s.dev.atTime t)))) ∧
    (∀ (t : Nat) (core : CoreId) (builder : Nat) (queue : QueueIx) (timing : Option Nat),
      exec (.pktCommit t core builder queue timing) s = .next (s.withDev (hPktCommit core builder queue timing (s.dev.atTime t)))) ∧
    (∀ (t : Nat) (core : CoreId) (queue : QueueIx),
      exec (.pktForward t core queue) s = .next (s.withDev (hPktForward core queue (s.dev.atTime t)))) ∧
    (∀ (t : Nat) (core : CoreId) (addr : Nat),
      exec (.pktEdit t core addr) s = .next (s.withDev (hPktEdit core addr (s.dev.atTime t)))) ∧
    (∀ (t : Nat) (core : CoreId) (k : Nat), exec (.acfNext t core k) s = .next (s.withDev (hAcfNext core k (s.dev.atTime t)))) ∧
    (∀ (t : Nat) (core : CoreId) (builder : Option Nat) (ch : CanIx) (folio : FolioIx) (replace : Bool),
      exec (.folioPut t core builder ch folio replace) s =
        .next (s.withDev (hFolioPut core builder ch folio replace (s.dev.atTime t)))) ∧
    (∀ (t : Nat) (core : CoreId) (ch : CanIx) (folio : FolioIx),
      exec (.folioState t core ch folio) s = .next (s.withDev (hFolioState core ch folio (s.dev.atTime t)))) ∧
    (∀ (t : Nat) (core : CoreId), exec (.outCmd t core) s = .next (s.withDev (hOutCmd core (s.dev.atTime t)))) ∧
    (∀ (t : Nat) (core : CoreId) (tenant : Tenant) (addr : Nat),
      exec (.event t core tenant addr) s = .next (s.withDev (hEvent core tenant addr (s.dev.atTime t)))) ∧
    (∀ (t : Nat) (core : CoreId), exec (.recTrigger t core) s = .next (s.withDev (hRecTrigger core (s.dev.atTime t)))) ∧
    (∀ (t : Nat) (core : CoreId), exec (.cipher t core) s = .next (s.withDev (hCipher core s.sr (s.dev.atTime t)))) ∧
    (∀ (t : Nat) (core : CoreId) (addr buf : Nat),
      exec (.macTx t core addr buf) s = .next (s.withDev (hMacTx core addr buf s.sr (s.dev.atTime t)))) ∧
    (∀ (t : Nat) (core : CoreId) (addr buf : Nat),
      exec (.macRx t core addr buf) s = .next (s.withDev (hMacRx core addr buf s.sr (s.dev.atTime t)))) ∧
    (∀ (t : Nat) (core : CoreId) (index dst : Nat),
      exec (.catRead t core index dst) s = .next (s.withDev (hCatRead core index dst (s.dev.atTime t)))) ∧
    (∀ (t : Nat) (core : CoreId) (ctx : TpCtx),
      exec (.tpOpen t core ctx) s = .next (s.withDev (hTpOpen core ctx (s.dev.atTime t)))) ∧
    (∀ (t : Nat) (core : CoreId) (ctx : TpIx),
      exec (.tpData t core ctx) s = .next (s.withDev (hTpData core ctx (s.dev.atTime t)))) ∧
    (∀ (t : Nat) (core : CoreId) (ctx : TpIx),
      exec (.tpClose t core ctx) s = .next (s.withDev (hTpClose core ctx (s.dev.atTime t)))) ∧
    (∀ (t : Nat) (core : CoreId) (ctx : TpIx) (kind : TpReplyKind) (n : Nat),
      exec (.tpReply t core ctx kind n) s = .next (s.withDev (hTpReply core ctx kind n (s.dev.atTime t)))) ∧
    (∀ (t : Nat) (core : CoreId) (ctx : TpIx) (n src : Nat) (queue : QueueIx),
      exec (.tpSegment t core ctx n src queue) s = .next (s.withDev (hTpSegment core ctx n src queue (s.dev.atTime t)))) ∧
    (∀ (t : Nat) (core : CoreId) (ctx : TpIx),
      exec (.tpAbort t core ctx) s = .next (s.withDev (hTpAbort core ctx (s.dev.atTime t)))) ∧
    (∀ (t : Nat) (fe : FeId) (ctx : TpIx),
      exec (.tpExpired t fe ctx) s = .next (s.withDev (let d := s.dev.atTime t; if d.runs then tpExpired fe ctx d else d))) ∧
    (∀ (t : Nat) (core : CoreId), exec (.timeNow t core) s = .next (s.withDev (hTimeNow core (s.dev.atTime t)))) ∧
    (∀ (t : Nat) (core : CoreId), exec (.syncFeed t core) s = .next (s.withDev (hSyncFeed core (s.dev.atTime t))))

/-- Each command named here completes: for every state and every operand (the rules put no further condition on its being carried
out), exec answers a next state, which is that of the command's own effect, and the Strongroom's store and the waiting
commands change only where it says so. Time domains, LIN and CAN (R231–R281, R345–R356). The commands: FOLIO_LOCK_EXPIRY,
LIN_WAKE_REPEAT, OCCULTATION, SET, ACCEPT_STEP, CAN_RX_FRAME, CAN_ARBITRATION, CAN_TX_END, RECOVER, RECOVERY_COMPLETE, EXPIRE,
LIN_SLOT, LIN_RESPONSE, LIN_HEADER, LIN_PUBLISH_UPDATE, LIN_TABLE_SWITCH, BUS_INTEGRATION. -/
def Obligations.TimeAndFieldBusCommandsComplete : Prop :=
  ∀ s : State,
    (∀ (ch : CanIx) (queueB : Bool),
      exec (.folioLockExpiry ch queueB) s = .next (s.withDev (if s.dev.runs then folioLockExpiry ch queueB s.dev else s.dev))) ∧
    (∀ (t : Nat) (ch : LinIx), exec (.linWakeRepeat t ch) s = .next (s.withDev (linWakeRepeat ch (s.dev.atTime t)))) ∧
    (∀ (t : Nat) (dom : TimeDom),
      exec (.occultation t dom) s =
        .next (s.withDev (let d := s.dev.atTime t; if d.runs && d.now == d.tickStart && d.tdRuns dom then occultDomain dom d else d))) ∧
    (∀ (t : Nat) (via : Via) (dom : TimeDom),
      exec (.setTime t via dom) s = .next (s.withDev (setTimeVia via dom (s.dev.atTime t)))) ∧
    (∀ (t : Nat) (via : Via) (dom : TimeDom),
      exec (.acceptStep t via dom) s = .next (s.withDev (acceptStepVia via dom (s.dev.atTime t)))) ∧
    (∀ (t : Nat) (ch : CanIx) (frame : CanFrame) (ending : CanRx) (dataPhase : Bool) (sof : Nat) (short : Bool),
      exec (.canRxFrame t ch frame ending dataPhase sof short) s =
        .next (s.withDev (canFrameSeen ch frame ending dataPhase sof ((s.dev.atTime t).recFalls short)))) ∧
    (∀ (t : Nat) (ch : CanIx),
      exec (.canArbitration t ch) s = .next (s.withDev (canArbitrate ch (feedFolios ch (s.dev.atTime t))))) ∧
    (∀ (t : Nat) (ch : CanIx) (ending : CanTx) (dataPhase : Bool) (loop : Option Nat) (sof : Nat),
      exec (.canTxEnd t ch ending dataPhase loop sof) s =
        .next (s.withDev (canTxEnd ch ending dataPhase loop sof (s.dev.atTime t)))) ∧
    (∀ (t : Nat) (via : Via) (ch : CanIx), exec (.recover t via ch) s = .next (s.withDev (recoverVia via ch (s.dev.atTime t)))) ∧
    (∀ (t : Nat) (ch : CanIx), exec (.recoveryComplete t ch) s = .next (s.withDev (recoveryComplete ch (s.dev.atTime t)))) ∧
    (∀ (t : Nat) (ch : CanIx) (folio : FolioIx),
      exec (.expire t ch folio) s = .next (s.withDev (let d := s.dev.atTime t; if d.runs then expireFolio ch folio d else d))) ∧
    (∀ (t : Nat) (ch : LinIx), exec (.linSlot t ch) s = .next (s.withDev (linSlot ch (s.dev.atTime t)))) ∧
    (∀ (t : Nat) (ch : LinIx) (resp : LinResp) (short : Bool),
      exec (.linResponse t ch resp short) s = .next (s.withDev (linResponse ch resp ((s.dev.atTime t).recFalls short)))) ∧
    (∀ (t : Nat) (ch : LinIx) (pid : Byte) (brkLen bit brk : Nat),
      exec (.linHeader t ch pid brkLen bit brk) s = .next (s.withDev (linHeader ch pid.toNat brkLen bit brk (s.dev.atTime t)))) ∧
    (∀ (t : Nat) (ch : LinIx), exec (.linPublishUpdate t ch) s = .next (s.withDev (linPublishUpdate ch (s.dev.atTime t)))) ∧
    (∀ (t : Nat) (via : Via) (ch : LinIx) (table : Fin 4),
      exec (.linTableSwitch t via ch table) s = .next (s.withDev (tableSwitchVia via ch table (s.dev.atTime t)))) ∧
    (∀ (t : Nat) (ch : CanIx), exec (.busIntegration t ch) s = .next (s.withDev (busIntegrated ch (s.dev.atTime t))))

/-- Each command named here completes: for every state and every operand (the rules put no further condition on its being carried
out), exec answers a next state, which is that of the command's own effect, and the Strongroom's store and the waiting
commands change only where it says so. Ethernet ports (R282–R333, R357–R369). The commands: ETH_RX_FRAME,
TRANSMIT_OPPORTUNITY, STAMP_REPORT, WINDOW_EDGE, LAUNCH_TIME, LINK_CHANGE, PLCA_BEACON, PLCA_OPPORTUNITY, BEACON_LOSS. -/
def Obligations.EthernetCommandsComplete : Prop :=
  ∀ s : State,
    (∀ (t : Nat) (n : EthIx) (frame : EthFrame) (sof : Nat) (short : Bool),
      exec (.ethRxFrame t n frame sof short) s = .next (s.withDev (ethReceive n sof frame s.sr ((s.dev.atTime t).recFalls short)))) ∧
    (∀ (t : Nat) (n : EthIx),
      exec (.transmitOpportunity t n) s = .next (s.withDev (transmitOpportunity n s.sr (s.dev.atTime t)))) ∧
    (∀ (t : Nat) (n : EthIx),
      exec (.stampReport t n) s = .next (s.withDev (let d := s.dev.atTime t; if d.runs then stampReport n d else d))) ∧
    (∀ (t : Nat) (n : EthIx) (cls : Fin 3),
      exec (.windowEdge t n cls) s = .next (s.withDev (let d := s.dev.atTime t; if d.runs then windowEdge n cls d else d))) ∧
    (∀ (t : Nat) (n : EthIx) (tc : TcIx),
      exec (.launchTime t n tc) s = .next (s.withDev (let d := s.dev.atTime t; if d.runs then launchTimeComes n tc d else d))) ∧
    (∀ (t : Nat) (n : EthIx) (up plca : Bool) (resolved : Option Nat),
      exec (.linkChange t n up plca resolved) s = .next (s.withDev (linkChange n up plca resolved (s.dev.atTime t)))) ∧
    (∀ (t : Nat) (n : EthIx), exec (.plcaBeacon t n) s = .next (s.withDev (plcaBeacon n (s.dev.atTime t)))) ∧
    (∀ (t : Nat) (n : EthIx), exec (.plcaOpportunity t n) s = .next (s.withDev (plcaOpportunity n s.sr (s.dev.atTime t)))) ∧
    (∀ (t : Nat) (n : EthIx), exec (.beaconLoss t n) s = .next (s.withDev (beaconLoss n (s.dev.atTime t))))

/-- Each command named here completes: for every state and every operand (the rules put no further condition on its being carried
out), exec answers a next state, which is that of the command's own effect, and the Strongroom's store and the waiting
commands change only where it says so. Rings, descriptors, host commands and tables (R142, R154, R158, R383–R425). The
commands: WRITE_BACK, DOORBELL, DOORBELL_ARM, RING_RESET, HOST_PORT_RESET, DESCRIPTOR_FETCH, TX_FRAME, TX_FOLIO, CANCEL,
RX_BUF, OUT_CMD_DESCRIPTOR, REC_TRIGGER_COMMAND, REC_READOUT, REC_RELEASE, TABLE, INDIRECT, CLEAR_BLOCKED, CLEAR_RED_LATCH,
WRITE_FILTER, WRITE_METER, INSTALL_TRANSMIT_SA, INSTALL_RECEIVE_SA, REMOVE_SA, SET_TX_AN, ADD_RECEIVE_CHANNEL,
REMOVE_RECEIVE_CHANNEL, TBL_WRITE_OR_INSERT, TBL_READ_OR_LOOKUP, TBL_INVALIDATE_OR_DELETE, RECEIVE_DELIVERY, RING_STARVED,
DMA_TIMEOUT, HOST_PORT_LINK_UP. -/
def Obligations.HostCommandsComplete : Prop :=
  ∀ s : State,
    (∀ (t : Nat) (tenant : Tenant) (ring : RingIx),
      exec (.writeBack t tenant ring) s = .next (s.withDev (writeBack tenant ring (s.dev.atTime t)))) ∧
    (∀ (t : Nat) (port : HostPort) (tenant : Tenant) (ring : RingIx) (index : Fin 65536),
      exec (.doorbell t port tenant ring index) s = .next (s.withDev (doorbell port tenant ring index false (s.dev.atTime t)))) ∧
    (∀ (t : Nat) (port : HostPort) (tenant : Tenant) (ring : RingIx),
      exec (.doorbellArm t port tenant ring) s = .next (s.withDev (doorbell port tenant ring 0 true (s.dev.atTime t)))) ∧
    (∀ (t : Nat) (port : HostPort) (tenant : Tenant) (ring : RingIx) (enable : Bool),
      exec (.ringReset t port tenant ring enable) s = .next (s.withDev (ringReset port tenant ring enable (s.dev.atTime t)))) ∧
    (∀ (t : Nat) (port : HostPort) (linkDown perst : Bool),
      exec (.hostPortReset t port linkDown perst) s = .next (s.withDev (portReset port linkDown perst (s.dev.atTime t)))) ∧
    (∀ (t : Nat) (tenant : Tenant) (ring : RingIx) (item : HostRead),
      exec (.descriptorFetch t tenant ring item) s = .next (s.withDev (fetchItem tenant ring item (s.dev.atTime t)))) ∧
    (∀ (t : Nat) (tenant : Tenant) (ring : RingIx),
      exec (.txFrame t tenant ring) s = .next (s.withDev (txFrame tenant ring (s.dev.atTime t)))) ∧
    (∀ (t : Nat) (tenant : Tenant) (ring : RingIx),
      exec (.txFolio t tenant ring) s = .next (s.withDev (txFolio tenant ring (s.dev.atTime t)))) ∧
    (∀ (t : Nat) (tenant : Tenant) (ring : RingIx),
      exec (.cancel t tenant ring) s = .next (s.withDev (cancelItem tenant ring (s.dev.atTime t)))) ∧
    (∀ (t : Nat) (tenant : Tenant) (ring : RingIx) (slot : List Byte),
      exec (.rxBuf t tenant ring slot) s = .next (s.withDev (postBuffer tenant ring slot (s.dev.atTime t)))) ∧
    (∀ (t : Nat) (tenant : Tenant) (ring : RingIx),
      exec (.outCmdDescriptor t tenant ring) s = .next (s.withDev (outCmdItem tenant ring (s.dev.atTime t)))) ∧
    (∀ (t : Nat) (tenant : Tenant) (ring : RingIx),
      exec (.recTriggerCommand t tenant ring) s =
        .next (s.withDev (hostCommand tenant ring (fun b => match b with | .recTrigger => true | _ => false) (s.dev.atTime t)))) ∧
    (∀ (t : Nat) (tenant : Tenant) (ring : RingIx),
      exec (.recReadout t tenant ring) s =
        .next (s.withDev (hostCommand tenant ring (fun b => match b with | .recReadout _ _ _ _ => true | _ => false) (s.dev.atTime t)))) ∧
    (∀ (t : Nat) (tenant : Tenant) (ring : RingIx),
      exec (.recRelease t tenant ring) s =
        .next (s.withDev (hostCommand tenant ring (fun b => match b with | .recRelease _ => true | _ => false) (s.dev.atTime t)))) ∧
    (∀ (t : Nat) (tenant : Tenant) (ring : RingIx),
      exec (.table t tenant ring) s =
        .next (s.withDev (hostCommand tenant ring (fun b => match b with | .table _ _ _ _ _ => true | _ => false) (s.dev.atTime t)))) ∧
    (∀ (t : Nat) (tenant : Tenant) (ring : RingIx),
      exec (.indirect t tenant ring) s =
        .next (s.withDev (hostCommand tenant ring (fun b => match b with | .indirect _ _ _ => true | _ => false) (s.dev.atTime t)))) ∧
    (∀ (t : Nat) (tenant : Tenant) (ring : RingIx),
      exec (.clearBlocked t tenant ring) s =
        .next (s.withDev (hostCommand tenant ring (fun b => match b with | .stream op _ _ => op == 1 | _ => false) (s.dev.atTime t)))) ∧
    (∀ (t : Nat) (tenant : Tenant) (ring : RingIx),
      exec (.clearRedLatch t tenant ring) s =
        .next (s.withDev (hostCommand tenant ring (fun b => match b with | .stream op _ _ => op == 2 | _ => false) (s.dev.atTime t)))) ∧
    (∀ (t : Nat) (via : Via) (index : FilterIx) (words : List Word),
      exec (.writeFilter t via index words) s = .next (s.withDev (writeFilterVia via index words (s.dev.atTime t)))) ∧
    (∀ (t : Nat) (via : Via) (index : MeterIx) (words : List Word),
      exec (.writeMeter t via index words) s = .next (s.withDev (writeMeterVia via index words (s.dev.atTime t)))) ∧
    (∀ (t : Nat) (tenant : Tenant) (ring : RingIx),
      exec (.installTransmitSa t tenant ring) s =
        .next (s.withDev (hostCommand tenant ring (fun b => match b with | .macsec _ op _ _ _ => op == 1 | _ => false) (s.dev.atTime t)))) ∧
    (∀ (t : Nat) (tenant : Tenant) (ring : RingIx),
      exec (.installReceiveSa t tenant ring) s =
        .next (s.withDev (hostCommand tenant ring (fun b => match b with | .macsec _ op _ _ _ => op == 2 | _ => false) (s.dev.atTime t)))) ∧
    (∀ (t : Nat) (tenant : Tenant) (ring : RingIx),
      exec (.removeSa t tenant ring) s =
        .next (s.withDev (hostCommand tenant ring (fun b => match b with | .macsec _ op _ _ _ => op == 3 | _ => false) (s.dev.atTime t)))) ∧
    (∀ (t : Nat) (tenant : Tenant) (ring : RingIx),
      exec (.setTxAn t tenant ring) s =
        .next (s.withDev (hostCommand tenant ring (fun b => match b with | .macsec _ op _ _ _ => op == 4 | _ => false) (s.dev.atTime t)))) ∧
    (∀ (t : Nat) (tenant : Tenant) (ring : RingIx),
      exec (.addReceiveChannel t tenant ring) s =
        .next (s.withDev (hostCommand tenant ring (fun b => match b with | .macsec _ op _ _ _ => op == 5 | _ => false) (s.dev.atTime t)))) ∧
    (∀ (t : Nat) (tenant : Tenant) (ring : RingIx),
      exec (.removeReceiveChannel t tenant ring) s =
        .next (s.withDev (hostCommand tenant ring (fun b => match b with | .macsec _ op _ _ _ => op == 6 | _ => false) (s.dev.atTime t)))) ∧
    (∀ (t : Nat) (port : HostPort) (table : Fin 16) (index : Nat),
      exec (.tblWriteOrInsert t port table index) s =
        .next (s.withDev ((s.dev.atTime t).byRegister port R.TBL_CMD.base fun d => tblCommand table 1 index d))) ∧
    (∀ (t : Nat) (port : HostPort) (table : Fin 16) (index : Nat),
      exec (.tblReadOrLookup t port table index) s =
        .next (s.withDev ((s.dev.atTime t).byRegister port R.TBL_CMD.base fun d => tblCommand table 2 index d))) ∧
    (∀ (t : Nat) (port : HostPort) (table : Fin 16) (index : Nat),
      exec (.tblInvalidateOrDelete t port table index) s =
        .next (s.withDev ((s.dev.atTime t).byRegister port R.TBL_CMD.base fun d => tblCommand table 3 index d))) ∧
    (∀ (t : Nat) (tenant : Tenant) (ring : RingIx),
      exec (.receiveDelivery t tenant ring) s = .next (s.withDev (receiveDelivery tenant ring (s.dev.atTime t)))) ∧
    (∀ (t : Nat) (tenant : Tenant) (ring : RingIx),
      exec (.ringStarved t tenant ring) s = .next (s.withDev (ringStarved tenant ring (s.dev.atTime t)))) ∧
    (∀ (t : Nat) (tenant : Tenant) (ring : RingIx) (since : Nat) (payload : Bool),
      exec (.dmaTimeout t tenant ring since payload) s = .next (s.withDev (dmaTimeout tenant ring since payload (s.dev.atTime t)))) ∧
    (∀ (t : Nat) (port : HostPort),
      exec (.hostPortLinkUp t port) s = .next (s.withDev (portLinkUp port (s.dev.atTime t))))

/-- Each command named here completes: for every state and every operand (the rules put no further condition on its being carried
out), exec answers a next state, which is that of the command's own effect, and the Strongroom's store and the waiting
commands change only where it says so. Tenant cipher operations and the Strongroom (R550–R624). The commands: ENCRYPT,
DECRYPT, MAC_GENERATE, MAC_VERIFY, UNWRAP, SIGN, SUBMIT, REPLAY_PROOF, KEY_COMMIT_BOUNDARY, SCRUB, BACKOFF_EXPIRY. -/
def Obligations.CipherAndKeyCommandsComplete : Prop :=
  ∀ s : State,
    (∀ (t : Nat) (tenant : Tenant),
      exec (.encrypt t tenant) s = .next (s.withDev (tenantCipher tenant cEncrypt s.sr (s.dev.atTime t)))) ∧
    (∀ (t : Nat) (tenant : Tenant),
      exec (.decrypt t tenant) s = .next (s.withDev (tenantCipher tenant cDecrypt s.sr (s.dev.atTime t)))) ∧
    (∀ (t : Nat) (tenant : Tenant),
      exec (.macGenerate t tenant) s = .next (s.withDev (tenantCipher tenant cMacGen s.sr (s.dev.atTime t)))) ∧
    (∀ (t : Nat) (tenant : Tenant),
      exec (.macVerify t tenant) s = .next (s.withDev (tenantCipher tenant cMacVerify s.sr (s.dev.atTime t)))) ∧
    (∀ (t : Nat) (tenant : Tenant), exec (.unwrap t tenant) s = .next (s.withBoth (tenantUnwrap tenant (s.dev.atTime t, s.sr)))) ∧
    (∀ (t : Nat) (tenant : Tenant), exec (.sign t tenant) s = .next (s.withDev (tenantSign tenant s.sr (s.dev.atTime t)))) ∧
    (∀ (t : Nat) (port : HostPort) (page : HostPort) (len : Nat),
      exec (.submit t port page len) s = .next (s.withBoth (submitVia port page len ((s.dev.atTime t).srFields port page 1 (len % 512) false, s.sr)))) ∧
    (∀ (t : Nat) (port : HostPort) (page : HostPort) (pair : Bool),
      exec (.replayProof t port page pair) s = .next (s.withBoth (replayVia port page pair ((s.dev.atTime t).srFields port page 2 0 pair, s.sr)))) ∧
    (∀ (t : Nat), exec (.keyCommitBoundary t) s = .next (s.withBoth (keyCommitNow (s.dev.atTime t, s.sr)))) ∧
    (∀ (t : Nat) (slot : Nat),
      exec (.scrub t slot) s = .next (s.withDev (let d := s.dev.atTime t; if d.runs then scrubSlot slot d else d))) ∧
    (∀ (t : Nat) (tenant : Option Tenant),
      exec (.backoffExpiry t tenant) s =
        .next (s.withDev (let d := s.dev.atTime t; if d.runs then backoffExpiry (tenant.map (·.val)) d else d)))

/-- Each command named here completes: for every state and every operand (the rules put no further condition on its being carried
out), exec answers a next state, which is that of the command's own effect, and the Strongroom's store and the waiting
commands change only where it says so. Faults, repairs, withdrawals and the ledger (R625–R657). The commands: MASKED_FAULT,
REPAIR, WITHDRAWAL, FAULT_INJECT, PIN, UNPIN, CLEAR_OVERFLOW. -/
def Obligations.FaultCommandsComplete : Prop :=
  ∀ s : State,
    (∀ (t : Nat) (part cause inst location : Nat),
      exec (.maskedFault t part cause inst location) s =
        .next (s.withDev (maskedFault part cause inst location (s.dev.atTime t)))) ∧
    (∀ (t : Nat), exec (.repair t) s = .next (s.withDev (let d := s.dev.atTime t; if d.runs then repairFirst d else d))) ∧
    (∀ (t : Nat) (part cause inst location : Nat) (pgLow : Bool),
      exec (.withdrawal t part cause inst location pgLow) s =
        .next (s.withDev (withdrawalFrom part cause inst location pgLow (s.dev.atTime t)))) ∧
    (∀ (t : Nat) (port : HostPort) (part : Fin 256) (kind : Fin 4),
      exec (.faultInject t port part kind) s = .next (s.withDev (faultInject port part kind s.sr (s.dev.atTime t)))) ∧
    (∀ (t : Nat) (port : HostPort),
      exec (.pin t port) s = .next (s.withDev (let d := s.dev.atTime t; if d.runs then d.ledgerCmd port 1 ledgerPin else d))) ∧
    (∀ (t : Nat) (port : HostPort),
      exec (.unpin t port) s = .next (s.withDev (let d := s.dev.atTime t; if d.runs then d.ledgerCmd port 2 ledgerUnpin else d))) ∧
    (∀ (t : Nat) (port : HostPort),
      exec (.clearOverflow t port) s =
        .next (s.withDev (let d := s.dev.atTime t; if d.runs then d.ledgerCmd port 3 ledgerClear else d)))

/-- Each command named here completes: for every state and every operand (the rules put no further condition on its being carried
out), exec answers a next state, which is that of the command's own effect, and the Strongroom's store and the waiting
commands change only where it says so. What the power dies do by themselves, switch inputs, sleep and wakes (R460–R548). The
commands: SLEEP_COMMIT, PARK_ENTRY, WAKE_LATCH, PARK_POLL, PARK_TIMER, SHORT_TRIP, OVERCURRENT_TRIP, INRUSH_WINDOW_END,
TEMPERATURE_TRIP, RETRY, FW_FAULT, OPEN_LOAD, OFF_FAULT, HOLD, HOLD_WINDOW_END, CRANK, LOW_SEEN, RESERVOIR_EXHAUSTED,
DEBOUNCED_CHANGE, CHATTER, CHATTER_EXIT, STUCK, INPUT_SAMPLE. -/
def Obligations.PowerDieInputAndParkCommandsComplete : Prop :=
  ∀ s : State,
    (∀ (t : Nat), exec (.sleepCommit t) s = .next (s.withDev (sleepCommitLive (s.dev.atTime t)))) ∧
    (∀ (t : Nat), exec (.parkEntry t) s = .next (s.withDev (parkEntry (s.dev.atTime t)))) ∧
    (∀ (t : Nat) (source : WakeSource),
      exec (.wakeLatch t source) s = .next (s.withDev (wakeLatch source (s.dev.atTime t)))) ∧
    (∀ (t : Nat) (levels : List Nat), exec (.parkPoll t levels) s = .next (s.withDev (parkPoll levels (s.dev.atTime t)))) ∧
    (∀ (t : Nat), exec (.parkTimer t) s = .next (s.withDev (parkTimer (s.dev.atTime t)))) ∧
    (∀ (t : Nat) (ch : ChanIx) (since ma uj : Nat),
      exec (.shortTrip t ch since ma uj) s = .next (s.withDev ((s.dev.atTime t).onDie fun d => shortTrip ch since ma uj d))) ∧
    (∀ (t : Nat) (ch : ChanIx) (ma since : Nat),
      exec (.overcurrentTrip t ch ma since) s = .next (s.withDev ((s.dev.atTime t).onDie fun d => overcurrentTrip ch ma since d))) ∧
    (∀ (t : Nat) (ch : ChanIx) (limited : Bool) (ma uj : Nat),
      exec (.inrushWindowEnd t ch limited ma uj) s =
        .next (s.withDev ((s.dev.atTime t).onDie fun d => inrushEnds ch limited ma uj d))) ∧
    (∀ (t : Nat) (ch : ChanIx) (ma uj : Nat),
      exec (.temperatureTrip t ch ma uj) s = .next (s.withDev ((s.dev.atTime t).onDie fun d => tripChan ch 4 ma uj d))) ∧
    (∀ (t : Nat) (ch : ChanIx) (temp : Int),
      exec (.retry t ch temp) s = .next (s.withDev ((s.dev.atTime t).onDie fun d => retryChan ch temp d))) ∧
    (∀ (t : Nat) (ch : ChanIx), exec (.fwFault t ch) s = .next (s.withDev ((s.dev.atTime t).onDie fun d => fwFault ch d))) ∧
    (∀ (t : Nat) (ch : ChanIx), exec (.openLoad t ch) s = .next (s.withDev ((s.dev.atTime t).onDie fun d => openLoad ch d))) ∧
    (∀ (t : Nat) (ch : ChanIx) (high : Bool),
      exec (.offFault t ch high) s = .next (s.withDev ((s.dev.atTime t).onDie fun d => offFault ch high d))) ∧
    (∀ (t : Nat) (die : DieIx), exec (.hold t die) s = .next (s.withDev ((s.dev.atTime t).onDie fun d => holdDie die d))) ∧
    (∀ (t : Nat) (ch : ChanIx),
      exec (.holdWindowEnd t ch) s = .next (s.withDev ((s.dev.atTime t).onDie fun d => holdWindowEnd ch d))) ∧
    (∀ (t : Nat) (die : DieIx) (below : Bool),
      exec (.crank t die below) s = .next (s.withDev ((s.dev.atTime t).onDie fun d => crankInputs die below d))) ∧
    (∀ (t : Nat) (die : DieIx) (below : Bool) (mv : Nat),
      exec (.lowSeen t die below mv) s = .next (s.withDev (lowSeen die below mv (s.dev.atTime t)))) ∧
    (∀ (t : Nat) (die : DieIx),
      exec (.reservoirExhausted t die) s = .next (s.withDev (reservoirOut die (s.dev.atTime t)))) ∧
    (∀ (t : Nat) (sw : InputIx) (levels : List (Nat × Nat)),
      exec (.debouncedChange t sw levels) s = .next (s.withDev (debounceInput sw levels (s.dev.atTime t)))) ∧
    (∀ (t : Nat) (sw : InputIx) (levels : List (Nat × Nat)),
      exec (.chatter t sw levels) s = .next (s.withDev (chatterEnter sw levels (s.dev.atTime t)))) ∧
    (∀ (t : Nat) (sw : InputIx) (levels : List (Nat × Nat)),
      exec (.chatterExit t sw levels) s = .next (s.withDev (chatterExit sw levels (s.dev.atTime t)))) ∧
    (∀ (t : Nat) (sw : InputIx), exec (.stuck t sw) s = .next (s.withDev (stuckEnter sw (s.dev.atTime t)))) ∧
    (∀ (t : Nat) (die : DieIx) (group : Fin 12) (short : Bool),
      exec (.inputSample t die group short) s = .next (s.withDev (inputSample die group ((s.dev.atTime t).recFalls short))))

/-- Each command named here completes: for every state and every operand (the rules put no further condition on its being carried
out), exec answers a next state, which is that of the command's own effect, and the Strongroom's store and the waiting
commands change only where it says so. The companion and its link, and live service (R67–R70, R658–R726). The commands:
LENGTH_CHANGE_SWITCH, HELLO, LINK_FRAME, RETRANSMIT, LINK_LOST, HEARTBEAT_CHANGE, SOLO_WAIT, WITHDRAWAL_NOTICE, TAKEOVER,
YIELDS, RESYNCHRONISATION_COMPLETE, DEPARTURE, GAP_FILL, STORE, VERIFY, ACTIVATE, ABORT, QUIESCE, RESUME, LENGTH,
APPLY_BOUNDARY. -/
def Obligations.PairAndLiveServiceCommandsComplete : Prop :=
  ∀ s : State,
    (∀ (t : Nat), exec (.lengthChangeSwitch t) s = .next (s.withDev (lengthSwitched s.sr (s.dev.atTime t)))) ∧
    (∀ (t : Nat) (hello : Hello) (latency : Nat),
      exec (.hello t hello latency) s = .next (s.withBoth (helloReceived hello latency (s.dev.atTime t, s.sr)))) ∧
    (∀ (t : Nat) (frame : LinkFrame), exec (.linkFrame t frame) s = .next (s.withBoth (linkFrame frame (s.dev.atTime t, s.sr)))) ∧
    (∀ (t : Nat), exec (.retransmit t) s = .next (s.withDev (retransmit (s.dev.atTime t)))) ∧
    (∀ (t : Nat) (lane0 lane1 : Bool), exec (.linkLost t lane0 lane1) s = .next (s.withDev (linkLost lane0 lane1 (s.dev.atTime t)))) ∧
    (∀ (t : Nat) (level : Fin 3),
      exec (.heartbeatChange t level) s = .next (s.withDev (heartbeatChange level (s.dev.atTime t)))) ∧
    (∀ (t : Nat), exec (.soloWait t) s = .next (s.withDev (soloWait (s.dev.atTime t)))) ∧
    (∀ (t acc t0 : Nat),
      exec (.withdrawalNotice t acc t0) s = .next (s.withDev (withdrawalNotice acc t0 (s.dev.atTime t)))) ∧
    (∀ (t : Nat), exec (.takeover t) s = .next (s.withDev (takeoverNow (s.dev.atTime t)))) ∧
    (∀ (t : Nat), exec (.yields t) s = .next (s.withDev (yieldsNow (s.dev.atTime t)))) ∧
    (∀ (t : Nat), exec (.resynchronisationComplete t) s = .next (s.withDev (resyncComplete s.sr (s.dev.atTime t)))) ∧
    (∀ (t : Nat) (queue tally : Nat),
      exec (.departure t queue tally) s =
        .next (s.withDev (let d := s.dev.atTime t; if d.runs then departure queue tally d else d))) ∧
    (∀ (t : Nat), exec (.gapFill t) s = .next (s.withDev (gapFill (s.dev.atTime t)))) ∧
    (∀ (t : Nat) (port : HostPort) (fields : LsFields) (image : Option (List Byte)),
      exec (.store t port fields image) s = .next (s.withDev (liveStore port fields image (s.dev.atTime t)))) ∧
    (∀ (t : Nat) (port : HostPort) (fields : LsFields),
      exec (.verify t port fields) s = .next (s.withDev (liveVerify port fields s.sr (s.dev.atTime t)))) ∧
    (∀ (t : Nat) (port : HostPort) (fields : LsFields),
      exec (.activate t port fields) s = .next (s.withDev (liveActivate port fields (s.dev.atTime t)))) ∧
    (∀ (t : Nat) (port : HostPort) (fields : LsFields),
      exec (.abort t port fields) s = .next (s.withDev (liveAbort port fields (s.dev.atTime t)))) ∧
    (∀ (t : Nat) (port : HostPort) (fields : LsFields),
      exec (.quiesce t port fields) s = .next (s.withDev (liveQuiesce port fields (s.dev.atTime t)))) ∧
    (∀ (t : Nat) (port : HostPort) (fields : LsFields),
      exec (.resume t port fields) s = .next (s.withDev (liveResume port fields (s.dev.atTime t)))) ∧
    (∀ (t : Nat) (port : HostPort) (fields : LsFields),
      exec (.length t port fields) s = .next (s.withDev (liveLength port fields (s.dev.atTime t)))) ∧
    (∀ (t : Nat), exec (.applyBoundary t) s = .next (s.withDev (applied s.sr (s.dev.atTime t))))
end

