-- ==== Sys2Proof/Laws/Sparse.lean ====
section
/-! SUPPORT. Laws of sparse arrays: what is read after a write, in any array; that every operation keeps the canonical form; and
that canonical arrays that read alike are equal. -/

namespace Sys2Proof

section Read
variable {α : Type} [Inhabited α]

@[simp] theorem sget_nil (i : Nat) : sget ([] : Sparse α) i = default := rfl

theorem sget_cons (k : Nat) (v : α) (r : Sparse α) (i : Nat) :
    sget ((k, v) :: r) i = if i = k then v else sget r i := rfl

theorem sget_sdel (m : Sparse α) (i j : Nat) : sget (sdel m i) j = if j = i then default else sget m j := by
  induction m with
  | nil => simp [sdel]
  | cons e r ih =>
    obtain ⟨k, w⟩ := e
    by_cases hk : k = i
    · subst hk
      simp only [sdel, if_true, ih, sget_cons]
      by_cases hj : j = k <;> simp [hj]
    · simp only [sdel, hk, if_false, sget_cons, ih]
      by_cases hj : j = k
      · simp [hj, hk]
      · simp [hj]

theorem sget_sins (m : Sparse α) (i j : Nat) (v : α) (h : sget m i = default) (hm : ∀ e ∈ m, e.1 ≠ i) :
    sget (sins m i v) j = if j = i then v else sget m j := by
  induction m with
  | nil => simp [sins, sget_cons]
  | cons e r ih =>
    obtain ⟨k, w⟩ := e
    by_cases hik : i < k
    · simp [sins, hik, sget_cons]
    · have hk : k ≠ i := hm (k, w) (by simp)
      have hr : sget r i = default := by
        have : i ≠ k := fun e => hk e.symm
        simpa [sget_cons, this] using h
      simp only [sins, hik, if_false, sget_cons, ih hr fun e he => hm e (by simp [he])]
      by_cases hj : j = k
      · simp [hj, hk]
      · simp [hj]

omit [Inhabited α] in
theorem sdel_ne (m : Sparse α) (i : Nat) : ∀ e ∈ sdel m i, e.1 ≠ i := by
  induction m with
  | nil => simp [sdel]
  | cons e r ih =>
    obtain ⟨k, w⟩ := e
    by_cases hk : k = i
    · simpa [sdel, hk] using ih
    · simpa [sdel, hk] using ih

end Read

variable {α : Type} [Inhabited α] [DecidableEq α]

/-- What is read after a write: the written value there, and what was read before elsewhere. -/
theorem sget_sput (m : Sparse α) (i j : Nat) (v : α) : sget (sput m i v) j = if j = i then v else sget m j := by
  unfold sput
  by_cases hv : v = default
  · simp only [hv, if_true, sget_sdel]
  · simp only [hv, if_false]
    rw [sget_sins _ _ _ _ (by simp [sget_sdel]) (sdel_ne m i), sget_sdel]
    by_cases hj : j = i <;> simp [hj]

@[simp] theorem sget_sput_same (m : Sparse α) (i : Nat) (v : α) : sget (sput m i v) i = v := by simp [sget_sput]

theorem sget_sput_ne (m : Sparse α) {i j : Nat} (v : α) (h : j ≠ i) : sget (sput m i v) j = sget m j := by
  simp [sget_sput, h]

/-- What is read after a change. -/
theorem sget_smod (m : Sparse α) (i j : Nat) (f : α → α) :
    sget (smod m i f) j = if j = i then f (sget m i) else sget m j := sget_sput m i j _

@[simp] theorem sget_smod_same (m : Sparse α) (i : Nat) (f : α → α) : sget (smod m i f) i = f (sget m i) := by
  simp [sget_smod]

/-! ### The canonical form -/

/-- Below the first index that may be listed, the default is read. -/
theorem sget_below {m : Sparse α} {lo i : Nat} (h : swfFrom lo m = true) (hi : i < lo) : sget m i = default := by
  induction m generalizing lo with
  | nil => rfl
  | cons e r ih =>
    obtain ⟨k, v⟩ := e
    simp only [swfFrom, Bool.and_eq_true, decide_eq_true_eq] at h
    have hk : i ≠ k := by omega
    simp only [sget_cons, hk, if_false]
    exact ih h.2 (by omega)

theorem swfFrom_mono {m : Sparse α} {lo lo' : Nat} (h : swfFrom lo m = true) (hl : lo' ≤ lo) : swfFrom lo' m = true := by
  cases m with
  | nil => rfl
  | cons e r =>
    obtain ⟨k, v⟩ := e
    simp only [swfFrom, Bool.and_eq_true, decide_eq_true_eq] at h ⊢
    exact ⟨⟨by omega, h.1.2⟩, h.2⟩

theorem swfFrom_sdel {m : Sparse α} {lo : Nat} (h : swfFrom lo m = true) (i : Nat) : swfFrom lo (sdel m i) = true := by
  induction m generalizing lo with
  | nil => rfl
  | cons e r ih =>
    obtain ⟨k, v⟩ := e
    simp only [swfFrom, Bool.and_eq_true, decide_eq_true_eq] at h
    by_cases hk : k = i
    · simpa [sdel, hk] using swfFrom_mono (ih h.2) (by omega : lo ≤ k + 1)
    · simp [sdel, hk, swfFrom, h.1.1, h.1.2, ih h.2]

theorem swfFrom_sins {m : Sparse α} {lo i : Nat} {v : α} (h : swfFrom lo m = true) (hi : lo ≤ i) (hv : v ≠ default)
    (hm : ∀ e ∈ m, e.1 ≠ i) : swfFrom lo (sins m i v) = true := by
  induction m generalizing lo with
  | nil => simp [sins, swfFrom, hi, hv]
  | cons e r ih =>
    obtain ⟨k, w⟩ := e
    simp only [swfFrom, Bool.and_eq_true, decide_eq_true_eq] at h
    by_cases hik : i < k
    · have : i + 1 ≤ k := hik
      simp [sins, hik, swfFrom, hi, hv, h.1.2, h.2, this]
    · have hk : k ≠ i := hm (k, w) (by simp)
      have := ih h.2 (by omega) fun e he => hm e (by simp [he])
      simp [sins, hik, swfFrom, h.1.1, h.1.2, this]

/-- A write keeps the canonical form. -/
theorem swf_sput {m : Sparse α} (h : swf m = true) (i : Nat) (v : α) : swf (sput m i v) = true := by
  unfold sput
  by_cases hv : v = default
  · rw [if_pos hv]
    exact swfFrom_sdel h i
  · rw [if_neg hv]
    exact swfFrom_sins (swfFrom_sdel h i) (Nat.zero_le i) hv (sdel_ne m i)

/-- A change keeps the canonical form. -/
theorem swf_smod {m : Sparse α} (h : swf m = true) (i : Nat) (f : α → α) : swf (smod m i f) = true := swf_sput h i _

theorem swfFrom_smap {m : Sparse α} {lo : Nat} (h : swfFrom lo m = true) (f : Nat → α → α) :
    swfFrom lo (smap f m) = true := by
  induction m generalizing lo with
  | nil => rfl
  | cons e r ih =>
    obtain ⟨k, v⟩ := e
    simp only [swfFrom, Bool.and_eq_true, decide_eq_true_eq] at h
    by_cases hv : f k v = default
    · simp only [smap, hv, if_true]
      exact swfFrom_mono (ih h.2) (by omega)
    · simp only [smap, hv, if_false]
      simp [swfFrom, hv, h.1.1, ih h.2]

/-- A map over the listed entries keeps the canonical form. -/
theorem swf_smap {m : Sparse α} (h : swf m = true) (f : Nat → α → α) : swf (smap f m) = true := swfFrom_smap h f

theorem swfFrom_ext {m n : Sparse α} {lo : Nat} (hm : swfFrom lo m = true) (hn : swfFrom lo n = true)
    (h : ∀ i, sget m i = sget n i) : m = n := by
  induction m generalizing n lo with
  | nil =>
    cases n with
    | nil => rfl
    | cons e r =>
      obtain ⟨k, v⟩ := e
      simp only [swfFrom, Bool.and_eq_true, decide_eq_true_eq] at hn
      exact absurd (by simpa [sget_cons] using (h k).symm) hn.1.2
  | cons e r ih =>
    obtain ⟨k, v⟩ := e
    cases n with
    | nil =>
      simp only [swfFrom, Bool.and_eq_true, decide_eq_true_eq] at hm
      exact absurd (by simpa [sget_cons] using h k) hm.1.2
    | cons e' r' =>
      obtain ⟨k', v'⟩ := e'
      simp only [swfFrom, Bool.and_eq_true, decide_eq_true_eq] at hm hn
      have hk : k = k' := by
        rcases Nat.lt_trichotomy k k' with hlt | heq | hgt
        · have hne : k ≠ k' := by omega
          have := h k
          simp only [sget_cons, if_true, hne, if_false, sget_below hn.2 (by omega : k < k' + 1)] at this
          exact absurd this hm.1.2
        · exact heq
        · have hne : k' ≠ k := by omega
          have := h k'
          simp only [sget_cons, if_true, hne, if_false, sget_below hm.2 (by omega : k' < k + 1)] at this
          exact absurd this.symm hn.1.2
      subst hk
      have hv : v = v' := by simpa [sget_cons] using h k
      subst hv
      refine congrArg _ (ih hm.2 hn.2 fun i => ?_)
      by_cases hi : i = k
      · rw [hi, sget_below hm.2 (by omega), sget_below hn.2 (by omega)]
      · simpa [sget_cons, hi] using h i

/-- Two canonical arrays that read alike are the same data. -/
theorem swf_ext {m n : Sparse α} (hm : swf m = true) (hn : swf n = true) (h : ∀ i, sget m i = sget n i) : m = n :=
  swfFrom_ext hm hn h

end Sys2Proof
end

