-- ==== Sys2Proof/Laws/Ops.lean ====
section
/-! SUPPORT. Laws of the named operations: bit fields, registers of the map, counters, and what else each leaves as it was. -/

namespace Sys2Proof.Machine

/-! ### Bit fields -/

theorem bitsOf_lt (w hi lo : Nat) : bitsOf w hi lo < 2 ^ (hi + 1 - lo) := Nat.mod_lt _ (by positivity)

/-- A number in three parts: below a field, the field, and above it. -/
theorem insBits_split (w hi lo v : Nat) (h : lo ≤ hi) :
    insBits w hi lo v = w % 2 ^ lo + 2 ^ lo * (v % 2 ^ (hi + 1 - lo)) + 2 ^ (hi + 1) * (w / 2 ^ (hi + 1)) := by
  have e : 2 ^ (hi + 1) = 2 ^ lo * 2 ^ (hi + 1 - lo) := by rw [← pow_add]; congr 1; omega
  have h1 := Nat.div_add_mod w (2 ^ lo)
  have h2 := Nat.div_add_mod (w / 2 ^ lo) (2 ^ (hi + 1 - lo))
  have h3 : w / 2 ^ (hi + 1) = w / 2 ^ lo / 2 ^ (hi + 1 - lo) := by rw [e, Nat.div_div_eq_div_mul]
  unfold insBits bitsOf
  rw [h3, e]
  generalize w / 2 ^ lo / 2 ^ (hi + 1 - lo) = q at *
  generalize w / 2 ^ lo % 2 ^ (hi + 1 - lo) = b at *
  generalize w % 2 ^ lo = r at *
  generalize w / 2 ^ lo = y at *
  generalize v % 2 ^ (hi + 1 - lo) = x at *
  generalize 2 ^ (hi + 1 - lo) = m at *
  generalize 2 ^ lo = p at *
  subst h2
  subst h1
  have : p * (m * q + b) + r - b * p = p * m * q + r := by
    have : p * (m * q + b) + r = (p * m * q + r) + b * p := by ring
    omega
  rw [this]
  ring

/-- A field that was set reads what was set, cut to its width. -/
theorem bitsOf_insBits_same (w hi lo v : Nat) (h : lo ≤ hi) : bitsOf (insBits w hi lo v) hi lo = v % 2 ^ (hi + 1 - lo) := by
  have e : 2 ^ (hi + 1) = 2 ^ lo * 2 ^ (hi + 1 - lo) := by rw [← pow_add]; congr 1; omega
  rw [insBits_split w hi lo v h, bitsOf, e]
  have hr : w % 2 ^ lo < 2 ^ lo := Nat.mod_lt _ (by positivity)
  have hp : 0 < 2 ^ lo := by positivity
  rw [show w % 2 ^ lo + 2 ^ lo * (v % 2 ^ (hi + 1 - lo)) + 2 ^ lo * 2 ^ (hi + 1 - lo) * (w / (2 ^ lo * 2 ^ (hi + 1 - lo))) =
    w % 2 ^ lo + 2 ^ lo * (v % 2 ^ (hi + 1 - lo) + 2 ^ (hi + 1 - lo) * (w / (2 ^ lo * 2 ^ (hi + 1 - lo)))) by ring]
  rw [Nat.add_mul_div_left _ _ hp, Nat.div_eq_of_lt hr, Nat.zero_add, Nat.add_mul_mod_self_left, Nat.mod_mod]

/-- Setting a field leaves every field below or above it. -/
theorem bitsOf_insBits_of_lt (w hi lo v hi' lo' : Nat) (h : lo ≤ hi) (h' : hi' < lo) (hl : lo' ≤ hi') :
    bitsOf (insBits w hi lo v) hi' lo' = bitsOf w hi' lo' := by
  have key : ∀ x y : Nat, x % 2 ^ lo = y % 2 ^ lo → bitsOf x hi' lo' = bitsOf y hi' lo' := by
    intro x y hxy
    have hb : ∀ z : Nat, bitsOf z hi' lo' = bitsOf (z % 2 ^ lo) hi' lo' := by
      intro z
      unfold bitsOf
      have e : (2 : Nat) ^ lo = 2 ^ lo' * 2 ^ (lo - lo') := by rw [← pow_add]; congr 1; omega
      have e2 : (2 : Nat) ^ (lo - lo') = 2 ^ (hi' + 1 - lo') * 2 ^ (lo - (hi' + 1)) := by rw [← pow_add]; congr 1; omega
      rw [e, Nat.mod_mul_right_div_self, e2, Nat.mod_mul_right_mod]
    rw [hb x, hb y, hxy]
  apply key
  have e : (2 : Nat) ^ (hi + 1) = 2 ^ lo * 2 ^ (hi + 1 - lo) := by rw [← pow_add]; congr 1; omega
  rw [insBits_split w hi lo v h, e, Nat.mul_assoc, Nat.add_assoc, ← Nat.mul_add, Nat.add_mul_mod_self_left, Nat.mod_mod]

theorem bitsOf_insBits_of_gt (w hi lo v hi' lo' : Nat) (h : lo ≤ hi) (h' : hi < lo') :
    bitsOf (insBits w hi lo v) hi' lo' = bitsOf w hi' lo' := by
  have key : insBits w hi lo v / 2 ^ (hi + 1) = w / 2 ^ (hi + 1) := by
    rw [insBits_split w hi lo v h, Nat.add_mul_div_left _ _ (by positivity)]
    have hlt : w % 2 ^ lo + 2 ^ lo * (v % 2 ^ (hi + 1 - lo)) < 2 ^ (hi + 1) := by
      have e : (2 : Nat) ^ (hi + 1) = 2 ^ lo * 2 ^ (hi + 1 - lo) := by rw [← pow_add]; congr 1; omega
      have h1 : w % 2 ^ lo < 2 ^ lo := Nat.mod_lt _ (by positivity)
      have h2 : v % 2 ^ (hi + 1 - lo) < 2 ^ (hi + 1 - lo) := Nat.mod_lt _ (by positivity)
      rw [e]
      calc w % 2 ^ lo + 2 ^ lo * (v % 2 ^ (hi + 1 - lo)) < 2 ^ lo * (v % 2 ^ (hi + 1 - lo) + 1) := by
            rw [Nat.mul_add]; omega
        _ ≤ 2 ^ lo * 2 ^ (hi + 1 - lo) := Nat.mul_le_mul_left _ h2
    rw [Nat.div_eq_of_lt hlt, Nat.zero_add]
  unfold bitsOf
  have e : (2 : Nat) ^ lo' = 2 ^ (hi + 1) * 2 ^ (lo' - (hi + 1)) := by rw [← pow_add]; congr 1; omega
  rw [e, ← Nat.div_div_eq_div_mul, ← Nat.div_div_eq_div_mul, key]

theorem bitsOf_mod32 (w hi lo : Nat) (h : hi < 32) : bitsOf (w % 2 ^ 32) hi lo = bitsOf w hi lo := by
  by_cases hl : lo ≤ hi
  · unfold bitsOf
    have e : (2 : Nat) ^ 32 = 2 ^ lo * 2 ^ (32 - lo) := by rw [← pow_add]; congr 1; omega
    have e2 : (2 : Nat) ^ (32 - lo) = 2 ^ (hi + 1 - lo) * 2 ^ (32 - (hi + 1)) := by rw [← pow_add]; congr 1; omega
    rw [e, Nat.mod_mul_right_div_self, e2, Nat.mod_mul_right_mod]
  · have : hi + 1 - lo = 0 := by omega
    simp [bitsOf, this, Nat.mod_one]

/-! ### Registers of the map -/

/-- A register reads the word that was put into it. -/
theorem regGet_regPut_same (m : Sparse Word) (r : RegDef) (ix : List Nat) (v : Nat) : regGet (regPut m r ix v) r ix = v % 2 ^ 32 := by
  unfold regGet regPut
  rw [sget_sput_same, BitVec.xor_assoc, BitVec.xor_self, BitVec.xor_zero, BitVec.toNat_ofNat]

/-- Another register reads as before. -/
theorem regGet_regPut_ne (m : Sparse Word) (r r' : RegDef) (ix ix' : List Nat) (v : Nat) (h : regKey r' ix' ≠ regKey r ix) :
    regGet (regPut m r ix v) r' ix' = regGet m r' ix' := by
  unfold regGet regPut
  rw [sget_sput_ne _ _ h]

/-- A field reads what was set. -/
theorem fldGet_fldPut_same (m : Sparse Word) (f : Fld) (ix : List Nat) (v : Nat) (h : f.lo ≤ f.hi ∧ f.hi < 32) :
    fldGet (fldPut m f ix v) f ix = v % 2 ^ (f.hi + 1 - f.lo) := by
  unfold fldGet fldPut
  rw [regGet_regPut_same, bitsOf_mod32 _ _ _ h.2, bitsOf_insBits_same _ _ _ _ h.1]

/-- A field of another register reads as before. -/
theorem fldGet_fldPut_ne (m : Sparse Word) (f g : Fld) (ix jx : List Nat) (v : Nat) (h : regKey g.reg jx ≠ regKey f.reg ix) :
    fldGet (fldPut m f ix v) g jx = fldGet m g jx := by
  unfold fldGet fldPut
  rw [regGet_regPut_ne _ _ _ _ _ _ h]

/-- A field apart from it in the same register reads as before. -/
theorem fldGet_fldPut_apart (m : Sparse Word) (f g : Fld) (ix : List Nat) (v : Nat) (hr : g.reg = f.reg)
    (hf : f.lo ≤ f.hi) (hg : g.lo ≤ g.hi ∧ g.hi < 32) (h : g.hi < f.lo ∨ f.hi < g.lo) :
    fldGet (fldPut m f ix v) g ix = fldGet m g ix := by
  unfold fldGet fldPut
  rw [hr, regGet_regPut_same, bitsOf_mod32 _ _ _ hg.2]
  rcases h with h | h
  · exact bitsOf_insBits_of_lt _ _ _ _ _ _ hf h hg.1
  · exact bitsOf_insBits_of_gt _ _ _ _ _ _ hf h

theorem Dev.rd_def (d : Dev) (f : Fld) (ix : List Nat) : d.rd f ix = fldGet d.kept.regs f ix := rfl
theorem Dev.wr_regs (d : Dev) (f : Fld) (ix : List Nat) (v : Nat) : (d.wr f ix v).kept.regs = fldPut d.kept.regs f ix v := rfl

/-- A field reads what the device set it to. -/
theorem Dev.rd_wr_same (d : Dev) (f : Fld) (ix : List Nat) (v : Nat) (h : f.lo ≤ f.hi ∧ f.hi < 32) :
    (d.wr f ix v).rd f ix = v % 2 ^ (f.hi + 1 - f.lo) := fldGet_fldPut_same _ _ _ _ h

/-- A field of another register reads as before. -/
theorem Dev.rd_wr_ne (d : Dev) (f g : Fld) (ix jx : List Nat) (v : Nat) (h : regKey g.reg jx ≠ regKey f.reg ix) :
    (d.wr f ix v).rd g jx = d.rd g jx := fldGet_fldPut_ne _ _ _ _ _ _ h

/-- A field apart from it in the same register reads as before. -/
theorem Dev.rd_wr_apart (d : Dev) (f g : Fld) (ix : List Nat) (v : Nat) (hr : g.reg = f.reg)
    (hf : f.lo ≤ f.hi) (hg : g.lo ≤ g.hi ∧ g.hi < 32) (h : g.hi < f.lo ∨ f.hi < g.lo) :
    (d.wr f ix v).rd g ix = d.rd g ix := fldGet_fldPut_apart _ _ _ _ _ hr hf hg h

/-- A side-effect counter counts, and holds at its greatest value (R10). -/
theorem Dev.rd_bump_same (d : Dev) (f : Fld) (ix : List Nat) (n : Nat) (h : f.lo ≤ f.hi ∧ f.hi < 32) :
    (d.bump f ix n).rd f ix = min (2 ^ (f.hi + 1 - f.lo) - 1) (d.rd f ix + n) := by
  have hp : 0 < 2 ^ (f.hi + 1 - f.lo) := by positivity
  have hw : (d.bump f ix n).rd f ix = (d.wr f ix (min (2 ^ (f.hi + 1 - f.lo) - 1) (d.rd f ix + n))).rd f ix := rfl
  rw [hw, Dev.rd_wr_same _ _ _ _ h]
  exact Nat.mod_eq_of_lt (by omega)

theorem Dev.rd_bump_ne (d : Dev) (f g : Fld) (ix jx : List Nat) (n : Nat) (h : regKey g.reg jx ≠ regKey f.reg ix) :
    (d.bump f ix n).rd g jx = d.rd g jx := Dev.rd_wr_ne d f g ix jx _ h

theorem Dev.rd_incr_same (d : Dev) (f : Fld) (ix : List Nat) (h : f.lo ≤ f.hi ∧ f.hi < 32) :
    (d.incr f ix).rd f ix = min (2 ^ (f.hi + 1 - f.lo) - 1) (d.rd f ix + 1) := by
  have hp : 0 < 2 ^ (f.hi + 1 - f.lo) := by positivity
  unfold Dev.incr
  rw [Dev.rd_wr_same _ _ _ _ h]
  exact Nat.mod_eq_of_lt (by omega)

/-! ### Accession numbers -/

/-- An accession number taken stays below 2⁴⁸ where the desk's was (R625, R627). -/
theorem Dev.number_acc (d : Dev) : d.number.2.acc < 2 ^ 48 := Nat.mod_lt _ (by norm_num)

/-! ### Byte strings -/

@[simp] theorem length_leBytes (k n : Nat) : (leBytes k n).length = k := by
  induction k generalizing n with
  | zero => rfl
  | succ k ih => simp [leBytes, ih]

/-- Little-endian bytes spell the number they were made of, cut to their length. -/
theorem ofLe_leBytes (k n : Nat) : ofLe (leBytes k n) = n % 256 ^ k := by
  induction k generalizing n with
  | zero => simp [leBytes, ofLe, Nat.mod_one]
  | succ k ih =>
    have h : (256 : Nat) ^ (k + 1) = 256 * 256 ^ k := pow_succ' 256 k
    show (BitVec.ofNat 8 n).toNat + 256 * ofLe (leBytes k (n / 256)) = n % 256 ^ (k + 1)
    rw [ih, h, Nat.mod_mul, BitVec.toNat_ofNat]

end Sys2Proof.Machine
end

