-- ==== Sys2Proof/Laws/State.lean ====
section
/-! SUPPORT. One lemma per field per named update of the state. -/

namespace Sys2Proof.Machine

/-! ### The whole state -/

@[simp] theorem State.onDev_eq (s : State) (f : Dev → Dev) : s.onDev f = .next { s with dev := f s.dev } := rfl
@[simp] theorem State.onDevWith_eq (s : State) (f : Strongroom → Dev → Dev) : s.onDevWith f = .next { s with dev := f s.sr s.dev } := rfl
@[simp] theorem State.onBoth_eq (s : State) (f : WithSr → WithSr) :
    s.onBoth f = .next { s with dev := (f (s.dev, s.sr)).1, sr := (f (s.dev, s.sr)).2 } := rfl

/-! ### What a named update of the device changes -/

@[simp] theorem Dev.modK_kept (d : Dev) (f : Kept → Kept) : (d.modK f).kept = f d.kept := rfl
@[simp] theorem Dev.emit_out (d : Dev) (o : Out) : (d.emit o).out = d.out ++ [o] := rfl
@[simp] theorem Dev.draw_fresh (d : Dev) : d.draw.2.fresh = d.fresh + 1 := rfl
@[simp] theorem Dev.number_fst (d : Dev) : d.number.1 = d.acc := rfl
@[simp] theorem Dev.atTime_now (d : Dev) (t : Nat) : (d.atTime t).now = max d.now t := rfl
@[simp] theorem Dev.modCore_core (d : Dev) (c : Nat) (f : Core → Core) : (d.modCore c f).core c = f (d.core c) := sget_smod_same _ _ _
@[simp] theorem Dev.modRing_ring (d : Dev) (t r : Nat) (f : Ring → Ring) : (d.modRing t r f).ring t r = f (d.ring t r) :=
  sget_smod_same _ _ _

theorem Dev.modCore_core_ne (d : Dev) {c e : Nat} (f : Core → Core) (h : e ≠ c) : (d.modCore c f).core e = d.core e :=
  sget_sput_ne _ _ h

/-! ### What it leaves -/

@[simp] theorem Dev.modK_mode (d : Dev) (f : Kept → Kept) : (d.modK f).mode = d.mode := rfl
@[simp] theorem Dev.modK_mirror (d : Dev) (f : Kept → Kept) : (d.modK f).mirror = d.mirror := rfl
@[simp] theorem Dev.modK_cut (d : Dev) (f : Kept → Kept) : (d.modK f).cut = d.cut := rfl
@[simp] theorem Dev.modK_sent (d : Dev) (f : Kept → Kept) : (d.modK f).sent = d.sent := rfl
@[simp] theorem Dev.modK_rewrites (d : Dev) (f : Kept → Kept) : (d.modK f).rewrites = d.rewrites := rfl
@[simp] theorem Dev.modK_cutBytes (d : Dev) (f : Kept → Kept) : (d.modK f).cutBytes = d.cutBytes := rfl
@[simp] theorem Dev.modK_recCtl (d : Dev) (f : Kept → Kept) : (d.modK f).recCtl = d.recCtl := rfl
@[simp] theorem Dev.modK_now (d : Dev) (f : Kept → Kept) : (d.modK f).now = d.now := rfl
@[simp] theorem Dev.modK_gradeF (d : Dev) (f : Kept → Kept) : (d.modK f).gradeF = d.gradeF := rfl
@[simp] theorem Dev.modK_fresh (d : Dev) (f : Kept → Kept) : (d.modK f).fresh = d.fresh := rfl
@[simp] theorem Dev.modK_out (d : Dev) (f : Kept → Kept) : (d.modK f).out = d.out := rfl
@[simp] theorem Dev.modK_tickStart (d : Dev) (f : Kept → Kept) : (d.modK f).tickStart = d.tickStart := rfl
@[simp] theorem Dev.modK_tickLen (d : Dev) (f : Kept → Kept) : (d.modK f).tickLen = d.tickLen := rfl
@[simp] theorem Dev.modK_track (d : Dev) (f : Kept → Kept) : (d.modK f).track = d.track := rfl
@[simp] theorem Dev.modK_alm (d : Dev) (f : Kept → Kept) : (d.modK f).alm = d.alm := rfl
@[simp] theorem Dev.modK_arrivals (d : Dev) (f : Kept → Kept) : (d.modK f).arrivals = d.arrivals := rfl
@[simp] theorem Dev.modK_packets (d : Dev) (f : Kept → Kept) : (d.modK f).packets = d.packets := rfl
@[simp] theorem Dev.modK_queues (d : Dev) (f : Kept → Kept) : (d.modK f).queues = d.queues := rfl
@[simp] theorem Dev.modK_resHeld (d : Dev) (f : Kept → Kept) : (d.modK f).resHeld = d.resHeld := rfl
@[simp] theorem Dev.modK_shHeld (d : Dev) (f : Kept → Kept) : (d.modK f).shHeld = d.shHeld := rfl
@[simp] theorem Dev.modK_poolOff (d : Dev) (f : Kept → Kept) : (d.modK f).poolOff = d.poolOff := rfl
@[simp] theorem Dev.modK_poolNoticed (d : Dev) (f : Kept → Kept) : (d.modK f).poolNoticed = d.poolNoticed := rfl
@[simp] theorem Dev.modK_memPart (d : Dev) (f : Kept → Kept) : (d.modK f).memPart = d.memPart := rfl
@[simp] theorem Dev.modK_toClassify (d : Dev) (f : Kept → Kept) : (d.modK f).toClassify = d.toClassify := rfl
@[simp] theorem Dev.modK_buckets (d : Dev) (f : Kept → Kept) : (d.modK f).buckets = d.buckets := rfl
@[simp] theorem Dev.modK_recs (d : Dev) (f : Kept → Kept) : (d.modK f).recs = d.recs := rfl
@[simp] theorem Dev.modK_spans (d : Dev) (f : Kept → Kept) : (d.modK f).spans = d.spans := rfl
@[simp] theorem Dev.modK_cores (d : Dev) (f : Kept → Kept) : (d.modK f).cores = d.cores := rfl
@[simp] theorem Dev.modK_sharedPend (d : Dev) (f : Kept → Kept) : (d.modK f).sharedPend = d.sharedPend := rfl
@[simp] theorem Dev.modK_body (d : Dev) (f : Kept → Kept) : (d.modK f).body = d.body := rfl
@[simp] theorem Dev.modK_release (d : Dev) (f : Kept → Kept) : (d.modK f).release = d.release := rfl
@[simp] theorem Dev.modK_pendReads (d : Dev) (f : Kept → Kept) : (d.modK f).pendReads = d.pendReads := rfl
@[simp] theorem Dev.modK_msix (d : Dev) (f : Kept → Kept) : (d.modK f).msix = d.msix := rfl
@[simp] theorem Dev.modK_msixPend (d : Dev) (f : Kept → Kept) : (d.modK f).msixPend = d.msixPend := rfl
@[simp] theorem Dev.modK_octLatch (d : Dev) (f : Kept → Kept) : (d.modK f).octLatch = d.octLatch := rfl
@[simp] theorem Dev.modK_acc (d : Dev) (f : Kept → Kept) : (d.modK f).acc = d.acc := rfl
@[simp] theorem Dev.modK_segs (d : Dev) (f : Kept → Kept) : (d.modK f).segs = d.segs := rfl
@[simp] theorem Dev.modK_pastSegs (d : Dev) (f : Kept → Kept) : (d.modK f).pastSegs = d.pastSegs := rfl
@[simp] theorem Dev.modK_hist (d : Dev) (f : Kept → Kept) : (d.modK f).hist = d.hist := rfl
@[simp] theorem Dev.modK_stamps (d : Dev) (f : Kept → Kept) : (d.modK f).stamps = d.stamps := rfl
@[simp] theorem Dev.modK_ledger (d : Dev) (f : Kept → Kept) : (d.modK f).ledger = d.ledger := rfl
@[simp] theorem Dev.modK_overflow (d : Dev) (f : Kept → Kept) : (d.modK f).overflow = d.overflow := rfl
@[simp] theorem Dev.modK_recWait (d : Dev) (f : Kept → Kept) : (d.modK f).recWait = d.recWait := rfl
@[simp] theorem Dev.modK_recMark (d : Dev) (f : Kept → Kept) : (d.modK f).recMark = d.recMark := rfl
@[simp] theorem Dev.modK_recShort (d : Dev) (f : Kept → Kept) : (d.modK f).recShort = d.recShort := rfl
@[simp] theorem Dev.modK_recGap (d : Dev) (f : Kept → Kept) : (d.modK f).recGap = d.recGap := rfl
@[simp] theorem Dev.modK_chans (d : Dev) (f : Kept → Kept) : (d.modK f).chans = d.chans := rfl
@[simp] theorem Dev.modK_dies (d : Dev) (f : Kept → Kept) : (d.modK f).dies = d.dies := rfl
@[simp] theorem Dev.modK_latch (d : Dev) (f : Kept → Kept) : (d.modK f).latch = d.latch := rfl
@[simp] theorem Dev.modK_latchNext (d : Dev) (f : Kept → Kept) : (d.modK f).latchNext = d.latchNext := rfl
@[simp] theorem Dev.modK_cutDone (d : Dev) (f : Kept → Kept) : (d.modK f).cutDone = d.cutDone := rfl
@[simp] theorem Dev.modK_deltaDone (d : Dev) (f : Kept → Kept) : (d.modK f).deltaDone = d.deltaDone := rfl
@[simp] theorem Dev.modK_strobe (d : Dev) (f : Kept → Kept) : (d.modK f).strobe = d.strobe := rfl
@[simp] theorem Dev.modK_strobeDue (d : Dev) (f : Kept → Kept) : (d.modK f).strobeDue = d.strobeDue := rfl
@[simp] theorem Dev.modK_arb (d : Dev) (f : Kept → Kept) : (d.modK f).arb = d.arb := rfl
@[simp] theorem Dev.modK_arbUsed (d : Dev) (f : Kept → Kept) : (d.modK f).arbUsed = d.arbUsed := rfl
@[simp] theorem Dev.modK_wd (d : Dev) (f : Kept → Kept) : (d.modK f).wd = d.wd := rfl
@[simp] theorem Dev.modK_wdTimes (d : Dev) (f : Kept → Kept) : (d.modK f).wdTimes = d.wdTimes := rfl
@[simp] theorem Dev.modK_doorbells (d : Dev) (f : Kept → Kept) : (d.modK f).doorbells = d.doorbells := rfl
@[simp] theorem Dev.modK_gates (d : Dev) (f : Kept → Kept) : (d.modK f).gates = d.gates := rfl
@[simp] theorem Dev.modK_slips (d : Dev) (f : Kept → Kept) : (d.modK f).slips = d.slips := rfl
@[simp] theorem Dev.modK_serials (d : Dev) (f : Kept → Kept) : (d.modK f).serials = d.serials := rfl
@[simp] theorem Dev.modK_pcie (d : Dev) (f : Kept → Kept) : (d.modK f).pcie = d.pcie := rfl
@[simp] theorem Dev.modK_can (d : Dev) (f : Kept → Kept) : (d.modK f).can = d.can := rfl
@[simp] theorem Dev.modK_lin (d : Dev) (f : Kept → Kept) : (d.modK f).lin = d.lin := rfl
@[simp] theorem Dev.modK_quiet (d : Dev) (f : Kept → Kept) : (d.modK f).quiet = d.quiet := rfl
@[simp] theorem Dev.modK_inHand (d : Dev) (f : Kept → Kept) : (d.modK f).inHand = d.inHand := rfl
@[simp] theorem Dev.modK_blob (d : Dev) (f : Kept → Kept) : (d.modK f).blob = d.blob := rfl
@[simp] theorem Dev.modK_transfer (d : Dev) (f : Kept → Kept) : (d.modK f).transfer = d.transfer := rfl
@[simp] theorem Dev.modK_srBackoff (d : Dev) (f : Kept → Kept) : (d.modK f).srBackoff = d.srBackoff := rfl
@[simp] theorem Dev.modK_unwrapBackoff (d : Dev) (f : Kept → Kept) : (d.modK f).unwrapBackoff = d.unwrapBackoff := rfl
@[simp] theorem Dev.modK_superseded (d : Dev) (f : Kept → Kept) : (d.modK f).superseded = d.superseded := rfl
@[simp] theorem Dev.modK_unwraps (d : Dev) (f : Kept → Kept) : (d.modK f).unwraps = d.unwraps := rfl
@[simp] theorem Dev.modK_commitAcc (d : Dev) (f : Kept → Kept) : (d.modK f).commitAcc = d.commitAcc := rfl
@[simp] theorem Dev.modK_linkTx (d : Dev) (f : Kept → Kept) : (d.modK f).linkTx = d.linkTx := rfl
@[simp] theorem Dev.modK_linkRx (d : Dev) (f : Kept → Kept) : (d.modK f).linkRx = d.linkRx := rfl
@[simp] theorem Dev.modK_unacked (d : Dev) (f : Kept → Kept) : (d.modK f).unacked = d.unacked := rfl
@[simp] theorem Dev.modK_proofDue (d : Dev) (f : Kept → Kept) : (d.modK f).proofDue = d.proofDue := rfl
@[simp] theorem Dev.modK_eth (d : Dev) (f : Kept → Kept) : (d.modK f).eth = d.eth := rfl
@[simp] theorem Dev.modK_tookOver (d : Dev) (f : Kept → Kept) : (d.modK f).tookOver = d.tookOver := rfl
@[simp] theorem Dev.modK_marks (d : Dev) (f : Kept → Kept) : (d.modK f).marks = d.marks := rfl
@[simp] theorem Dev.modK_hostBytes (d : Dev) (f : Kept → Kept) : (d.modK f).hostBytes = d.hostBytes := rfl
@[simp] theorem Dev.modK_inputs (d : Dev) (f : Kept → Kept) : (d.modK f).inputs = d.inputs := rfl
@[simp] theorem Dev.modK_park (d : Dev) (f : Kept → Kept) : (d.modK f).park = d.park := rfl
@[simp] theorem Dev.modK_images (d : Dev) (f : Kept → Kept) : (d.modK f).images = d.images := rfl
@[simp] theorem Dev.modK_live (d : Dev) (f : Kept → Kept) : (d.modK f).live = d.live := rfl
@[simp] theorem Dev.modK_commitNo (d : Dev) (f : Kept → Kept) : (d.modK f).commitNo = d.commitNo := rfl
@[simp] theorem Dev.modK_appliedAt (d : Dev) (f : Kept → Kept) : (d.modK f).appliedAt = d.appliedAt := rfl
@[simp] theorem Dev.modK_openDelta (d : Dev) (f : Kept → Kept) : (d.modK f).openDelta = d.openDelta := rfl
@[simp] theorem Dev.modK_pair (d : Dev) (f : Kept → Kept) : (d.modK f).pair = d.pair := rfl
@[simp] theorem Dev.modK_boot (d : Dev) (f : Kept → Kept) : (d.modK f).boot = d.boot := rfl

@[simp] theorem Dev.wr_mode (d : Dev) (f : Fld) (ix : List Nat) (v : Nat) : (d.wr f ix v).mode = d.mode := rfl
@[simp] theorem Dev.wr_mirror (d : Dev) (f : Fld) (ix : List Nat) (v : Nat) : (d.wr f ix v).mirror = d.mirror := rfl
@[simp] theorem Dev.wr_cut (d : Dev) (f : Fld) (ix : List Nat) (v : Nat) : (d.wr f ix v).cut = d.cut := rfl
@[simp] theorem Dev.wr_sent (d : Dev) (f : Fld) (ix : List Nat) (v : Nat) : (d.wr f ix v).sent = d.sent := rfl
@[simp] theorem Dev.wr_rewrites (d : Dev) (f : Fld) (ix : List Nat) (v : Nat) : (d.wr f ix v).rewrites = d.rewrites := rfl
@[simp] theorem Dev.wr_cutBytes (d : Dev) (f : Fld) (ix : List Nat) (v : Nat) : (d.wr f ix v).cutBytes = d.cutBytes := rfl
@[simp] theorem Dev.wr_recCtl (d : Dev) (f : Fld) (ix : List Nat) (v : Nat) : (d.wr f ix v).recCtl = d.recCtl := rfl
@[simp] theorem Dev.wr_now (d : Dev) (f : Fld) (ix : List Nat) (v : Nat) : (d.wr f ix v).now = d.now := rfl
@[simp] theorem Dev.wr_gradeF (d : Dev) (f : Fld) (ix : List Nat) (v : Nat) : (d.wr f ix v).gradeF = d.gradeF := rfl
@[simp] theorem Dev.wr_fresh (d : Dev) (f : Fld) (ix : List Nat) (v : Nat) : (d.wr f ix v).fresh = d.fresh := rfl
@[simp] theorem Dev.wr_out (d : Dev) (f : Fld) (ix : List Nat) (v : Nat) : (d.wr f ix v).out = d.out := rfl
@[simp] theorem Dev.wr_tickStart (d : Dev) (f : Fld) (ix : List Nat) (v : Nat) : (d.wr f ix v).tickStart = d.tickStart := rfl
@[simp] theorem Dev.wr_tickLen (d : Dev) (f : Fld) (ix : List Nat) (v : Nat) : (d.wr f ix v).tickLen = d.tickLen := rfl
@[simp] theorem Dev.wr_track (d : Dev) (f : Fld) (ix : List Nat) (v : Nat) : (d.wr f ix v).track = d.track := rfl
@[simp] theorem Dev.wr_alm (d : Dev) (f : Fld) (ix : List Nat) (v : Nat) : (d.wr f ix v).alm = d.alm := rfl
@[simp] theorem Dev.wr_arrivals (d : Dev) (f : Fld) (ix : List Nat) (v : Nat) : (d.wr f ix v).arrivals = d.arrivals := rfl
@[simp] theorem Dev.wr_packets (d : Dev) (f : Fld) (ix : List Nat) (v : Nat) : (d.wr f ix v).packets = d.packets := rfl
@[simp] theorem Dev.wr_queues (d : Dev) (f : Fld) (ix : List Nat) (v : Nat) : (d.wr f ix v).queues = d.queues := rfl
@[simp] theorem Dev.wr_resHeld (d : Dev) (f : Fld) (ix : List Nat) (v : Nat) : (d.wr f ix v).resHeld = d.resHeld := rfl
@[simp] theorem Dev.wr_shHeld (d : Dev) (f : Fld) (ix : List Nat) (v : Nat) : (d.wr f ix v).shHeld = d.shHeld := rfl
@[simp] theorem Dev.wr_poolOff (d : Dev) (f : Fld) (ix : List Nat) (v : Nat) : (d.wr f ix v).poolOff = d.poolOff := rfl
@[simp] theorem Dev.wr_poolNoticed (d : Dev) (f : Fld) (ix : List Nat) (v : Nat) : (d.wr f ix v).poolNoticed = d.poolNoticed := rfl
@[simp] theorem Dev.wr_memPart (d : Dev) (f : Fld) (ix : List Nat) (v : Nat) : (d.wr f ix v).memPart = d.memPart := rfl
@[simp] theorem Dev.wr_toClassify (d : Dev) (f : Fld) (ix : List Nat) (v : Nat) : (d.wr f ix v).toClassify = d.toClassify := rfl
@[simp] theorem Dev.wr_buckets (d : Dev) (f : Fld) (ix : List Nat) (v : Nat) : (d.wr f ix v).buckets = d.buckets := rfl
@[simp] theorem Dev.wr_recs (d : Dev) (f : Fld) (ix : List Nat) (v : Nat) : (d.wr f ix v).recs = d.recs := rfl
@[simp] theorem Dev.wr_spans (d : Dev) (f : Fld) (ix : List Nat) (v : Nat) : (d.wr f ix v).spans = d.spans := rfl
@[simp] theorem Dev.wr_cores (d : Dev) (f : Fld) (ix : List Nat) (v : Nat) : (d.wr f ix v).cores = d.cores := rfl
@[simp] theorem Dev.wr_sharedPend (d : Dev) (f : Fld) (ix : List Nat) (v : Nat) : (d.wr f ix v).sharedPend = d.sharedPend := rfl
@[simp] theorem Dev.wr_body (d : Dev) (f : Fld) (ix : List Nat) (v : Nat) : (d.wr f ix v).body = d.body := rfl
@[simp] theorem Dev.wr_release (d : Dev) (f : Fld) (ix : List Nat) (v : Nat) : (d.wr f ix v).release = d.release := rfl
@[simp] theorem Dev.wr_pendReads (d : Dev) (f : Fld) (ix : List Nat) (v : Nat) : (d.wr f ix v).pendReads = d.pendReads := rfl
@[simp] theorem Dev.wr_msix (d : Dev) (f : Fld) (ix : List Nat) (v : Nat) : (d.wr f ix v).msix = d.msix := rfl
@[simp] theorem Dev.wr_msixPend (d : Dev) (f : Fld) (ix : List Nat) (v : Nat) : (d.wr f ix v).msixPend = d.msixPend := rfl
@[simp] theorem Dev.wr_octLatch (d : Dev) (f : Fld) (ix : List Nat) (v : Nat) : (d.wr f ix v).octLatch = d.octLatch := rfl
@[simp] theorem Dev.wr_acc (d : Dev) (f : Fld) (ix : List Nat) (v : Nat) : (d.wr f ix v).acc = d.acc := rfl
@[simp] theorem Dev.wr_segs (d : Dev) (f : Fld) (ix : List Nat) (v : Nat) : (d.wr f ix v).segs = d.segs := rfl
@[simp] theorem Dev.wr_pastSegs (d : Dev) (f : Fld) (ix : List Nat) (v : Nat) : (d.wr f ix v).pastSegs = d.pastSegs := rfl
@[simp] theorem Dev.wr_hist (d : Dev) (f : Fld) (ix : List Nat) (v : Nat) : (d.wr f ix v).hist = d.hist := rfl
@[simp] theorem Dev.wr_stamps (d : Dev) (f : Fld) (ix : List Nat) (v : Nat) : (d.wr f ix v).stamps = d.stamps := rfl
@[simp] theorem Dev.wr_ledger (d : Dev) (f : Fld) (ix : List Nat) (v : Nat) : (d.wr f ix v).ledger = d.ledger := rfl
@[simp] theorem Dev.wr_overflow (d : Dev) (f : Fld) (ix : List Nat) (v : Nat) : (d.wr f ix v).overflow = d.overflow := rfl
@[simp] theorem Dev.wr_recWait (d : Dev) (f : Fld) (ix : List Nat) (v : Nat) : (d.wr f ix v).recWait = d.recWait := rfl
@[simp] theorem Dev.wr_recMark (d : Dev) (f : Fld) (ix : List Nat) (v : Nat) : (d.wr f ix v).recMark = d.recMark := rfl
@[simp] theorem Dev.wr_recShort (d : Dev) (f : Fld) (ix : List Nat) (v : Nat) : (d.wr f ix v).recShort = d.recShort := rfl
@[simp] theorem Dev.wr_recGap (d : Dev) (f : Fld) (ix : List Nat) (v : Nat) : (d.wr f ix v).recGap = d.recGap := rfl
@[simp] theorem Dev.wr_chans (d : Dev) (f : Fld) (ix : List Nat) (v : Nat) : (d.wr f ix v).chans = d.chans := rfl
@[simp] theorem Dev.wr_dies (d : Dev) (f : Fld) (ix : List Nat) (v : Nat) : (d.wr f ix v).dies = d.dies := rfl
@[simp] theorem Dev.wr_latch (d : Dev) (f : Fld) (ix : List Nat) (v : Nat) : (d.wr f ix v).latch = d.latch := rfl
@[simp] theorem Dev.wr_latchNext (d : Dev) (f : Fld) (ix : List Nat) (v : Nat) : (d.wr f ix v).latchNext = d.latchNext := rfl
@[simp] theorem Dev.wr_cutDone (d : Dev) (f : Fld) (ix : List Nat) (v : Nat) : (d.wr f ix v).cutDone = d.cutDone := rfl
@[simp] theorem Dev.wr_deltaDone (d : Dev) (f : Fld) (ix : List Nat) (v : Nat) : (d.wr f ix v).deltaDone = d.deltaDone := rfl
@[simp] theorem Dev.wr_strobe (d : Dev) (f : Fld) (ix : List Nat) (v : Nat) : (d.wr f ix v).strobe = d.strobe := rfl
@[simp] theorem Dev.wr_strobeDue (d : Dev) (f : Fld) (ix : List Nat) (v : Nat) : (d.wr f ix v).strobeDue = d.strobeDue := rfl
@[simp] theorem Dev.wr_arb (d : Dev) (f : Fld) (ix : List Nat) (v : Nat) : (d.wr f ix v).arb = d.arb := rfl
@[simp] theorem Dev.wr_arbUsed (d : Dev) (f : Fld) (ix : List Nat) (v : Nat) : (d.wr f ix v).arbUsed = d.arbUsed := rfl
@[simp] theorem Dev.wr_wd (d : Dev) (f : Fld) (ix : List Nat) (v : Nat) : (d.wr f ix v).wd = d.wd := rfl
@[simp] theorem Dev.wr_wdTimes (d : Dev) (f : Fld) (ix : List Nat) (v : Nat) : (d.wr f ix v).wdTimes = d.wdTimes := rfl
@[simp] theorem Dev.wr_doorbells (d : Dev) (f : Fld) (ix : List Nat) (v : Nat) : (d.wr f ix v).doorbells = d.doorbells := rfl
@[simp] theorem Dev.wr_gates (d : Dev) (f : Fld) (ix : List Nat) (v : Nat) : (d.wr f ix v).gates = d.gates := rfl
@[simp] theorem Dev.wr_slips (d : Dev) (f : Fld) (ix : List Nat) (v : Nat) : (d.wr f ix v).slips = d.slips := rfl
@[simp] theorem Dev.wr_serials (d : Dev) (f : Fld) (ix : List Nat) (v : Nat) : (d.wr f ix v).serials = d.serials := rfl
@[simp] theorem Dev.wr_pcie (d : Dev) (f : Fld) (ix : List Nat) (v : Nat) : (d.wr f ix v).pcie = d.pcie := rfl
@[simp] theorem Dev.wr_can (d : Dev) (f : Fld) (ix : List Nat) (v : Nat) : (d.wr f ix v).can = d.can := rfl
@[simp] theorem Dev.wr_lin (d : Dev) (f : Fld) (ix : List Nat) (v : Nat) : (d.wr f ix v).lin = d.lin := rfl
@[simp] theorem Dev.wr_quiet (d : Dev) (f : Fld) (ix : List Nat) (v : Nat) : (d.wr f ix v).quiet = d.quiet := rfl
@[simp] theorem Dev.wr_inHand (d : Dev) (f : Fld) (ix : List Nat) (v : Nat) : (d.wr f ix v).inHand = d.inHand := rfl
@[simp] theorem Dev.wr_blob (d : Dev) (f : Fld) (ix : List Nat) (v : Nat) : (d.wr f ix v).blob = d.blob := rfl
@[simp] theorem Dev.wr_transfer (d : Dev) (f : Fld) (ix : List Nat) (v : Nat) : (d.wr f ix v).transfer = d.transfer := rfl
@[simp] theorem Dev.wr_srBackoff (d : Dev) (f : Fld) (ix : List Nat) (v : Nat) : (d.wr f ix v).srBackoff = d.srBackoff := rfl
@[simp] theorem Dev.wr_unwrapBackoff (d : Dev) (f : Fld) (ix : List Nat) (v : Nat) : (d.wr f ix v).unwrapBackoff = d.unwrapBackoff := rfl
@[simp] theorem Dev.wr_superseded (d : Dev) (f : Fld) (ix : List Nat) (v : Nat) : (d.wr f ix v).superseded = d.superseded := rfl
@[simp] theorem Dev.wr_unwraps (d : Dev) (f : Fld) (ix : List Nat) (v : Nat) : (d.wr f ix v).unwraps = d.unwraps := rfl
@[simp] theorem Dev.wr_commitAcc (d : Dev) (f : Fld) (ix : List Nat) (v : Nat) : (d.wr f ix v).commitAcc = d.commitAcc := rfl
@[simp] theorem Dev.wr_linkTx (d : Dev) (f : Fld) (ix : List Nat) (v : Nat) : (d.wr f ix v).linkTx = d.linkTx := rfl
@[simp] theorem Dev.wr_linkRx (d : Dev) (f : Fld) (ix : List Nat) (v : Nat) : (d.wr f ix v).linkRx = d.linkRx := rfl
@[simp] theorem Dev.wr_unacked (d : Dev) (f : Fld) (ix : List Nat) (v : Nat) : (d.wr f ix v).unacked = d.unacked := rfl
@[simp] theorem Dev.wr_proofDue (d : Dev) (f : Fld) (ix : List Nat) (v : Nat) : (d.wr f ix v).proofDue = d.proofDue := rfl
@[simp] theorem Dev.wr_eth (d : Dev) (f : Fld) (ix : List Nat) (v : Nat) : (d.wr f ix v).eth = d.eth := rfl
@[simp] theorem Dev.wr_tookOver (d : Dev) (f : Fld) (ix : List Nat) (v : Nat) : (d.wr f ix v).tookOver = d.tookOver := rfl
@[simp] theorem Dev.wr_marks (d : Dev) (f : Fld) (ix : List Nat) (v : Nat) : (d.wr f ix v).marks = d.marks := rfl
@[simp] theorem Dev.wr_hostBytes (d : Dev) (f : Fld) (ix : List Nat) (v : Nat) : (d.wr f ix v).hostBytes = d.hostBytes := rfl
@[simp] theorem Dev.wr_inputs (d : Dev) (f : Fld) (ix : List Nat) (v : Nat) : (d.wr f ix v).inputs = d.inputs := rfl
@[simp] theorem Dev.wr_park (d : Dev) (f : Fld) (ix : List Nat) (v : Nat) : (d.wr f ix v).park = d.park := rfl
@[simp] theorem Dev.wr_images (d : Dev) (f : Fld) (ix : List Nat) (v : Nat) : (d.wr f ix v).images = d.images := rfl
@[simp] theorem Dev.wr_live (d : Dev) (f : Fld) (ix : List Nat) (v : Nat) : (d.wr f ix v).live = d.live := rfl
@[simp] theorem Dev.wr_commitNo (d : Dev) (f : Fld) (ix : List Nat) (v : Nat) : (d.wr f ix v).commitNo = d.commitNo := rfl
@[simp] theorem Dev.wr_appliedAt (d : Dev) (f : Fld) (ix : List Nat) (v : Nat) : (d.wr f ix v).appliedAt = d.appliedAt := rfl
@[simp] theorem Dev.wr_openDelta (d : Dev) (f : Fld) (ix : List Nat) (v : Nat) : (d.wr f ix v).openDelta = d.openDelta := rfl
@[simp] theorem Dev.wr_pair (d : Dev) (f : Fld) (ix : List Nat) (v : Nat) : (d.wr f ix v).pair = d.pair := rfl
@[simp] theorem Dev.wr_boot (d : Dev) (f : Fld) (ix : List Nat) (v : Nat) : (d.wr f ix v).boot = d.boot := rfl

@[simp] theorem Dev.bump_mode (d : Dev) (f : Fld) (ix : List Nat) (n : Nat) : (d.bump f ix n).mode = d.mode := rfl
@[simp] theorem Dev.bump_mirror (d : Dev) (f : Fld) (ix : List Nat) (n : Nat) : (d.bump f ix n).mirror = d.mirror := rfl
@[simp] theorem Dev.bump_cut (d : Dev) (f : Fld) (ix : List Nat) (n : Nat) : (d.bump f ix n).cut = d.cut := rfl
@[simp] theorem Dev.bump_sent (d : Dev) (f : Fld) (ix : List Nat) (n : Nat) : (d.bump f ix n).sent = d.sent := rfl
@[simp] theorem Dev.bump_rewrites (d : Dev) (f : Fld) (ix : List Nat) (n : Nat) : (d.bump f ix n).rewrites = d.rewrites := rfl
@[simp] theorem Dev.bump_cutBytes (d : Dev) (f : Fld) (ix : List Nat) (n : Nat) : (d.bump f ix n).cutBytes = d.cutBytes := rfl
@[simp] theorem Dev.bump_recCtl (d : Dev) (f : Fld) (ix : List Nat) (n : Nat) : (d.bump f ix n).recCtl = d.recCtl := rfl
@[simp] theorem Dev.bump_now (d : Dev) (f : Fld) (ix : List Nat) (n : Nat) : (d.bump f ix n).now = d.now := rfl
@[simp] theorem Dev.bump_gradeF (d : Dev) (f : Fld) (ix : List Nat) (n : Nat) : (d.bump f ix n).gradeF = d.gradeF := rfl
@[simp] theorem Dev.bump_fresh (d : Dev) (f : Fld) (ix : List Nat) (n : Nat) : (d.bump f ix n).fresh = d.fresh := rfl
@[simp] theorem Dev.bump_out (d : Dev) (f : Fld) (ix : List Nat) (n : Nat) : (d.bump f ix n).out = d.out := rfl
@[simp] theorem Dev.bump_tickStart (d : Dev) (f : Fld) (ix : List Nat) (n : Nat) : (d.bump f ix n).tickStart = d.tickStart := rfl
@[simp] theorem Dev.bump_tickLen (d : Dev) (f : Fld) (ix : List Nat) (n : Nat) : (d.bump f ix n).tickLen = d.tickLen := rfl
@[simp] theorem Dev.bump_track (d : Dev) (f : Fld) (ix : List Nat) (n : Nat) : (d.bump f ix n).track = d.track := rfl
@[simp] theorem Dev.bump_alm (d : Dev) (f : Fld) (ix : List Nat) (n : Nat) : (d.bump f ix n).alm = d.alm := rfl
@[simp] theorem Dev.bump_arrivals (d : Dev) (f : Fld) (ix : List Nat) (n : Nat) : (d.bump f ix n).arrivals = d.arrivals := rfl
@[simp] theorem Dev.bump_packets (d : Dev) (f : Fld) (ix : List Nat) (n : Nat) : (d.bump f ix n).packets = d.packets := rfl
@[simp] theorem Dev.bump_queues (d : Dev) (f : Fld) (ix : List Nat) (n : Nat) : (d.bump f ix n).queues = d.queues := rfl
@[simp] theorem Dev.bump_resHeld (d : Dev) (f : Fld) (ix : List Nat) (n : Nat) : (d.bump f ix n).resHeld = d.resHeld := rfl
@[simp] theorem Dev.bump_shHeld (d : Dev) (f : Fld) (ix : List Nat) (n : Nat) : (d.bump f ix n).shHeld = d.shHeld := rfl
@[simp] theorem Dev.bump_poolOff (d : Dev) (f : Fld) (ix : List Nat) (n : Nat) : (d.bump f ix n).poolOff = d.poolOff := rfl
@[simp] theorem Dev.bump_poolNoticed (d : Dev) (f : Fld) (ix : List Nat) (n : Nat) : (d.bump f ix n).poolNoticed = d.poolNoticed := rfl
@[simp] theorem Dev.bump_memPart (d : Dev) (f : Fld) (ix : List Nat) (n : Nat) : (d.bump f ix n).memPart = d.memPart := rfl
@[simp] theorem Dev.bump_toClassify (d : Dev) (f : Fld) (ix : List Nat) (n : Nat) : (d.bump f ix n).toClassify = d.toClassify := rfl
@[simp] theorem Dev.bump_buckets (d : Dev) (f : Fld) (ix : List Nat) (n : Nat) : (d.bump f ix n).buckets = d.buckets := rfl
@[simp] theorem Dev.bump_recs (d : Dev) (f : Fld) (ix : List Nat) (n : Nat) : (d.bump f ix n).recs = d.recs := rfl
@[simp] theorem Dev.bump_spans (d : Dev) (f : Fld) (ix : List Nat) (n : Nat) : (d.bump f ix n).spans = d.spans := rfl
@[simp] theorem Dev.bump_cores (d : Dev) (f : Fld) (ix : List Nat) (n : Nat) : (d.bump f ix n).cores = d.cores := rfl
@[simp] theorem Dev.bump_sharedPend (d : Dev) (f : Fld) (ix : List Nat) (n : Nat) : (d.bump f ix n).sharedPend = d.sharedPend := rfl
@[simp] theorem Dev.bump_body (d : Dev) (f : Fld) (ix : List Nat) (n : Nat) : (d.bump f ix n).body = d.body := rfl
@[simp] theorem Dev.bump_release (d : Dev) (f : Fld) (ix : List Nat) (n : Nat) : (d.bump f ix n).release = d.release := rfl
@[simp] theorem Dev.bump_msix (d : Dev) (f : Fld) (ix : List Nat) (n : Nat) : (d.bump f ix n).msix = d.msix := rfl
@[simp] theorem Dev.bump_msixPend (d : Dev) (f : Fld) (ix : List Nat) (n : Nat) : (d.bump f ix n).msixPend = d.msixPend := rfl
@[simp] theorem Dev.bump_octLatch (d : Dev) (f : Fld) (ix : List Nat) (n : Nat) : (d.bump f ix n).octLatch = d.octLatch := rfl
@[simp] theorem Dev.bump_acc (d : Dev) (f : Fld) (ix : List Nat) (n : Nat) : (d.bump f ix n).acc = d.acc := rfl
@[simp] theorem Dev.bump_segs (d : Dev) (f : Fld) (ix : List Nat) (n : Nat) : (d.bump f ix n).segs = d.segs := rfl
@[simp] theorem Dev.bump_pastSegs (d : Dev) (f : Fld) (ix : List Nat) (n : Nat) : (d.bump f ix n).pastSegs = d.pastSegs := rfl
@[simp] theorem Dev.bump_hist (d : Dev) (f : Fld) (ix : List Nat) (n : Nat) : (d.bump f ix n).hist = d.hist := rfl
@[simp] theorem Dev.bump_stamps (d : Dev) (f : Fld) (ix : List Nat) (n : Nat) : (d.bump f ix n).stamps = d.stamps := rfl
@[simp] theorem Dev.bump_ledger (d : Dev) (f : Fld) (ix : List Nat) (n : Nat) : (d.bump f ix n).ledger = d.ledger := rfl
@[simp] theorem Dev.bump_overflow (d : Dev) (f : Fld) (ix : List Nat) (n : Nat) : (d.bump f ix n).overflow = d.overflow := rfl
@[simp] theorem Dev.bump_recWait (d : Dev) (f : Fld) (ix : List Nat) (n : Nat) : (d.bump f ix n).recWait = d.recWait := rfl
@[simp] theorem Dev.bump_recMark (d : Dev) (f : Fld) (ix : List Nat) (n : Nat) : (d.bump f ix n).recMark = d.recMark := rfl
@[simp] theorem Dev.bump_recShort (d : Dev) (f : Fld) (ix : List Nat) (n : Nat) : (d.bump f ix n).recShort = d.recShort := rfl
@[simp] theorem Dev.bump_recGap (d : Dev) (f : Fld) (ix : List Nat) (n : Nat) : (d.bump f ix n).recGap = d.recGap := rfl
@[simp] theorem Dev.bump_chans (d : Dev) (f : Fld) (ix : List Nat) (n : Nat) : (d.bump f ix n).chans = d.chans := rfl
@[simp] theorem Dev.bump_dies (d : Dev) (f : Fld) (ix : List Nat) (n : Nat) : (d.bump f ix n).dies = d.dies := rfl
@[simp] theorem Dev.bump_latch (d : Dev) (f : Fld) (ix : List Nat) (n : Nat) : (d.bump f ix n).latch = d.latch := rfl
@[simp] theorem Dev.bump_latchNext (d : Dev) (f : Fld) (ix : List Nat) (n : Nat) : (d.bump f ix n).latchNext = d.latchNext := rfl
@[simp] theorem Dev.bump_cutDone (d : Dev) (f : Fld) (ix : List Nat) (n : Nat) : (d.bump f ix n).cutDone = d.cutDone := rfl
@[simp] theorem Dev.bump_deltaDone (d : Dev) (f : Fld) (ix : List Nat) (n : Nat) : (d.bump f ix n).deltaDone = d.deltaDone := rfl
@[simp] theorem Dev.bump_strobe (d : Dev) (f : Fld) (ix : List Nat) (n : Nat) : (d.bump f ix n).strobe = d.strobe := rfl
@[simp] theorem Dev.bump_strobeDue (d : Dev) (f : Fld) (ix : List Nat) (n : Nat) : (d.bump f ix n).strobeDue = d.strobeDue := rfl
@[simp] theorem Dev.bump_arb (d : Dev) (f : Fld) (ix : List Nat) (n : Nat) : (d.bump f ix n).arb = d.arb := rfl
@[simp] theorem Dev.bump_arbUsed (d : Dev) (f : Fld) (ix : List Nat) (n : Nat) : (d.bump f ix n).arbUsed = d.arbUsed := rfl
@[simp] theorem Dev.bump_wd (d : Dev) (f : Fld) (ix : List Nat) (n : Nat) : (d.bump f ix n).wd = d.wd := rfl
@[simp] theorem Dev.bump_wdTimes (d : Dev) (f : Fld) (ix : List Nat) (n : Nat) : (d.bump f ix n).wdTimes = d.wdTimes := rfl
@[simp] theorem Dev.bump_doorbells (d : Dev) (f : Fld) (ix : List Nat) (n : Nat) : (d.bump f ix n).doorbells = d.doorbells := rfl
@[simp] theorem Dev.bump_gates (d : Dev) (f : Fld) (ix : List Nat) (n : Nat) : (d.bump f ix n).gates = d.gates := rfl
@[simp] theorem Dev.bump_slips (d : Dev) (f : Fld) (ix : List Nat) (n : Nat) : (d.bump f ix n).slips = d.slips := rfl
@[simp] theorem Dev.bump_serials (d : Dev) (f : Fld) (ix : List Nat) (n : Nat) : (d.bump f ix n).serials = d.serials := rfl
@[simp] theorem Dev.bump_pcie (d : Dev) (f : Fld) (ix : List Nat) (n : Nat) : (d.bump f ix n).pcie = d.pcie := rfl
@[simp] theorem Dev.bump_can (d : Dev) (f : Fld) (ix : List Nat) (n : Nat) : (d.bump f ix n).can = d.can := rfl
@[simp] theorem Dev.bump_lin (d : Dev) (f : Fld) (ix : List Nat) (n : Nat) : (d.bump f ix n).lin = d.lin := rfl
@[simp] theorem Dev.bump_quiet (d : Dev) (f : Fld) (ix : List Nat) (n : Nat) : (d.bump f ix n).quiet = d.quiet := rfl
@[simp] theorem Dev.bump_inHand (d : Dev) (f : Fld) (ix : List Nat) (n : Nat) : (d.bump f ix n).inHand = d.inHand := rfl
@[simp] theorem Dev.bump_blob (d : Dev) (f : Fld) (ix : List Nat) (n : Nat) : (d.bump f ix n).blob = d.blob := rfl
@[simp] theorem Dev.bump_transfer (d : Dev) (f : Fld) (ix : List Nat) (n : Nat) : (d.bump f ix n).transfer = d.transfer := rfl
@[simp] theorem Dev.bump_srBackoff (d : Dev) (f : Fld) (ix : List Nat) (n : Nat) : (d.bump f ix n).srBackoff = d.srBackoff := rfl
@[simp] theorem Dev.bump_unwrapBackoff (d : Dev) (f : Fld) (ix : List Nat) (n : Nat) : (d.bump f ix n).unwrapBackoff = d.unwrapBackoff := rfl
@[simp] theorem Dev.bump_superseded (d : Dev) (f : Fld) (ix : List Nat) (n : Nat) : (d.bump f ix n).superseded = d.superseded := rfl
@[simp] theorem Dev.bump_unwraps (d : Dev) (f : Fld) (ix : List Nat) (n : Nat) : (d.bump f ix n).unwraps = d.unwraps := rfl
@[simp] theorem Dev.bump_commitAcc (d : Dev) (f : Fld) (ix : List Nat) (n : Nat) : (d.bump f ix n).commitAcc = d.commitAcc := rfl
@[simp] theorem Dev.bump_linkTx (d : Dev) (f : Fld) (ix : List Nat) (n : Nat) : (d.bump f ix n).linkTx = d.linkTx := rfl
@[simp] theorem Dev.bump_linkRx (d : Dev) (f : Fld) (ix : List Nat) (n : Nat) : (d.bump f ix n).linkRx = d.linkRx := rfl
@[simp] theorem Dev.bump_unacked (d : Dev) (f : Fld) (ix : List Nat) (n : Nat) : (d.bump f ix n).unacked = d.unacked := rfl
@[simp] theorem Dev.bump_proofDue (d : Dev) (f : Fld) (ix : List Nat) (n : Nat) : (d.bump f ix n).proofDue = d.proofDue := rfl
@[simp] theorem Dev.bump_eth (d : Dev) (f : Fld) (ix : List Nat) (n : Nat) : (d.bump f ix n).eth = d.eth := rfl
@[simp] theorem Dev.bump_tookOver (d : Dev) (f : Fld) (ix : List Nat) (n : Nat) : (d.bump f ix n).tookOver = d.tookOver := rfl
@[simp] theorem Dev.bump_marks (d : Dev) (f : Fld) (ix : List Nat) (n : Nat) : (d.bump f ix n).marks = d.marks := rfl
@[simp] theorem Dev.bump_hostBytes (d : Dev) (f : Fld) (ix : List Nat) (n : Nat) : (d.bump f ix n).hostBytes = d.hostBytes := rfl
@[simp] theorem Dev.bump_inputs (d : Dev) (f : Fld) (ix : List Nat) (n : Nat) : (d.bump f ix n).inputs = d.inputs := rfl
@[simp] theorem Dev.bump_park (d : Dev) (f : Fld) (ix : List Nat) (n : Nat) : (d.bump f ix n).park = d.park := rfl
@[simp] theorem Dev.bump_images (d : Dev) (f : Fld) (ix : List Nat) (n : Nat) : (d.bump f ix n).images = d.images := rfl
@[simp] theorem Dev.bump_live (d : Dev) (f : Fld) (ix : List Nat) (n : Nat) : (d.bump f ix n).live = d.live := rfl
@[simp] theorem Dev.bump_commitNo (d : Dev) (f : Fld) (ix : List Nat) (n : Nat) : (d.bump f ix n).commitNo = d.commitNo := rfl
@[simp] theorem Dev.bump_appliedAt (d : Dev) (f : Fld) (ix : List Nat) (n : Nat) : (d.bump f ix n).appliedAt = d.appliedAt := rfl
@[simp] theorem Dev.bump_openDelta (d : Dev) (f : Fld) (ix : List Nat) (n : Nat) : (d.bump f ix n).openDelta = d.openDelta := rfl
@[simp] theorem Dev.bump_pair (d : Dev) (f : Fld) (ix : List Nat) (n : Nat) : (d.bump f ix n).pair = d.pair := rfl
@[simp] theorem Dev.bump_boot (d : Dev) (f : Fld) (ix : List Nat) (n : Nat) : (d.bump f ix n).boot = d.boot := rfl

@[simp] theorem Dev.incr_mode (d : Dev) (f : Fld) (ix : List Nat) : (d.incr f ix).mode = d.mode := rfl
@[simp] theorem Dev.incr_mirror (d : Dev) (f : Fld) (ix : List Nat) : (d.incr f ix).mirror = d.mirror := rfl
@[simp] theorem Dev.incr_cut (d : Dev) (f : Fld) (ix : List Nat) : (d.incr f ix).cut = d.cut := rfl
@[simp] theorem Dev.incr_sent (d : Dev) (f : Fld) (ix : List Nat) : (d.incr f ix).sent = d.sent := rfl
@[simp] theorem Dev.incr_rewrites (d : Dev) (f : Fld) (ix : List Nat) : (d.incr f ix).rewrites = d.rewrites := rfl
@[simp] theorem Dev.incr_cutBytes (d : Dev) (f : Fld) (ix : List Nat) : (d.incr f ix).cutBytes = d.cutBytes := rfl
@[simp] theorem Dev.incr_recCtl (d : Dev) (f : Fld) (ix : List Nat) : (d.incr f ix).recCtl = d.recCtl := rfl
@[simp] theorem Dev.incr_now (d : Dev) (f : Fld) (ix : List Nat) : (d.incr f ix).now = d.now := rfl
@[simp] theorem Dev.incr_gradeF (d : Dev) (f : Fld) (ix : List Nat) : (d.incr f ix).gradeF = d.gradeF := rfl
@[simp] theorem Dev.incr_fresh (d : Dev) (f : Fld) (ix : List Nat) : (d.incr f ix).fresh = d.fresh := rfl
@[simp] theorem Dev.incr_out (d : Dev) (f : Fld) (ix : List Nat) : (d.incr f ix).out = d.out := rfl
@[simp] theorem Dev.incr_tickStart (d : Dev) (f : Fld) (ix : List Nat) : (d.incr f ix).tickStart = d.tickStart := rfl
@[simp] theorem Dev.incr_tickLen (d : Dev) (f : Fld) (ix : List Nat) : (d.incr f ix).tickLen = d.tickLen := rfl
@[simp] theorem Dev.incr_track (d : Dev) (f : Fld) (ix : List Nat) : (d.incr f ix).track = d.track := rfl
@[simp] theorem Dev.incr_alm (d : Dev) (f : Fld) (ix : List Nat) : (d.incr f ix).alm = d.alm := rfl
@[simp] theorem Dev.incr_arrivals (d : Dev) (f : Fld) (ix : List Nat) : (d.incr f ix).arrivals = d.arrivals := rfl
@[simp] theorem Dev.incr_packets (d : Dev) (f : Fld) (ix : List Nat) : (d.incr f ix).packets = d.packets := rfl
@[simp] theorem Dev.incr_queues (d : Dev) (f : Fld) (ix : List Nat) : (d.incr f ix).queues = d.queues := rfl
@[simp] theorem Dev.incr_resHeld (d : Dev) (f : Fld) (ix : List Nat) : (d.incr f ix).resHeld = d.resHeld := rfl
@[simp] theorem Dev.incr_shHeld (d : Dev) (f : Fld) (ix : List Nat) : (d.incr f ix).shHeld = d.shHeld := rfl
@[simp] theorem Dev.incr_poolOff (d : Dev) (f : Fld) (ix : List Nat) : (d.incr f ix).poolOff = d.poolOff := rfl
@[simp] theorem Dev.incr_poolNoticed (d : Dev) (f : Fld) (ix : List Nat) : (d.incr f ix).poolNoticed = d.poolNoticed := rfl
@[simp] theorem Dev.incr_memPart (d : Dev) (f : Fld) (ix : List Nat) : (d.incr f ix).memPart = d.memPart := rfl
@[simp] theorem Dev.incr_toClassify (d : Dev) (f : Fld) (ix : List Nat) : (d.incr f ix).toClassify = d.toClassify := rfl
@[simp] theorem Dev.incr_buckets (d : Dev) (f : Fld) (ix : List Nat) : (d.incr f ix).buckets = d.buckets := rfl
@[simp] theorem Dev.incr_recs (d : Dev) (f : Fld) (ix : List Nat) : (d.incr f ix).recs = d.recs := rfl
@[simp] theorem Dev.incr_spans (d : Dev) (f : Fld) (ix : List Nat) : (d.incr f ix).spans = d.spans := rfl
@[simp] theorem Dev.incr_cores (d : Dev) (f : Fld) (ix : List Nat) : (d.incr f ix).cores = d.cores := rfl
@[simp] theorem Dev.incr_sharedPend (d : Dev) (f : Fld) (ix : List Nat) : (d.incr f ix).sharedPend = d.sharedPend := rfl
@[simp] theorem Dev.incr_body (d : Dev) (f : Fld) (ix : List Nat) : (d.incr f ix).body = d.body := rfl
@[simp] theorem Dev.incr_release (d : Dev) (f : Fld) (ix : List Nat) : (d.incr f ix).release = d.release := rfl
@[simp] theorem Dev.incr_pendReads (d : Dev) (f : Fld) (ix : List Nat) : (d.incr f ix).pendReads = d.pendReads := rfl
@[simp] theorem Dev.incr_msix (d : Dev) (f : Fld) (ix : List Nat) : (d.incr f ix).msix = d.msix := rfl
@[simp] theorem Dev.incr_msixPend (d : Dev) (f : Fld) (ix : List Nat) : (d.incr f ix).msixPend = d.msixPend := rfl
@[simp] theorem Dev.incr_octLatch (d : Dev) (f : Fld) (ix : List Nat) : (d.incr f ix).octLatch = d.octLatch := rfl
@[simp] theorem Dev.incr_acc (d : Dev) (f : Fld) (ix : List Nat) : (d.incr f ix).acc = d.acc := rfl
@[simp] theorem Dev.incr_segs (d : Dev) (f : Fld) (ix : List Nat) : (d.incr f ix).segs = d.segs := rfl
@[simp] theorem Dev.incr_pastSegs (d : Dev) (f : Fld) (ix : List Nat) : (d.incr f ix).pastSegs = d.pastSegs := rfl
@[simp] theorem Dev.incr_hist (d : Dev) (f : Fld) (ix : List Nat) : (d.incr f ix).hist = d.hist := rfl
@[simp] theorem Dev.incr_stamps (d : Dev) (f : Fld) (ix : List Nat) : (d.incr f ix).stamps = d.stamps := rfl
@[simp] theorem Dev.incr_ledger (d : Dev) (f : Fld) (ix : List Nat) : (d.incr f ix).ledger = d.ledger := rfl
@[simp] theorem Dev.incr_overflow (d : Dev) (f : Fld) (ix : List Nat) : (d.incr f ix).overflow = d.overflow := rfl
@[simp] theorem Dev.incr_recWait (d : Dev) (f : Fld) (ix : List Nat) : (d.incr f ix).recWait = d.recWait := rfl
@[simp] theorem Dev.incr_recMark (d : Dev) (f : Fld) (ix : List Nat) : (d.incr f ix).recMark = d.recMark := rfl
@[simp] theorem Dev.incr_recShort (d : Dev) (f : Fld) (ix : List Nat) : (d.incr f ix).recShort = d.recShort := rfl
@[simp] theorem Dev.incr_recGap (d : Dev) (f : Fld) (ix : List Nat) : (d.incr f ix).recGap = d.recGap := rfl
@[simp] theorem Dev.incr_chans (d : Dev) (f : Fld) (ix : List Nat) : (d.incr f ix).chans = d.chans := rfl
@[simp] theorem Dev.incr_dies (d : Dev) (f : Fld) (ix : List Nat) : (d.incr f ix).dies = d.dies := rfl
@[simp] theorem Dev.incr_latch (d : Dev) (f : Fld) (ix : List Nat) : (d.incr f ix).latch = d.latch := rfl
@[simp] theorem Dev.incr_latchNext (d : Dev) (f : Fld) (ix : List Nat) : (d.incr f ix).latchNext = d.latchNext := rfl
@[simp] theorem Dev.incr_cutDone (d : Dev) (f : Fld) (ix : List Nat) : (d.incr f ix).cutDone = d.cutDone := rfl
@[simp] theorem Dev.incr_deltaDone (d : Dev) (f : Fld) (ix : List Nat) : (d.incr f ix).deltaDone = d.deltaDone := rfl
@[simp] theorem Dev.incr_strobe (d : Dev) (f : Fld) (ix : List Nat) : (d.incr f ix).strobe = d.strobe := rfl
@[simp] theorem Dev.incr_strobeDue (d : Dev) (f : Fld) (ix : List Nat) : (d.incr f ix).strobeDue = d.strobeDue := rfl
@[simp] theorem Dev.incr_arb (d : Dev) (f : Fld) (ix : List Nat) : (d.incr f ix).arb = d.arb := rfl
@[simp] theorem Dev.incr_arbUsed (d : Dev) (f : Fld) (ix : List Nat) : (d.incr f ix).arbUsed = d.arbUsed := rfl
@[simp] theorem Dev.incr_wd (d : Dev) (f : Fld) (ix : List Nat) : (d.incr f ix).wd = d.wd := rfl
@[simp] theorem Dev.incr_wdTimes (d : Dev) (f : Fld) (ix : List Nat) : (d.incr f ix).wdTimes = d.wdTimes := rfl
@[simp] theorem Dev.incr_doorbells (d : Dev) (f : Fld) (ix : List Nat) : (d.incr f ix).doorbells = d.doorbells := rfl
@[simp] theorem Dev.incr_gates (d : Dev) (f : Fld) (ix : List Nat) : (d.incr f ix).gates = d.gates := rfl
@[simp] theorem Dev.incr_slips (d : Dev) (f : Fld) (ix : List Nat) : (d.incr f ix).slips = d.slips := rfl
@[simp] theorem Dev.incr_serials (d : Dev) (f : Fld) (ix : List Nat) : (d.incr f ix).serials = d.serials := rfl
@[simp] theorem Dev.incr_pcie (d : Dev) (f : Fld) (ix : List Nat) : (d.incr f ix).pcie = d.pcie := rfl
@[simp] theorem Dev.incr_can (d : Dev) (f : Fld) (ix : List Nat) : (d.incr f ix).can = d.can := rfl
@[simp] theorem Dev.incr_lin (d : Dev) (f : Fld) (ix : List Nat) : (d.incr f ix).lin = d.lin := rfl
@[simp] theorem Dev.incr_quiet (d : Dev) (f : Fld) (ix : List Nat) : (d.incr f ix).quiet = d.quiet := rfl
@[simp] theorem Dev.incr_inHand (d : Dev) (f : Fld) (ix : List Nat) : (d.incr f ix).inHand = d.inHand := rfl
@[simp] theorem Dev.incr_blob (d : Dev) (f : Fld) (ix : List Nat) : (d.incr f ix).blob = d.blob := rfl
@[simp] theorem Dev.incr_transfer (d : Dev) (f : Fld) (ix : List Nat) : (d.incr f ix).transfer = d.transfer := rfl
@[simp] theorem Dev.incr_srBackoff (d : Dev) (f : Fld) (ix : List Nat) : (d.incr f ix).srBackoff = d.srBackoff := rfl
@[simp] theorem Dev.incr_unwrapBackoff (d : Dev) (f : Fld) (ix : List Nat) : (d.incr f ix).unwrapBackoff = d.unwrapBackoff := rfl
@[simp] theorem Dev.incr_superseded (d : Dev) (f : Fld) (ix : List Nat) : (d.incr f ix).superseded = d.superseded := rfl
@[simp] theorem Dev.incr_unwraps (d : Dev) (f : Fld) (ix : List Nat) : (d.incr f ix).unwraps = d.unwraps := rfl
@[simp] theorem Dev.incr_commitAcc (d : Dev) (f : Fld) (ix : List Nat) : (d.incr f ix).commitAcc = d.commitAcc := rfl
@[simp] theorem Dev.incr_linkTx (d : Dev) (f : Fld) (ix : List Nat) : (d.incr f ix).linkTx = d.linkTx := rfl
@[simp] theorem Dev.incr_linkRx (d : Dev) (f : Fld) (ix : List Nat) : (d.incr f ix).linkRx = d.linkRx := rfl
@[simp] theorem Dev.incr_unacked (d : Dev) (f : Fld) (ix : List Nat) : (d.incr f ix).unacked = d.unacked := rfl
@[simp] theorem Dev.incr_proofDue (d : Dev) (f : Fld) (ix : List Nat) : (d.incr f ix).proofDue = d.proofDue := rfl
@[simp] theorem Dev.incr_eth (d : Dev) (f : Fld) (ix : List Nat) : (d.incr f ix).eth = d.eth := rfl
@[simp] theorem Dev.incr_tookOver (d : Dev) (f : Fld) (ix : List Nat) : (d.incr f ix).tookOver = d.tookOver := rfl
@[simp] theorem Dev.incr_marks (d : Dev) (f : Fld) (ix : List Nat) : (d.incr f ix).marks = d.marks := rfl
@[simp] theorem Dev.incr_hostBytes (d : Dev) (f : Fld) (ix : List Nat) : (d.incr f ix).hostBytes = d.hostBytes := rfl
@[simp] theorem Dev.incr_inputs (d : Dev) (f : Fld) (ix : List Nat) : (d.incr f ix).inputs = d.inputs := rfl
@[simp] theorem Dev.incr_park (d : Dev) (f : Fld) (ix : List Nat) : (d.incr f ix).park = d.park := rfl
@[simp] theorem Dev.incr_images (d : Dev) (f : Fld) (ix : List Nat) : (d.incr f ix).images = d.images := rfl
@[simp] theorem Dev.incr_live (d : Dev) (f : Fld) (ix : List Nat) : (d.incr f ix).live = d.live := rfl
@[simp] theorem Dev.incr_commitNo (d : Dev) (f : Fld) (ix : List Nat) : (d.incr f ix).commitNo = d.commitNo := rfl
@[simp] theorem Dev.incr_appliedAt (d : Dev) (f : Fld) (ix : List Nat) : (d.incr f ix).appliedAt = d.appliedAt := rfl
@[simp] theorem Dev.incr_openDelta (d : Dev) (f : Fld) (ix : List Nat) : (d.incr f ix).openDelta = d.openDelta := rfl
@[simp] theorem Dev.incr_pair (d : Dev) (f : Fld) (ix : List Nat) : (d.incr f ix).pair = d.pair := rfl
@[simp] theorem Dev.incr_boot (d : Dev) (f : Fld) (ix : List Nat) : (d.incr f ix).boot = d.boot := rfl

@[simp] theorem Dev.emit_mode (d : Dev) (o : Out) : (d.emit o).mode = d.mode := rfl
@[simp] theorem Dev.emit_kept (d : Dev) (o : Out) : (d.emit o).kept = d.kept := rfl
@[simp] theorem Dev.emit_mirror (d : Dev) (o : Out) : (d.emit o).mirror = d.mirror := rfl
@[simp] theorem Dev.emit_cut (d : Dev) (o : Out) : (d.emit o).cut = d.cut := rfl
@[simp] theorem Dev.emit_sent (d : Dev) (o : Out) : (d.emit o).sent = d.sent := rfl
@[simp] theorem Dev.emit_rewrites (d : Dev) (o : Out) : (d.emit o).rewrites = d.rewrites := rfl
@[simp] theorem Dev.emit_cutBytes (d : Dev) (o : Out) : (d.emit o).cutBytes = d.cutBytes := rfl
@[simp] theorem Dev.emit_recCtl (d : Dev) (o : Out) : (d.emit o).recCtl = d.recCtl := rfl
@[simp] theorem Dev.emit_now (d : Dev) (o : Out) : (d.emit o).now = d.now := rfl
@[simp] theorem Dev.emit_gradeF (d : Dev) (o : Out) : (d.emit o).gradeF = d.gradeF := rfl
@[simp] theorem Dev.emit_fresh (d : Dev) (o : Out) : (d.emit o).fresh = d.fresh := rfl
@[simp] theorem Dev.emit_tickStart (d : Dev) (o : Out) : (d.emit o).tickStart = d.tickStart := rfl
@[simp] theorem Dev.emit_tickLen (d : Dev) (o : Out) : (d.emit o).tickLen = d.tickLen := rfl
@[simp] theorem Dev.emit_track (d : Dev) (o : Out) : (d.emit o).track = d.track := rfl
@[simp] theorem Dev.emit_alm (d : Dev) (o : Out) : (d.emit o).alm = d.alm := rfl
@[simp] theorem Dev.emit_arrivals (d : Dev) (o : Out) : (d.emit o).arrivals = d.arrivals := rfl
@[simp] theorem Dev.emit_packets (d : Dev) (o : Out) : (d.emit o).packets = d.packets := rfl
@[simp] theorem Dev.emit_queues (d : Dev) (o : Out) : (d.emit o).queues = d.queues := rfl
@[simp] theorem Dev.emit_resHeld (d : Dev) (o : Out) : (d.emit o).resHeld = d.resHeld := rfl
@[simp] theorem Dev.emit_shHeld (d : Dev) (o : Out) : (d.emit o).shHeld = d.shHeld := rfl
@[simp] theorem Dev.emit_poolOff (d : Dev) (o : Out) : (d.emit o).poolOff = d.poolOff := rfl
@[simp] theorem Dev.emit_poolNoticed (d : Dev) (o : Out) : (d.emit o).poolNoticed = d.poolNoticed := rfl
@[simp] theorem Dev.emit_memPart (d : Dev) (o : Out) : (d.emit o).memPart = d.memPart := rfl
@[simp] theorem Dev.emit_toClassify (d : Dev) (o : Out) : (d.emit o).toClassify = d.toClassify := rfl
@[simp] theorem Dev.emit_buckets (d : Dev) (o : Out) : (d.emit o).buckets = d.buckets := rfl
@[simp] theorem Dev.emit_recs (d : Dev) (o : Out) : (d.emit o).recs = d.recs := rfl
@[simp] theorem Dev.emit_spans (d : Dev) (o : Out) : (d.emit o).spans = d.spans := rfl
@[simp] theorem Dev.emit_cores (d : Dev) (o : Out) : (d.emit o).cores = d.cores := rfl
@[simp] theorem Dev.emit_sharedPend (d : Dev) (o : Out) : (d.emit o).sharedPend = d.sharedPend := rfl
@[simp] theorem Dev.emit_body (d : Dev) (o : Out) : (d.emit o).body = d.body := rfl
@[simp] theorem Dev.emit_release (d : Dev) (o : Out) : (d.emit o).release = d.release := rfl
@[simp] theorem Dev.emit_pendReads (d : Dev) (o : Out) : (d.emit o).pendReads = d.pendReads := rfl
@[simp] theorem Dev.emit_msix (d : Dev) (o : Out) : (d.emit o).msix = d.msix := rfl
@[simp] theorem Dev.emit_msixPend (d : Dev) (o : Out) : (d.emit o).msixPend = d.msixPend := rfl
@[simp] theorem Dev.emit_octLatch (d : Dev) (o : Out) : (d.emit o).octLatch = d.octLatch := rfl
@[simp] theorem Dev.emit_acc (d : Dev) (o : Out) : (d.emit o).acc = d.acc := rfl
@[simp] theorem Dev.emit_segs (d : Dev) (o : Out) : (d.emit o).segs = d.segs := rfl
@[simp] theorem Dev.emit_pastSegs (d : Dev) (o : Out) : (d.emit o).pastSegs = d.pastSegs := rfl
@[simp] theorem Dev.emit_hist (d : Dev) (o : Out) : (d.emit o).hist = d.hist := rfl
@[simp] theorem Dev.emit_stamps (d : Dev) (o : Out) : (d.emit o).stamps = d.stamps := rfl
@[simp] theorem Dev.emit_ledger (d : Dev) (o : Out) : (d.emit o).ledger = d.ledger := rfl
@[simp] theorem Dev.emit_overflow (d : Dev) (o : Out) : (d.emit o).overflow = d.overflow := rfl
@[simp] theorem Dev.emit_recWait (d : Dev) (o : Out) : (d.emit o).recWait = d.recWait := rfl
@[simp] theorem Dev.emit_recMark (d : Dev) (o : Out) : (d.emit o).recMark = d.recMark := rfl
@[simp] theorem Dev.emit_recShort (d : Dev) (o : Out) : (d.emit o).recShort = d.recShort := rfl
@[simp] theorem Dev.emit_recGap (d : Dev) (o : Out) : (d.emit o).recGap = d.recGap := rfl
@[simp] theorem Dev.emit_chans (d : Dev) (o : Out) : (d.emit o).chans = d.chans := rfl
@[simp] theorem Dev.emit_dies (d : Dev) (o : Out) : (d.emit o).dies = d.dies := rfl
@[simp] theorem Dev.emit_latch (d : Dev) (o : Out) : (d.emit o).latch = d.latch := rfl
@[simp] theorem Dev.emit_latchNext (d : Dev) (o : Out) : (d.emit o).latchNext = d.latchNext := rfl
@[simp] theorem Dev.emit_cutDone (d : Dev) (o : Out) : (d.emit o).cutDone = d.cutDone := rfl
@[simp] theorem Dev.emit_deltaDone (d : Dev) (o : Out) : (d.emit o).deltaDone = d.deltaDone := rfl
@[simp] theorem Dev.emit_strobe (d : Dev) (o : Out) : (d.emit o).strobe = d.strobe := rfl
@[simp] theorem Dev.emit_strobeDue (d : Dev) (o : Out) : (d.emit o).strobeDue = d.strobeDue := rfl
@[simp] theorem Dev.emit_arb (d : Dev) (o : Out) : (d.emit o).arb = d.arb := rfl
@[simp] theorem Dev.emit_arbUsed (d : Dev) (o : Out) : (d.emit o).arbUsed = d.arbUsed := rfl
@[simp] theorem Dev.emit_wd (d : Dev) (o : Out) : (d.emit o).wd = d.wd := rfl
@[simp] theorem Dev.emit_wdTimes (d : Dev) (o : Out) : (d.emit o).wdTimes = d.wdTimes := rfl
@[simp] theorem Dev.emit_doorbells (d : Dev) (o : Out) : (d.emit o).doorbells = d.doorbells := rfl
@[simp] theorem Dev.emit_gates (d : Dev) (o : Out) : (d.emit o).gates = d.gates := rfl
@[simp] theorem Dev.emit_slips (d : Dev) (o : Out) : (d.emit o).slips = d.slips := rfl
@[simp] theorem Dev.emit_serials (d : Dev) (o : Out) : (d.emit o).serials = d.serials := rfl
@[simp] theorem Dev.emit_pcie (d : Dev) (o : Out) : (d.emit o).pcie = d.pcie := rfl
@[simp] theorem Dev.emit_can (d : Dev) (o : Out) : (d.emit o).can = d.can := rfl
@[simp] theorem Dev.emit_lin (d : Dev) (o : Out) : (d.emit o).lin = d.lin := rfl
@[simp] theorem Dev.emit_quiet (d : Dev) (o : Out) : (d.emit o).quiet = d.quiet := rfl
@[simp] theorem Dev.emit_inHand (d : Dev) (o : Out) : (d.emit o).inHand = d.inHand := rfl
@[simp] theorem Dev.emit_blob (d : Dev) (o : Out) : (d.emit o).blob = d.blob := rfl
@[simp] theorem Dev.emit_transfer (d : Dev) (o : Out) : (d.emit o).transfer = d.transfer := rfl
@[simp] theorem Dev.emit_srBackoff (d : Dev) (o : Out) : (d.emit o).srBackoff = d.srBackoff := rfl
@[simp] theorem Dev.emit_unwrapBackoff (d : Dev) (o : Out) : (d.emit o).unwrapBackoff = d.unwrapBackoff := rfl
@[simp] theorem Dev.emit_superseded (d : Dev) (o : Out) : (d.emit o).superseded = d.superseded := rfl
@[simp] theorem Dev.emit_unwraps (d : Dev) (o : Out) : (d.emit o).unwraps = d.unwraps := rfl
@[simp] theorem Dev.emit_commitAcc (d : Dev) (o : Out) : (d.emit o).commitAcc = d.commitAcc := rfl
@[simp] theorem Dev.emit_linkTx (d : Dev) (o : Out) : (d.emit o).linkTx = d.linkTx := rfl
@[simp] theorem Dev.emit_linkRx (d : Dev) (o : Out) : (d.emit o).linkRx = d.linkRx := rfl
@[simp] theorem Dev.emit_unacked (d : Dev) (o : Out) : (d.emit o).unacked = d.unacked := rfl
@[simp] theorem Dev.emit_proofDue (d : Dev) (o : Out) : (d.emit o).proofDue = d.proofDue := rfl
@[simp] theorem Dev.emit_eth (d : Dev) (o : Out) : (d.emit o).eth = d.eth := rfl
@[simp] theorem Dev.emit_tookOver (d : Dev) (o : Out) : (d.emit o).tookOver = d.tookOver := rfl
@[simp] theorem Dev.emit_marks (d : Dev) (o : Out) : (d.emit o).marks = d.marks := rfl
@[simp] theorem Dev.emit_hostBytes (d : Dev) (o : Out) : (d.emit o).hostBytes = d.hostBytes := rfl
@[simp] theorem Dev.emit_inputs (d : Dev) (o : Out) : (d.emit o).inputs = d.inputs := rfl
@[simp] theorem Dev.emit_park (d : Dev) (o : Out) : (d.emit o).park = d.park := rfl
@[simp] theorem Dev.emit_images (d : Dev) (o : Out) : (d.emit o).images = d.images := rfl
@[simp] theorem Dev.emit_live (d : Dev) (o : Out) : (d.emit o).live = d.live := rfl
@[simp] theorem Dev.emit_commitNo (d : Dev) (o : Out) : (d.emit o).commitNo = d.commitNo := rfl
@[simp] theorem Dev.emit_appliedAt (d : Dev) (o : Out) : (d.emit o).appliedAt = d.appliedAt := rfl
@[simp] theorem Dev.emit_openDelta (d : Dev) (o : Out) : (d.emit o).openDelta = d.openDelta := rfl
@[simp] theorem Dev.emit_pair (d : Dev) (o : Out) : (d.emit o).pair = d.pair := rfl
@[simp] theorem Dev.emit_boot (d : Dev) (o : Out) : (d.emit o).boot = d.boot := rfl

@[simp] theorem Dev.draw_mode (d : Dev) : d.draw.2.mode = d.mode := rfl
@[simp] theorem Dev.draw_kept (d : Dev) : d.draw.2.kept = d.kept := rfl
@[simp] theorem Dev.draw_mirror (d : Dev) : d.draw.2.mirror = d.mirror := rfl
@[simp] theorem Dev.draw_cut (d : Dev) : d.draw.2.cut = d.cut := rfl
@[simp] theorem Dev.draw_sent (d : Dev) : d.draw.2.sent = d.sent := rfl
@[simp] theorem Dev.draw_rewrites (d : Dev) : d.draw.2.rewrites = d.rewrites := rfl
@[simp] theorem Dev.draw_cutBytes (d : Dev) : d.draw.2.cutBytes = d.cutBytes := rfl
@[simp] theorem Dev.draw_recCtl (d : Dev) : d.draw.2.recCtl = d.recCtl := rfl
@[simp] theorem Dev.draw_now (d : Dev) : d.draw.2.now = d.now := rfl
@[simp] theorem Dev.draw_gradeF (d : Dev) : d.draw.2.gradeF = d.gradeF := rfl
@[simp] theorem Dev.draw_out (d : Dev) : d.draw.2.out = d.out := rfl
@[simp] theorem Dev.draw_tickStart (d : Dev) : d.draw.2.tickStart = d.tickStart := rfl
@[simp] theorem Dev.draw_tickLen (d : Dev) : d.draw.2.tickLen = d.tickLen := rfl
@[simp] theorem Dev.draw_track (d : Dev) : d.draw.2.track = d.track := rfl
@[simp] theorem Dev.draw_alm (d : Dev) : d.draw.2.alm = d.alm := rfl
@[simp] theorem Dev.draw_arrivals (d : Dev) : d.draw.2.arrivals = d.arrivals := rfl
@[simp] theorem Dev.draw_packets (d : Dev) : d.draw.2.packets = d.packets := rfl
@[simp] theorem Dev.draw_queues (d : Dev) : d.draw.2.queues = d.queues := rfl
@[simp] theorem Dev.draw_resHeld (d : Dev) : d.draw.2.resHeld = d.resHeld := rfl
@[simp] theorem Dev.draw_shHeld (d : Dev) : d.draw.2.shHeld = d.shHeld := rfl
@[simp] theorem Dev.draw_poolOff (d : Dev) : d.draw.2.poolOff = d.poolOff := rfl
@[simp] theorem Dev.draw_poolNoticed (d : Dev) : d.draw.2.poolNoticed = d.poolNoticed := rfl
@[simp] theorem Dev.draw_memPart (d : Dev) : d.draw.2.memPart = d.memPart := rfl
@[simp] theorem Dev.draw_toClassify (d : Dev) : d.draw.2.toClassify = d.toClassify := rfl
@[simp] theorem Dev.draw_buckets (d : Dev) : d.draw.2.buckets = d.buckets := rfl
@[simp] theorem Dev.draw_recs (d : Dev) : d.draw.2.recs = d.recs := rfl
@[simp] theorem Dev.draw_spans (d : Dev) : d.draw.2.spans = d.spans := rfl
@[simp] theorem Dev.draw_cores (d : Dev) : d.draw.2.cores = d.cores := rfl
@[simp] theorem Dev.draw_sharedPend (d : Dev) : d.draw.2.sharedPend = d.sharedPend := rfl
@[simp] theorem Dev.draw_body (d : Dev) : d.draw.2.body = d.body := rfl
@[simp] theorem Dev.draw_release (d : Dev) : d.draw.2.release = d.release := rfl
@[simp] theorem Dev.draw_pendReads (d : Dev) : d.draw.2.pendReads = d.pendReads := rfl
@[simp] theorem Dev.draw_msix (d : Dev) : d.draw.2.msix = d.msix := rfl
@[simp] theorem Dev.draw_msixPend (d : Dev) : d.draw.2.msixPend = d.msixPend := rfl
@[simp] theorem Dev.draw_octLatch (d : Dev) : d.draw.2.octLatch = d.octLatch := rfl
@[simp] theorem Dev.draw_acc (d : Dev) : d.draw.2.acc = d.acc := rfl
@[simp] theorem Dev.draw_segs (d : Dev) : d.draw.2.segs = d.segs := rfl
@[simp] theorem Dev.draw_pastSegs (d : Dev) : d.draw.2.pastSegs = d.pastSegs := rfl
@[simp] theorem Dev.draw_hist (d : Dev) : d.draw.2.hist = d.hist := rfl
@[simp] theorem Dev.draw_stamps (d : Dev) : d.draw.2.stamps = d.stamps := rfl
@[simp] theorem Dev.draw_ledger (d : Dev) : d.draw.2.ledger = d.ledger := rfl
@[simp] theorem Dev.draw_overflow (d : Dev) : d.draw.2.overflow = d.overflow := rfl
@[simp] theorem Dev.draw_recWait (d : Dev) : d.draw.2.recWait = d.recWait := rfl
@[simp] theorem Dev.draw_recMark (d : Dev) : d.draw.2.recMark = d.recMark := rfl
@[simp] theorem Dev.draw_recShort (d : Dev) : d.draw.2.recShort = d.recShort := rfl
@[simp] theorem Dev.draw_recGap (d : Dev) : d.draw.2.recGap = d.recGap := rfl
@[simp] theorem Dev.draw_chans (d : Dev) : d.draw.2.chans = d.chans := rfl
@[simp] theorem Dev.draw_dies (d : Dev) : d.draw.2.dies = d.dies := rfl
@[simp] theorem Dev.draw_latch (d : Dev) : d.draw.2.latch = d.latch := rfl
@[simp] theorem Dev.draw_latchNext (d : Dev) : d.draw.2.latchNext = d.latchNext := rfl
@[simp] theorem Dev.draw_cutDone (d : Dev) : d.draw.2.cutDone = d.cutDone := rfl
@[simp] theorem Dev.draw_deltaDone (d : Dev) : d.draw.2.deltaDone = d.deltaDone := rfl
@[simp] theorem Dev.draw_strobe (d : Dev) : d.draw.2.strobe = d.strobe := rfl
@[simp] theorem Dev.draw_strobeDue (d : Dev) : d.draw.2.strobeDue = d.strobeDue := rfl
@[simp] theorem Dev.draw_arb (d : Dev) : d.draw.2.arb = d.arb := rfl
@[simp] theorem Dev.draw_arbUsed (d : Dev) : d.draw.2.arbUsed = d.arbUsed := rfl
@[simp] theorem Dev.draw_wd (d : Dev) : d.draw.2.wd = d.wd := rfl
@[simp] theorem Dev.draw_wdTimes (d : Dev) : d.draw.2.wdTimes = d.wdTimes := rfl
@[simp] theorem Dev.draw_doorbells (d : Dev) : d.draw.2.doorbells = d.doorbells := rfl
@[simp] theorem Dev.draw_gates (d : Dev) : d.draw.2.gates = d.gates := rfl
@[simp] theorem Dev.draw_slips (d : Dev) : d.draw.2.slips = d.slips := rfl
@[simp] theorem Dev.draw_serials (d : Dev) : d.draw.2.serials = d.serials := rfl
@[simp] theorem Dev.draw_pcie (d : Dev) : d.draw.2.pcie = d.pcie := rfl
@[simp] theorem Dev.draw_can (d : Dev) : d.draw.2.can = d.can := rfl
@[simp] theorem Dev.draw_lin (d : Dev) : d.draw.2.lin = d.lin := rfl
@[simp] theorem Dev.draw_quiet (d : Dev) : d.draw.2.quiet = d.quiet := rfl
@[simp] theorem Dev.draw_inHand (d : Dev) : d.draw.2.inHand = d.inHand := rfl
@[simp] theorem Dev.draw_blob (d : Dev) : d.draw.2.blob = d.blob := rfl
@[simp] theorem Dev.draw_transfer (d : Dev) : d.draw.2.transfer = d.transfer := rfl
@[simp] theorem Dev.draw_srBackoff (d : Dev) : d.draw.2.srBackoff = d.srBackoff := rfl
@[simp] theorem Dev.draw_unwrapBackoff (d : Dev) : d.draw.2.unwrapBackoff = d.unwrapBackoff := rfl
@[simp] theorem Dev.draw_superseded (d : Dev) : d.draw.2.superseded = d.superseded := rfl
@[simp] theorem Dev.draw_unwraps (d : Dev) : d.draw.2.unwraps = d.unwraps := rfl
@[simp] theorem Dev.draw_commitAcc (d : Dev) : d.draw.2.commitAcc = d.commitAcc := rfl
@[simp] theorem Dev.draw_linkTx (d : Dev) : d.draw.2.linkTx = d.linkTx := rfl
@[simp] theorem Dev.draw_linkRx (d : Dev) : d.draw.2.linkRx = d.linkRx := rfl
@[simp] theorem Dev.draw_unacked (d : Dev) : d.draw.2.unacked = d.unacked := rfl
@[simp] theorem Dev.draw_proofDue (d : Dev) : d.draw.2.proofDue = d.proofDue := rfl
@[simp] theorem Dev.draw_eth (d : Dev) : d.draw.2.eth = d.eth := rfl
@[simp] theorem Dev.draw_tookOver (d : Dev) : d.draw.2.tookOver = d.tookOver := rfl
@[simp] theorem Dev.draw_marks (d : Dev) : d.draw.2.marks = d.marks := rfl
@[simp] theorem Dev.draw_hostBytes (d : Dev) : d.draw.2.hostBytes = d.hostBytes := rfl
@[simp] theorem Dev.draw_inputs (d : Dev) : d.draw.2.inputs = d.inputs := rfl
@[simp] theorem Dev.draw_park (d : Dev) : d.draw.2.park = d.park := rfl
@[simp] theorem Dev.draw_images (d : Dev) : d.draw.2.images = d.images := rfl
@[simp] theorem Dev.draw_live (d : Dev) : d.draw.2.live = d.live := rfl
@[simp] theorem Dev.draw_commitNo (d : Dev) : d.draw.2.commitNo = d.commitNo := rfl
@[simp] theorem Dev.draw_appliedAt (d : Dev) : d.draw.2.appliedAt = d.appliedAt := rfl
@[simp] theorem Dev.draw_openDelta (d : Dev) : d.draw.2.openDelta = d.openDelta := rfl
@[simp] theorem Dev.draw_pair (d : Dev) : d.draw.2.pair = d.pair := rfl
@[simp] theorem Dev.draw_boot (d : Dev) : d.draw.2.boot = d.boot := rfl

@[simp] theorem Dev.number_mode (d : Dev) : d.number.2.mode = d.mode := rfl
@[simp] theorem Dev.number_kept (d : Dev) : d.number.2.kept = d.kept := rfl
@[simp] theorem Dev.number_mirror (d : Dev) : d.number.2.mirror = d.mirror := rfl
@[simp] theorem Dev.number_cut (d : Dev) : d.number.2.cut = d.cut := rfl
@[simp] theorem Dev.number_sent (d : Dev) : d.number.2.sent = d.sent := rfl
@[simp] theorem Dev.number_rewrites (d : Dev) : d.number.2.rewrites = d.rewrites := rfl
@[simp] theorem Dev.number_cutBytes (d : Dev) : d.number.2.cutBytes = d.cutBytes := rfl
@[simp] theorem Dev.number_recCtl (d : Dev) : d.number.2.recCtl = d.recCtl := rfl
@[simp] theorem Dev.number_now (d : Dev) : d.number.2.now = d.now := rfl
@[simp] theorem Dev.number_gradeF (d : Dev) : d.number.2.gradeF = d.gradeF := rfl
@[simp] theorem Dev.number_fresh (d : Dev) : d.number.2.fresh = d.fresh := rfl
@[simp] theorem Dev.number_out (d : Dev) : d.number.2.out = d.out := rfl
@[simp] theorem Dev.number_tickStart (d : Dev) : d.number.2.tickStart = d.tickStart := rfl
@[simp] theorem Dev.number_tickLen (d : Dev) : d.number.2.tickLen = d.tickLen := rfl
@[simp] theorem Dev.number_track (d : Dev) : d.number.2.track = d.track := rfl
@[simp] theorem Dev.number_alm (d : Dev) : d.number.2.alm = d.alm := rfl
@[simp] theorem Dev.number_arrivals (d : Dev) : d.number.2.arrivals = d.arrivals := rfl
@[simp] theorem Dev.number_packets (d : Dev) : d.number.2.packets = d.packets := rfl
@[simp] theorem Dev.number_queues (d : Dev) : d.number.2.queues = d.queues := rfl
@[simp] theorem Dev.number_resHeld (d : Dev) : d.number.2.resHeld = d.resHeld := rfl
@[simp] theorem Dev.number_shHeld (d : Dev) : d.number.2.shHeld = d.shHeld := rfl
@[simp] theorem Dev.number_poolOff (d : Dev) : d.number.2.poolOff = d.poolOff := rfl
@[simp] theorem Dev.number_poolNoticed (d : Dev) : d.number.2.poolNoticed = d.poolNoticed := rfl
@[simp] theorem Dev.number_memPart (d : Dev) : d.number.2.memPart = d.memPart := rfl
@[simp] theorem Dev.number_toClassify (d : Dev) : d.number.2.toClassify = d.toClassify := rfl
@[simp] theorem Dev.number_buckets (d : Dev) : d.number.2.buckets = d.buckets := rfl
@[simp] theorem Dev.number_recs (d : Dev) : d.number.2.recs = d.recs := rfl
@[simp] theorem Dev.number_spans (d : Dev) : d.number.2.spans = d.spans := rfl
@[simp] theorem Dev.number_cores (d : Dev) : d.number.2.cores = d.cores := rfl
@[simp] theorem Dev.number_sharedPend (d : Dev) : d.number.2.sharedPend = d.sharedPend := rfl
@[simp] theorem Dev.number_body (d : Dev) : d.number.2.body = d.body := rfl
@[simp] theorem Dev.number_release (d : Dev) : d.number.2.release = d.release := rfl
@[simp] theorem Dev.number_pendReads (d : Dev) : d.number.2.pendReads = d.pendReads := rfl
@[simp] theorem Dev.number_msix (d : Dev) : d.number.2.msix = d.msix := rfl
@[simp] theorem Dev.number_msixPend (d : Dev) : d.number.2.msixPend = d.msixPend := rfl
@[simp] theorem Dev.number_octLatch (d : Dev) : d.number.2.octLatch = d.octLatch := rfl
@[simp] theorem Dev.number_segs (d : Dev) : d.number.2.segs = d.segs := rfl
@[simp] theorem Dev.number_pastSegs (d : Dev) : d.number.2.pastSegs = d.pastSegs := rfl
@[simp] theorem Dev.number_hist (d : Dev) : d.number.2.hist = d.hist := rfl
@[simp] theorem Dev.number_stamps (d : Dev) : d.number.2.stamps = d.stamps := rfl
@[simp] theorem Dev.number_ledger (d : Dev) : d.number.2.ledger = d.ledger := rfl
@[simp] theorem Dev.number_overflow (d : Dev) : d.number.2.overflow = d.overflow := rfl
@[simp] theorem Dev.number_recWait (d : Dev) : d.number.2.recWait = d.recWait := rfl
@[simp] theorem Dev.number_recMark (d : Dev) : d.number.2.recMark = d.recMark := rfl
@[simp] theorem Dev.number_recShort (d : Dev) : d.number.2.recShort = d.recShort := rfl
@[simp] theorem Dev.number_recGap (d : Dev) : d.number.2.recGap = d.recGap := rfl
@[simp] theorem Dev.number_chans (d : Dev) : d.number.2.chans = d.chans := rfl
@[simp] theorem Dev.number_dies (d : Dev) : d.number.2.dies = d.dies := rfl
@[simp] theorem Dev.number_latch (d : Dev) : d.number.2.latch = d.latch := rfl
@[simp] theorem Dev.number_latchNext (d : Dev) : d.number.2.latchNext = d.latchNext := rfl
@[simp] theorem Dev.number_cutDone (d : Dev) : d.number.2.cutDone = d.cutDone := rfl
@[simp] theorem Dev.number_deltaDone (d : Dev) : d.number.2.deltaDone = d.deltaDone := rfl
@[simp] theorem Dev.number_strobe (d : Dev) : d.number.2.strobe = d.strobe := rfl
@[simp] theorem Dev.number_strobeDue (d : Dev) : d.number.2.strobeDue = d.strobeDue := rfl
@[simp] theorem Dev.number_arb (d : Dev) : d.number.2.arb = d.arb := rfl
@[simp] theorem Dev.number_arbUsed (d : Dev) : d.number.2.arbUsed = d.arbUsed := rfl
@[simp] theorem Dev.number_wd (d : Dev) : d.number.2.wd = d.wd := rfl
@[simp] theorem Dev.number_wdTimes (d : Dev) : d.number.2.wdTimes = d.wdTimes := rfl
@[simp] theorem Dev.number_doorbells (d : Dev) : d.number.2.doorbells = d.doorbells := rfl
@[simp] theorem Dev.number_gates (d : Dev) : d.number.2.gates = d.gates := rfl
@[simp] theorem Dev.number_slips (d : Dev) : d.number.2.slips = d.slips := rfl
@[simp] theorem Dev.number_serials (d : Dev) : d.number.2.serials = d.serials := rfl
@[simp] theorem Dev.number_pcie (d : Dev) : d.number.2.pcie = d.pcie := rfl
@[simp] theorem Dev.number_can (d : Dev) : d.number.2.can = d.can := rfl
@[simp] theorem Dev.number_lin (d : Dev) : d.number.2.lin = d.lin := rfl
@[simp] theorem Dev.number_quiet (d : Dev) : d.number.2.quiet = d.quiet := rfl
@[simp] theorem Dev.number_inHand (d : Dev) : d.number.2.inHand = d.inHand := rfl
@[simp] theorem Dev.number_blob (d : Dev) : d.number.2.blob = d.blob := rfl
@[simp] theorem Dev.number_transfer (d : Dev) : d.number.2.transfer = d.transfer := rfl
@[simp] theorem Dev.number_srBackoff (d : Dev) : d.number.2.srBackoff = d.srBackoff := rfl
@[simp] theorem Dev.number_unwrapBackoff (d : Dev) : d.number.2.unwrapBackoff = d.unwrapBackoff := rfl
@[simp] theorem Dev.number_superseded (d : Dev) : d.number.2.superseded = d.superseded := rfl
@[simp] theorem Dev.number_unwraps (d : Dev) : d.number.2.unwraps = d.unwraps := rfl
@[simp] theorem Dev.number_commitAcc (d : Dev) : d.number.2.commitAcc = d.commitAcc := rfl
@[simp] theorem Dev.number_linkTx (d : Dev) : d.number.2.linkTx = d.linkTx := rfl
@[simp] theorem Dev.number_linkRx (d : Dev) : d.number.2.linkRx = d.linkRx := rfl
@[simp] theorem Dev.number_unacked (d : Dev) : d.number.2.unacked = d.unacked := rfl
@[simp] theorem Dev.number_proofDue (d : Dev) : d.number.2.proofDue = d.proofDue := rfl
@[simp] theorem Dev.number_eth (d : Dev) : d.number.2.eth = d.eth := rfl
@[simp] theorem Dev.number_tookOver (d : Dev) : d.number.2.tookOver = d.tookOver := rfl
@[simp] theorem Dev.number_marks (d : Dev) : d.number.2.marks = d.marks := rfl
@[simp] theorem Dev.number_hostBytes (d : Dev) : d.number.2.hostBytes = d.hostBytes := rfl
@[simp] theorem Dev.number_inputs (d : Dev) : d.number.2.inputs = d.inputs := rfl
@[simp] theorem Dev.number_park (d : Dev) : d.number.2.park = d.park := rfl
@[simp] theorem Dev.number_images (d : Dev) : d.number.2.images = d.images := rfl
@[simp] theorem Dev.number_live (d : Dev) : d.number.2.live = d.live := rfl
@[simp] theorem Dev.number_commitNo (d : Dev) : d.number.2.commitNo = d.commitNo := rfl
@[simp] theorem Dev.number_appliedAt (d : Dev) : d.number.2.appliedAt = d.appliedAt := rfl
@[simp] theorem Dev.number_openDelta (d : Dev) : d.number.2.openDelta = d.openDelta := rfl
@[simp] theorem Dev.number_pair (d : Dev) : d.number.2.pair = d.pair := rfl
@[simp] theorem Dev.number_boot (d : Dev) : d.number.2.boot = d.boot := rfl

@[simp] theorem Dev.atTime_mode (d : Dev) (t : Nat) : (d.atTime t).mode = d.mode := rfl
@[simp] theorem Dev.atTime_kept (d : Dev) (t : Nat) : (d.atTime t).kept = d.kept := rfl
@[simp] theorem Dev.atTime_mirror (d : Dev) (t : Nat) : (d.atTime t).mirror = d.mirror := rfl
@[simp] theorem Dev.atTime_cut (d : Dev) (t : Nat) : (d.atTime t).cut = d.cut := rfl
@[simp] theorem Dev.atTime_sent (d : Dev) (t : Nat) : (d.atTime t).sent = d.sent := rfl
@[simp] theorem Dev.atTime_rewrites (d : Dev) (t : Nat) : (d.atTime t).rewrites = d.rewrites := rfl
@[simp] theorem Dev.atTime_cutBytes (d : Dev) (t : Nat) : (d.atTime t).cutBytes = d.cutBytes := rfl
@[simp] theorem Dev.atTime_recCtl (d : Dev) (t : Nat) : (d.atTime t).recCtl = d.recCtl := rfl
@[simp] theorem Dev.atTime_gradeF (d : Dev) (t : Nat) : (d.atTime t).gradeF = d.gradeF := rfl
@[simp] theorem Dev.atTime_fresh (d : Dev) (t : Nat) : (d.atTime t).fresh = d.fresh := rfl
@[simp] theorem Dev.atTime_out (d : Dev) (t : Nat) : (d.atTime t).out = d.out := rfl
@[simp] theorem Dev.atTime_tickStart (d : Dev) (t : Nat) : (d.atTime t).tickStart = d.tickStart := rfl
@[simp] theorem Dev.atTime_tickLen (d : Dev) (t : Nat) : (d.atTime t).tickLen = d.tickLen := rfl
@[simp] theorem Dev.atTime_track (d : Dev) (t : Nat) : (d.atTime t).track = d.track := rfl
@[simp] theorem Dev.atTime_alm (d : Dev) (t : Nat) : (d.atTime t).alm = d.alm := rfl
@[simp] theorem Dev.atTime_arrivals (d : Dev) (t : Nat) : (d.atTime t).arrivals = d.arrivals := rfl
@[simp] theorem Dev.atTime_packets (d : Dev) (t : Nat) : (d.atTime t).packets = d.packets := rfl
@[simp] theorem Dev.atTime_queues (d : Dev) (t : Nat) : (d.atTime t).queues = d.queues := rfl
@[simp] theorem Dev.atTime_resHeld (d : Dev) (t : Nat) : (d.atTime t).resHeld = d.resHeld := rfl
@[simp] theorem Dev.atTime_shHeld (d : Dev) (t : Nat) : (d.atTime t).shHeld = d.shHeld := rfl
@[simp] theorem Dev.atTime_poolOff (d : Dev) (t : Nat) : (d.atTime t).poolOff = d.poolOff := rfl
@[simp] theorem Dev.atTime_poolNoticed (d : Dev) (t : Nat) : (d.atTime t).poolNoticed = d.poolNoticed := rfl
@[simp] theorem Dev.atTime_memPart (d : Dev) (t : Nat) : (d.atTime t).memPart = d.memPart := rfl
@[simp] theorem Dev.atTime_toClassify (d : Dev) (t : Nat) : (d.atTime t).toClassify = d.toClassify := rfl
@[simp] theorem Dev.atTime_buckets (d : Dev) (t : Nat) : (d.atTime t).buckets = d.buckets := rfl
@[simp] theorem Dev.atTime_recs (d : Dev) (t : Nat) : (d.atTime t).recs = d.recs := rfl
@[simp] theorem Dev.atTime_spans (d : Dev) (t : Nat) : (d.atTime t).spans = d.spans := rfl
@[simp] theorem Dev.atTime_cores (d : Dev) (t : Nat) : (d.atTime t).cores = d.cores := rfl
@[simp] theorem Dev.atTime_sharedPend (d : Dev) (t : Nat) : (d.atTime t).sharedPend = d.sharedPend := rfl
@[simp] theorem Dev.atTime_body (d : Dev) (t : Nat) : (d.atTime t).body = d.body := rfl
@[simp] theorem Dev.atTime_release (d : Dev) (t : Nat) : (d.atTime t).release = d.release := rfl
@[simp] theorem Dev.atTime_pendReads (d : Dev) (t : Nat) : (d.atTime t).pendReads = d.pendReads := rfl
@[simp] theorem Dev.atTime_msix (d : Dev) (t : Nat) : (d.atTime t).msix = d.msix := rfl
@[simp] theorem Dev.atTime_msixPend (d : Dev) (t : Nat) : (d.atTime t).msixPend = d.msixPend := rfl
@[simp] theorem Dev.atTime_octLatch (d : Dev) (t : Nat) : (d.atTime t).octLatch = d.octLatch := rfl
@[simp] theorem Dev.atTime_acc (d : Dev) (t : Nat) : (d.atTime t).acc = d.acc := rfl
@[simp] theorem Dev.atTime_segs (d : Dev) (t : Nat) : (d.atTime t).segs = d.segs := rfl
@[simp] theorem Dev.atTime_pastSegs (d : Dev) (t : Nat) : (d.atTime t).pastSegs = d.pastSegs := rfl
@[simp] theorem Dev.atTime_hist (d : Dev) (t : Nat) : (d.atTime t).hist = d.hist := rfl
@[simp] theorem Dev.atTime_stamps (d : Dev) (t : Nat) : (d.atTime t).stamps = d.stamps := rfl
@[simp] theorem Dev.atTime_ledger (d : Dev) (t : Nat) : (d.atTime t).ledger = d.ledger := rfl
@[simp] theorem Dev.atTime_overflow (d : Dev) (t : Nat) : (d.atTime t).overflow = d.overflow := rfl
@[simp] theorem Dev.atTime_recWait (d : Dev) (t : Nat) : (d.atTime t).recWait = d.recWait := rfl
@[simp] theorem Dev.atTime_recMark (d : Dev) (t : Nat) : (d.atTime t).recMark = d.recMark := rfl
@[simp] theorem Dev.atTime_recShort (d : Dev) (t : Nat) : (d.atTime t).recShort = d.recShort := rfl
@[simp] theorem Dev.atTime_recGap (d : Dev) (t : Nat) : (d.atTime t).recGap = d.recGap := rfl
@[simp] theorem Dev.atTime_chans (d : Dev) (t : Nat) : (d.atTime t).chans = d.chans := rfl
@[simp] theorem Dev.atTime_dies (d : Dev) (t : Nat) : (d.atTime t).dies = d.dies := rfl
@[simp] theorem Dev.atTime_latch (d : Dev) (t : Nat) : (d.atTime t).latch = d.latch := rfl
@[simp] theorem Dev.atTime_latchNext (d : Dev) (t : Nat) : (d.atTime t).latchNext = d.latchNext := rfl
@[simp] theorem Dev.atTime_cutDone (d : Dev) (t : Nat) : (d.atTime t).cutDone = d.cutDone := rfl
@[simp] theorem Dev.atTime_deltaDone (d : Dev) (t : Nat) : (d.atTime t).deltaDone = d.deltaDone := rfl
@[simp] theorem Dev.atTime_strobe (d : Dev) (t : Nat) : (d.atTime t).strobe = d.strobe := rfl
@[simp] theorem Dev.atTime_strobeDue (d : Dev) (t : Nat) : (d.atTime t).strobeDue = d.strobeDue := rfl
@[simp] theorem Dev.atTime_arb (d : Dev) (t : Nat) : (d.atTime t).arb = d.arb := rfl
@[simp] theorem Dev.atTime_arbUsed (d : Dev) (t : Nat) : (d.atTime t).arbUsed = d.arbUsed := rfl
@[simp] theorem Dev.atTime_wd (d : Dev) (t : Nat) : (d.atTime t).wd = d.wd := rfl
@[simp] theorem Dev.atTime_wdTimes (d : Dev) (t : Nat) : (d.atTime t).wdTimes = d.wdTimes := rfl
@[simp] theorem Dev.atTime_doorbells (d : Dev) (t : Nat) : (d.atTime t).doorbells = d.doorbells := rfl
@[simp] theorem Dev.atTime_gates (d : Dev) (t : Nat) : (d.atTime t).gates = d.gates := rfl
@[simp] theorem Dev.atTime_slips (d : Dev) (t : Nat) : (d.atTime t).slips = d.slips := rfl
@[simp] theorem Dev.atTime_serials (d : Dev) (t : Nat) : (d.atTime t).serials = d.serials := rfl
@[simp] theorem Dev.atTime_pcie (d : Dev) (t : Nat) : (d.atTime t).pcie = d.pcie := rfl
@[simp] theorem Dev.atTime_can (d : Dev) (t : Nat) : (d.atTime t).can = d.can := rfl
@[simp] theorem Dev.atTime_lin (d : Dev) (t : Nat) : (d.atTime t).lin = d.lin := rfl
@[simp] theorem Dev.atTime_quiet (d : Dev) (t : Nat) : (d.atTime t).quiet = d.quiet := rfl
@[simp] theorem Dev.atTime_inHand (d : Dev) (t : Nat) : (d.atTime t).inHand = d.inHand := rfl
@[simp] theorem Dev.atTime_blob (d : Dev) (t : Nat) : (d.atTime t).blob = d.blob := rfl
@[simp] theorem Dev.atTime_transfer (d : Dev) (t : Nat) : (d.atTime t).transfer = d.transfer := rfl
@[simp] theorem Dev.atTime_srBackoff (d : Dev) (t : Nat) : (d.atTime t).srBackoff = d.srBackoff := rfl
@[simp] theorem Dev.atTime_unwrapBackoff (d : Dev) (t : Nat) : (d.atTime t).unwrapBackoff = d.unwrapBackoff := rfl
@[simp] theorem Dev.atTime_superseded (d : Dev) (t : Nat) : (d.atTime t).superseded = d.superseded := rfl
@[simp] theorem Dev.atTime_unwraps (d : Dev) (t : Nat) : (d.atTime t).unwraps = d.unwraps := rfl
@[simp] theorem Dev.atTime_commitAcc (d : Dev) (t : Nat) : (d.atTime t).commitAcc = d.commitAcc := rfl
@[simp] theorem Dev.atTime_linkTx (d : Dev) (t : Nat) : (d.atTime t).linkTx = d.linkTx := rfl
@[simp] theorem Dev.atTime_linkRx (d : Dev) (t : Nat) : (d.atTime t).linkRx = d.linkRx := rfl
@[simp] theorem Dev.atTime_unacked (d : Dev) (t : Nat) : (d.atTime t).unacked = d.unacked := rfl
@[simp] theorem Dev.atTime_proofDue (d : Dev) (t : Nat) : (d.atTime t).proofDue = d.proofDue := rfl
@[simp] theorem Dev.atTime_eth (d : Dev) (t : Nat) : (d.atTime t).eth = d.eth := rfl
@[simp] theorem Dev.atTime_tookOver (d : Dev) (t : Nat) : (d.atTime t).tookOver = d.tookOver := rfl
@[simp] theorem Dev.atTime_marks (d : Dev) (t : Nat) : (d.atTime t).marks = d.marks := rfl
@[simp] theorem Dev.atTime_hostBytes (d : Dev) (t : Nat) : (d.atTime t).hostBytes = d.hostBytes := rfl
@[simp] theorem Dev.atTime_inputs (d : Dev) (t : Nat) : (d.atTime t).inputs = d.inputs := rfl
@[simp] theorem Dev.atTime_park (d : Dev) (t : Nat) : (d.atTime t).park = d.park := rfl
@[simp] theorem Dev.atTime_images (d : Dev) (t : Nat) : (d.atTime t).images = d.images := rfl
@[simp] theorem Dev.atTime_live (d : Dev) (t : Nat) : (d.atTime t).live = d.live := rfl
@[simp] theorem Dev.atTime_commitNo (d : Dev) (t : Nat) : (d.atTime t).commitNo = d.commitNo := rfl
@[simp] theorem Dev.atTime_appliedAt (d : Dev) (t : Nat) : (d.atTime t).appliedAt = d.appliedAt := rfl
@[simp] theorem Dev.atTime_openDelta (d : Dev) (t : Nat) : (d.atTime t).openDelta = d.openDelta := rfl
@[simp] theorem Dev.atTime_pair (d : Dev) (t : Nat) : (d.atTime t).pair = d.pair := rfl
@[simp] theorem Dev.atTime_boot (d : Dev) (t : Nat) : (d.atTime t).boot = d.boot := rfl

@[simp] theorem Dev.modRing_mode (d : Dev) (t r : Nat) (f : Ring → Ring) : (d.modRing t r f).mode = d.mode := rfl
@[simp] theorem Dev.modRing_mirror (d : Dev) (t r : Nat) (f : Ring → Ring) : (d.modRing t r f).mirror = d.mirror := rfl
@[simp] theorem Dev.modRing_cut (d : Dev) (t r : Nat) (f : Ring → Ring) : (d.modRing t r f).cut = d.cut := rfl
@[simp] theorem Dev.modRing_sent (d : Dev) (t r : Nat) (f : Ring → Ring) : (d.modRing t r f).sent = d.sent := rfl
@[simp] theorem Dev.modRing_rewrites (d : Dev) (t r : Nat) (f : Ring → Ring) : (d.modRing t r f).rewrites = d.rewrites := rfl
@[simp] theorem Dev.modRing_cutBytes (d : Dev) (t r : Nat) (f : Ring → Ring) : (d.modRing t r f).cutBytes = d.cutBytes := rfl
@[simp] theorem Dev.modRing_recCtl (d : Dev) (t r : Nat) (f : Ring → Ring) : (d.modRing t r f).recCtl = d.recCtl := rfl
@[simp] theorem Dev.modRing_now (d : Dev) (t r : Nat) (f : Ring → Ring) : (d.modRing t r f).now = d.now := rfl
@[simp] theorem Dev.modRing_gradeF (d : Dev) (t r : Nat) (f : Ring → Ring) : (d.modRing t r f).gradeF = d.gradeF := rfl
@[simp] theorem Dev.modRing_fresh (d : Dev) (t r : Nat) (f : Ring → Ring) : (d.modRing t r f).fresh = d.fresh := rfl
@[simp] theorem Dev.modRing_out (d : Dev) (t r : Nat) (f : Ring → Ring) : (d.modRing t r f).out = d.out := rfl
@[simp] theorem Dev.modRing_tickStart (d : Dev) (t r : Nat) (f : Ring → Ring) : (d.modRing t r f).tickStart = d.tickStart := rfl
@[simp] theorem Dev.modRing_tickLen (d : Dev) (t r : Nat) (f : Ring → Ring) : (d.modRing t r f).tickLen = d.tickLen := rfl
@[simp] theorem Dev.modRing_track (d : Dev) (t r : Nat) (f : Ring → Ring) : (d.modRing t r f).track = d.track := rfl
@[simp] theorem Dev.modRing_alm (d : Dev) (t r : Nat) (f : Ring → Ring) : (d.modRing t r f).alm = d.alm := rfl
@[simp] theorem Dev.modRing_arrivals (d : Dev) (t r : Nat) (f : Ring → Ring) : (d.modRing t r f).arrivals = d.arrivals := rfl
@[simp] theorem Dev.modRing_packets (d : Dev) (t r : Nat) (f : Ring → Ring) : (d.modRing t r f).packets = d.packets := rfl
@[simp] theorem Dev.modRing_queues (d : Dev) (t r : Nat) (f : Ring → Ring) : (d.modRing t r f).queues = d.queues := rfl
@[simp] theorem Dev.modRing_resHeld (d : Dev) (t r : Nat) (f : Ring → Ring) : (d.modRing t r f).resHeld = d.resHeld := rfl
@[simp] theorem Dev.modRing_shHeld (d : Dev) (t r : Nat) (f : Ring → Ring) : (d.modRing t r f).shHeld = d.shHeld := rfl
@[simp] theorem Dev.modRing_poolOff (d : Dev) (t r : Nat) (f : Ring → Ring) : (d.modRing t r f).poolOff = d.poolOff := rfl
@[simp] theorem Dev.modRing_poolNoticed (d : Dev) (t r : Nat) (f : Ring → Ring) : (d.modRing t r f).poolNoticed = d.poolNoticed := rfl
@[simp] theorem Dev.modRing_memPart (d : Dev) (t r : Nat) (f : Ring → Ring) : (d.modRing t r f).memPart = d.memPart := rfl
@[simp] theorem Dev.modRing_toClassify (d : Dev) (t r : Nat) (f : Ring → Ring) : (d.modRing t r f).toClassify = d.toClassify := rfl
@[simp] theorem Dev.modRing_buckets (d : Dev) (t r : Nat) (f : Ring → Ring) : (d.modRing t r f).buckets = d.buckets := rfl
@[simp] theorem Dev.modRing_recs (d : Dev) (t r : Nat) (f : Ring → Ring) : (d.modRing t r f).recs = d.recs := rfl
@[simp] theorem Dev.modRing_spans (d : Dev) (t r : Nat) (f : Ring → Ring) : (d.modRing t r f).spans = d.spans := rfl
@[simp] theorem Dev.modRing_cores (d : Dev) (t r : Nat) (f : Ring → Ring) : (d.modRing t r f).cores = d.cores := rfl
@[simp] theorem Dev.modRing_sharedPend (d : Dev) (t r : Nat) (f : Ring → Ring) : (d.modRing t r f).sharedPend = d.sharedPend := rfl
@[simp] theorem Dev.modRing_body (d : Dev) (t r : Nat) (f : Ring → Ring) : (d.modRing t r f).body = d.body := rfl
@[simp] theorem Dev.modRing_release (d : Dev) (t r : Nat) (f : Ring → Ring) : (d.modRing t r f).release = d.release := rfl
@[simp] theorem Dev.modRing_pendReads (d : Dev) (t r : Nat) (f : Ring → Ring) : (d.modRing t r f).pendReads = d.pendReads := rfl
@[simp] theorem Dev.modRing_msix (d : Dev) (t r : Nat) (f : Ring → Ring) : (d.modRing t r f).msix = d.msix := rfl
@[simp] theorem Dev.modRing_msixPend (d : Dev) (t r : Nat) (f : Ring → Ring) : (d.modRing t r f).msixPend = d.msixPend := rfl
@[simp] theorem Dev.modRing_octLatch (d : Dev) (t r : Nat) (f : Ring → Ring) : (d.modRing t r f).octLatch = d.octLatch := rfl
@[simp] theorem Dev.modRing_acc (d : Dev) (t r : Nat) (f : Ring → Ring) : (d.modRing t r f).acc = d.acc := rfl
@[simp] theorem Dev.modRing_segs (d : Dev) (t r : Nat) (f : Ring → Ring) : (d.modRing t r f).segs = d.segs := rfl
@[simp] theorem Dev.modRing_pastSegs (d : Dev) (t r : Nat) (f : Ring → Ring) : (d.modRing t r f).pastSegs = d.pastSegs := rfl
@[simp] theorem Dev.modRing_hist (d : Dev) (t r : Nat) (f : Ring → Ring) : (d.modRing t r f).hist = d.hist := rfl
@[simp] theorem Dev.modRing_stamps (d : Dev) (t r : Nat) (f : Ring → Ring) : (d.modRing t r f).stamps = d.stamps := rfl
@[simp] theorem Dev.modRing_ledger (d : Dev) (t r : Nat) (f : Ring → Ring) : (d.modRing t r f).ledger = d.ledger := rfl
@[simp] theorem Dev.modRing_overflow (d : Dev) (t r : Nat) (f : Ring → Ring) : (d.modRing t r f).overflow = d.overflow := rfl
@[simp] theorem Dev.modRing_recWait (d : Dev) (t r : Nat) (f : Ring → Ring) : (d.modRing t r f).recWait = d.recWait := rfl
@[simp] theorem Dev.modRing_recMark (d : Dev) (t r : Nat) (f : Ring → Ring) : (d.modRing t r f).recMark = d.recMark := rfl
@[simp] theorem Dev.modRing_recShort (d : Dev) (t r : Nat) (f : Ring → Ring) : (d.modRing t r f).recShort = d.recShort := rfl
@[simp] theorem Dev.modRing_recGap (d : Dev) (t r : Nat) (f : Ring → Ring) : (d.modRing t r f).recGap = d.recGap := rfl
@[simp] theorem Dev.modRing_chans (d : Dev) (t r : Nat) (f : Ring → Ring) : (d.modRing t r f).chans = d.chans := rfl
@[simp] theorem Dev.modRing_dies (d : Dev) (t r : Nat) (f : Ring → Ring) : (d.modRing t r f).dies = d.dies := rfl
@[simp] theorem Dev.modRing_latch (d : Dev) (t r : Nat) (f : Ring → Ring) : (d.modRing t r f).latch = d.latch := rfl
@[simp] theorem Dev.modRing_latchNext (d : Dev) (t r : Nat) (f : Ring → Ring) : (d.modRing t r f).latchNext = d.latchNext := rfl
@[simp] theorem Dev.modRing_cutDone (d : Dev) (t r : Nat) (f : Ring → Ring) : (d.modRing t r f).cutDone = d.cutDone := rfl
@[simp] theorem Dev.modRing_deltaDone (d : Dev) (t r : Nat) (f : Ring → Ring) : (d.modRing t r f).deltaDone = d.deltaDone := rfl
@[simp] theorem Dev.modRing_strobe (d : Dev) (t r : Nat) (f : Ring → Ring) : (d.modRing t r f).strobe = d.strobe := rfl
@[simp] theorem Dev.modRing_strobeDue (d : Dev) (t r : Nat) (f : Ring → Ring) : (d.modRing t r f).strobeDue = d.strobeDue := rfl
@[simp] theorem Dev.modRing_arb (d : Dev) (t r : Nat) (f : Ring → Ring) : (d.modRing t r f).arb = d.arb := rfl
@[simp] theorem Dev.modRing_arbUsed (d : Dev) (t r : Nat) (f : Ring → Ring) : (d.modRing t r f).arbUsed = d.arbUsed := rfl
@[simp] theorem Dev.modRing_wd (d : Dev) (t r : Nat) (f : Ring → Ring) : (d.modRing t r f).wd = d.wd := rfl
@[simp] theorem Dev.modRing_wdTimes (d : Dev) (t r : Nat) (f : Ring → Ring) : (d.modRing t r f).wdTimes = d.wdTimes := rfl
@[simp] theorem Dev.modRing_doorbells (d : Dev) (t r : Nat) (f : Ring → Ring) : (d.modRing t r f).doorbells = d.doorbells := rfl
@[simp] theorem Dev.modRing_gates (d : Dev) (t r : Nat) (f : Ring → Ring) : (d.modRing t r f).gates = d.gates := rfl
@[simp] theorem Dev.modRing_slips (d : Dev) (t r : Nat) (f : Ring → Ring) : (d.modRing t r f).slips = d.slips := rfl
@[simp] theorem Dev.modRing_serials (d : Dev) (t r : Nat) (f : Ring → Ring) : (d.modRing t r f).serials = d.serials := rfl
@[simp] theorem Dev.modRing_pcie (d : Dev) (t r : Nat) (f : Ring → Ring) : (d.modRing t r f).pcie = d.pcie := rfl
@[simp] theorem Dev.modRing_can (d : Dev) (t r : Nat) (f : Ring → Ring) : (d.modRing t r f).can = d.can := rfl
@[simp] theorem Dev.modRing_lin (d : Dev) (t r : Nat) (f : Ring → Ring) : (d.modRing t r f).lin = d.lin := rfl
@[simp] theorem Dev.modRing_quiet (d : Dev) (t r : Nat) (f : Ring → Ring) : (d.modRing t r f).quiet = d.quiet := rfl
@[simp] theorem Dev.modRing_inHand (d : Dev) (t r : Nat) (f : Ring → Ring) : (d.modRing t r f).inHand = d.inHand := rfl
@[simp] theorem Dev.modRing_blob (d : Dev) (t r : Nat) (f : Ring → Ring) : (d.modRing t r f).blob = d.blob := rfl
@[simp] theorem Dev.modRing_transfer (d : Dev) (t r : Nat) (f : Ring → Ring) : (d.modRing t r f).transfer = d.transfer := rfl
@[simp] theorem Dev.modRing_srBackoff (d : Dev) (t r : Nat) (f : Ring → Ring) : (d.modRing t r f).srBackoff = d.srBackoff := rfl
@[simp] theorem Dev.modRing_unwrapBackoff (d : Dev) (t r : Nat) (f : Ring → Ring) : (d.modRing t r f).unwrapBackoff = d.unwrapBackoff := rfl
@[simp] theorem Dev.modRing_superseded (d : Dev) (t r : Nat) (f : Ring → Ring) : (d.modRing t r f).superseded = d.superseded := rfl
@[simp] theorem Dev.modRing_unwraps (d : Dev) (t r : Nat) (f : Ring → Ring) : (d.modRing t r f).unwraps = d.unwraps := rfl
@[simp] theorem Dev.modRing_commitAcc (d : Dev) (t r : Nat) (f : Ring → Ring) : (d.modRing t r f).commitAcc = d.commitAcc := rfl
@[simp] theorem Dev.modRing_linkTx (d : Dev) (t r : Nat) (f : Ring → Ring) : (d.modRing t r f).linkTx = d.linkTx := rfl
@[simp] theorem Dev.modRing_linkRx (d : Dev) (t r : Nat) (f : Ring → Ring) : (d.modRing t r f).linkRx = d.linkRx := rfl
@[simp] theorem Dev.modRing_unacked (d : Dev) (t r : Nat) (f : Ring → Ring) : (d.modRing t r f).unacked = d.unacked := rfl
@[simp] theorem Dev.modRing_proofDue (d : Dev) (t r : Nat) (f : Ring → Ring) : (d.modRing t r f).proofDue = d.proofDue := rfl
@[simp] theorem Dev.modRing_eth (d : Dev) (t r : Nat) (f : Ring → Ring) : (d.modRing t r f).eth = d.eth := rfl
@[simp] theorem Dev.modRing_tookOver (d : Dev) (t r : Nat) (f : Ring → Ring) : (d.modRing t r f).tookOver = d.tookOver := rfl
@[simp] theorem Dev.modRing_marks (d : Dev) (t r : Nat) (f : Ring → Ring) : (d.modRing t r f).marks = d.marks := rfl
@[simp] theorem Dev.modRing_hostBytes (d : Dev) (t r : Nat) (f : Ring → Ring) : (d.modRing t r f).hostBytes = d.hostBytes := rfl
@[simp] theorem Dev.modRing_inputs (d : Dev) (t r : Nat) (f : Ring → Ring) : (d.modRing t r f).inputs = d.inputs := rfl
@[simp] theorem Dev.modRing_park (d : Dev) (t r : Nat) (f : Ring → Ring) : (d.modRing t r f).park = d.park := rfl
@[simp] theorem Dev.modRing_images (d : Dev) (t r : Nat) (f : Ring → Ring) : (d.modRing t r f).images = d.images := rfl
@[simp] theorem Dev.modRing_live (d : Dev) (t r : Nat) (f : Ring → Ring) : (d.modRing t r f).live = d.live := rfl
@[simp] theorem Dev.modRing_commitNo (d : Dev) (t r : Nat) (f : Ring → Ring) : (d.modRing t r f).commitNo = d.commitNo := rfl
@[simp] theorem Dev.modRing_appliedAt (d : Dev) (t r : Nat) (f : Ring → Ring) : (d.modRing t r f).appliedAt = d.appliedAt := rfl
@[simp] theorem Dev.modRing_openDelta (d : Dev) (t r : Nat) (f : Ring → Ring) : (d.modRing t r f).openDelta = d.openDelta := rfl
@[simp] theorem Dev.modRing_pair (d : Dev) (t r : Nat) (f : Ring → Ring) : (d.modRing t r f).pair = d.pair := rfl
@[simp] theorem Dev.modRing_boot (d : Dev) (t r : Nat) (f : Ring → Ring) : (d.modRing t r f).boot = d.boot := rfl

@[simp] theorem Dev.modCore_mode (d : Dev) (c : Nat) (f : Core → Core) : (d.modCore c f).mode = d.mode := rfl
@[simp] theorem Dev.modCore_kept (d : Dev) (c : Nat) (f : Core → Core) : (d.modCore c f).kept = d.kept := rfl
@[simp] theorem Dev.modCore_mirror (d : Dev) (c : Nat) (f : Core → Core) : (d.modCore c f).mirror = d.mirror := rfl
@[simp] theorem Dev.modCore_cut (d : Dev) (c : Nat) (f : Core → Core) : (d.modCore c f).cut = d.cut := rfl
@[simp] theorem Dev.modCore_sent (d : Dev) (c : Nat) (f : Core → Core) : (d.modCore c f).sent = d.sent := rfl
@[simp] theorem Dev.modCore_rewrites (d : Dev) (c : Nat) (f : Core → Core) : (d.modCore c f).rewrites = d.rewrites := rfl
@[simp] theorem Dev.modCore_cutBytes (d : Dev) (c : Nat) (f : Core → Core) : (d.modCore c f).cutBytes = d.cutBytes := rfl
@[simp] theorem Dev.modCore_recCtl (d : Dev) (c : Nat) (f : Core → Core) : (d.modCore c f).recCtl = d.recCtl := rfl
@[simp] theorem Dev.modCore_now (d : Dev) (c : Nat) (f : Core → Core) : (d.modCore c f).now = d.now := rfl
@[simp] theorem Dev.modCore_gradeF (d : Dev) (c : Nat) (f : Core → Core) : (d.modCore c f).gradeF = d.gradeF := rfl
@[simp] theorem Dev.modCore_fresh (d : Dev) (c : Nat) (f : Core → Core) : (d.modCore c f).fresh = d.fresh := rfl
@[simp] theorem Dev.modCore_out (d : Dev) (c : Nat) (f : Core → Core) : (d.modCore c f).out = d.out := rfl
@[simp] theorem Dev.modCore_tickStart (d : Dev) (c : Nat) (f : Core → Core) : (d.modCore c f).tickStart = d.tickStart := rfl
@[simp] theorem Dev.modCore_tickLen (d : Dev) (c : Nat) (f : Core → Core) : (d.modCore c f).tickLen = d.tickLen := rfl
@[simp] theorem Dev.modCore_track (d : Dev) (c : Nat) (f : Core → Core) : (d.modCore c f).track = d.track := rfl
@[simp] theorem Dev.modCore_alm (d : Dev) (c : Nat) (f : Core → Core) : (d.modCore c f).alm = d.alm := rfl
@[simp] theorem Dev.modCore_arrivals (d : Dev) (c : Nat) (f : Core → Core) : (d.modCore c f).arrivals = d.arrivals := rfl
@[simp] theorem Dev.modCore_packets (d : Dev) (c : Nat) (f : Core → Core) : (d.modCore c f).packets = d.packets := rfl
@[simp] theorem Dev.modCore_queues (d : Dev) (c : Nat) (f : Core → Core) : (d.modCore c f).queues = d.queues := rfl
@[simp] theorem Dev.modCore_resHeld (d : Dev) (c : Nat) (f : Core → Core) : (d.modCore c f).resHeld = d.resHeld := rfl
@[simp] theorem Dev.modCore_shHeld (d : Dev) (c : Nat) (f : Core → Core) : (d.modCore c f).shHeld = d.shHeld := rfl
@[simp] theorem Dev.modCore_poolOff (d : Dev) (c : Nat) (f : Core → Core) : (d.modCore c f).poolOff = d.poolOff := rfl
@[simp] theorem Dev.modCore_poolNoticed (d : Dev) (c : Nat) (f : Core → Core) : (d.modCore c f).poolNoticed = d.poolNoticed := rfl
@[simp] theorem Dev.modCore_memPart (d : Dev) (c : Nat) (f : Core → Core) : (d.modCore c f).memPart = d.memPart := rfl
@[simp] theorem Dev.modCore_toClassify (d : Dev) (c : Nat) (f : Core → Core) : (d.modCore c f).toClassify = d.toClassify := rfl
@[simp] theorem Dev.modCore_buckets (d : Dev) (c : Nat) (f : Core → Core) : (d.modCore c f).buckets = d.buckets := rfl
@[simp] theorem Dev.modCore_recs (d : Dev) (c : Nat) (f : Core → Core) : (d.modCore c f).recs = d.recs := rfl
@[simp] theorem Dev.modCore_spans (d : Dev) (c : Nat) (f : Core → Core) : (d.modCore c f).spans = d.spans := rfl
@[simp] theorem Dev.modCore_sharedPend (d : Dev) (c : Nat) (f : Core → Core) : (d.modCore c f).sharedPend = d.sharedPend := rfl
@[simp] theorem Dev.modCore_body (d : Dev) (c : Nat) (f : Core → Core) : (d.modCore c f).body = d.body := rfl
@[simp] theorem Dev.modCore_release (d : Dev) (c : Nat) (f : Core → Core) : (d.modCore c f).release = d.release := rfl
@[simp] theorem Dev.modCore_pendReads (d : Dev) (c : Nat) (f : Core → Core) : (d.modCore c f).pendReads = d.pendReads := rfl
@[simp] theorem Dev.modCore_msix (d : Dev) (c : Nat) (f : Core → Core) : (d.modCore c f).msix = d.msix := rfl
@[simp] theorem Dev.modCore_msixPend (d : Dev) (c : Nat) (f : Core → Core) : (d.modCore c f).msixPend = d.msixPend := rfl
@[simp] theorem Dev.modCore_octLatch (d : Dev) (c : Nat) (f : Core → Core) : (d.modCore c f).octLatch = d.octLatch := rfl
@[simp] theorem Dev.modCore_acc (d : Dev) (c : Nat) (f : Core → Core) : (d.modCore c f).acc = d.acc := rfl
@[simp] theorem Dev.modCore_segs (d : Dev) (c : Nat) (f : Core → Core) : (d.modCore c f).segs = d.segs := rfl
@[simp] theorem Dev.modCore_pastSegs (d : Dev) (c : Nat) (f : Core → Core) : (d.modCore c f).pastSegs = d.pastSegs := rfl
@[simp] theorem Dev.modCore_hist (d : Dev) (c : Nat) (f : Core → Core) : (d.modCore c f).hist = d.hist := rfl
@[simp] theorem Dev.modCore_stamps (d : Dev) (c : Nat) (f : Core → Core) : (d.modCore c f).stamps = d.stamps := rfl
@[simp] theorem Dev.modCore_ledger (d : Dev) (c : Nat) (f : Core → Core) : (d.modCore c f).ledger = d.ledger := rfl
@[simp] theorem Dev.modCore_overflow (d : Dev) (c : Nat) (f : Core → Core) : (d.modCore c f).overflow = d.overflow := rfl
@[simp] theorem Dev.modCore_recWait (d : Dev) (c : Nat) (f : Core → Core) : (d.modCore c f).recWait = d.recWait := rfl
@[simp] theorem Dev.modCore_recMark (d : Dev) (c : Nat) (f : Core → Core) : (d.modCore c f).recMark = d.recMark := rfl
@[simp] theorem Dev.modCore_recShort (d : Dev) (c : Nat) (f : Core → Core) : (d.modCore c f).recShort = d.recShort := rfl
@[simp] theorem Dev.modCore_recGap (d : Dev) (c : Nat) (f : Core → Core) : (d.modCore c f).recGap = d.recGap := rfl
@[simp] theorem Dev.modCore_chans (d : Dev) (c : Nat) (f : Core → Core) : (d.modCore c f).chans = d.chans := rfl
@[simp] theorem Dev.modCore_dies (d : Dev) (c : Nat) (f : Core → Core) : (d.modCore c f).dies = d.dies := rfl
@[simp] theorem Dev.modCore_latch (d : Dev) (c : Nat) (f : Core → Core) : (d.modCore c f).latch = d.latch := rfl
@[simp] theorem Dev.modCore_latchNext (d : Dev) (c : Nat) (f : Core → Core) : (d.modCore c f).latchNext = d.latchNext := rfl
@[simp] theorem Dev.modCore_cutDone (d : Dev) (c : Nat) (f : Core → Core) : (d.modCore c f).cutDone = d.cutDone := rfl
@[simp] theorem Dev.modCore_deltaDone (d : Dev) (c : Nat) (f : Core → Core) : (d.modCore c f).deltaDone = d.deltaDone := rfl
@[simp] theorem Dev.modCore_strobe (d : Dev) (c : Nat) (f : Core → Core) : (d.modCore c f).strobe = d.strobe := rfl
@[simp] theorem Dev.modCore_strobeDue (d : Dev) (c : Nat) (f : Core → Core) : (d.modCore c f).strobeDue = d.strobeDue := rfl
@[simp] theorem Dev.modCore_arb (d : Dev) (c : Nat) (f : Core → Core) : (d.modCore c f).arb = d.arb := rfl
@[simp] theorem Dev.modCore_arbUsed (d : Dev) (c : Nat) (f : Core → Core) : (d.modCore c f).arbUsed = d.arbUsed := rfl
@[simp] theorem Dev.modCore_wd (d : Dev) (c : Nat) (f : Core → Core) : (d.modCore c f).wd = d.wd := rfl
@[simp] theorem Dev.modCore_wdTimes (d : Dev) (c : Nat) (f : Core → Core) : (d.modCore c f).wdTimes = d.wdTimes := rfl
@[simp] theorem Dev.modCore_doorbells (d : Dev) (c : Nat) (f : Core → Core) : (d.modCore c f).doorbells = d.doorbells := rfl
@[simp] theorem Dev.modCore_gates (d : Dev) (c : Nat) (f : Core → Core) : (d.modCore c f).gates = d.gates := rfl
@[simp] theorem Dev.modCore_slips (d : Dev) (c : Nat) (f : Core → Core) : (d.modCore c f).slips = d.slips := rfl
@[simp] theorem Dev.modCore_serials (d : Dev) (c : Nat) (f : Core → Core) : (d.modCore c f).serials = d.serials := rfl
@[simp] theorem Dev.modCore_pcie (d : Dev) (c : Nat) (f : Core → Core) : (d.modCore c f).pcie = d.pcie := rfl
@[simp] theorem Dev.modCore_can (d : Dev) (c : Nat) (f : Core → Core) : (d.modCore c f).can = d.can := rfl
@[simp] theorem Dev.modCore_lin (d : Dev) (c : Nat) (f : Core → Core) : (d.modCore c f).lin = d.lin := rfl
@[simp] theorem Dev.modCore_quiet (d : Dev) (c : Nat) (f : Core → Core) : (d.modCore c f).quiet = d.quiet := rfl
@[simp] theorem Dev.modCore_inHand (d : Dev) (c : Nat) (f : Core → Core) : (d.modCore c f).inHand = d.inHand := rfl
@[simp] theorem Dev.modCore_blob (d : Dev) (c : Nat) (f : Core → Core) : (d.modCore c f).blob = d.blob := rfl
@[simp] theorem Dev.modCore_transfer (d : Dev) (c : Nat) (f : Core → Core) : (d.modCore c f).transfer = d.transfer := rfl
@[simp] theorem Dev.modCore_srBackoff (d : Dev) (c : Nat) (f : Core → Core) : (d.modCore c f).srBackoff = d.srBackoff := rfl
@[simp] theorem Dev.modCore_unwrapBackoff (d : Dev) (c : Nat) (f : Core → Core) : (d.modCore c f).unwrapBackoff = d.unwrapBackoff := rfl
@[simp] theorem Dev.modCore_superseded (d : Dev) (c : Nat) (f : Core → Core) : (d.modCore c f).superseded = d.superseded := rfl
@[simp] theorem Dev.modCore_unwraps (d : Dev) (c : Nat) (f : Core → Core) : (d.modCore c f).unwraps = d.unwraps := rfl
@[simp] theorem Dev.modCore_commitAcc (d : Dev) (c : Nat) (f : Core → Core) : (d.modCore c f).commitAcc = d.commitAcc := rfl
@[simp] theorem Dev.modCore_linkTx (d : Dev) (c : Nat) (f : Core → Core) : (d.modCore c f).linkTx = d.linkTx := rfl
@[simp] theorem Dev.modCore_linkRx (d : Dev) (c : Nat) (f : Core → Core) : (d.modCore c f).linkRx = d.linkRx := rfl
@[simp] theorem Dev.modCore_unacked (d : Dev) (c : Nat) (f : Core → Core) : (d.modCore c f).unacked = d.unacked := rfl
@[simp] theorem Dev.modCore_proofDue (d : Dev) (c : Nat) (f : Core → Core) : (d.modCore c f).proofDue = d.proofDue := rfl
@[simp] theorem Dev.modCore_eth (d : Dev) (c : Nat) (f : Core → Core) : (d.modCore c f).eth = d.eth := rfl
@[simp] theorem Dev.modCore_tookOver (d : Dev) (c : Nat) (f : Core → Core) : (d.modCore c f).tookOver = d.tookOver := rfl
@[simp] theorem Dev.modCore_marks (d : Dev) (c : Nat) (f : Core → Core) : (d.modCore c f).marks = d.marks := rfl
@[simp] theorem Dev.modCore_hostBytes (d : Dev) (c : Nat) (f : Core → Core) : (d.modCore c f).hostBytes = d.hostBytes := rfl
@[simp] theorem Dev.modCore_inputs (d : Dev) (c : Nat) (f : Core → Core) : (d.modCore c f).inputs = d.inputs := rfl
@[simp] theorem Dev.modCore_park (d : Dev) (c : Nat) (f : Core → Core) : (d.modCore c f).park = d.park := rfl
@[simp] theorem Dev.modCore_images (d : Dev) (c : Nat) (f : Core → Core) : (d.modCore c f).images = d.images := rfl
@[simp] theorem Dev.modCore_live (d : Dev) (c : Nat) (f : Core → Core) : (d.modCore c f).live = d.live := rfl
@[simp] theorem Dev.modCore_commitNo (d : Dev) (c : Nat) (f : Core → Core) : (d.modCore c f).commitNo = d.commitNo := rfl
@[simp] theorem Dev.modCore_appliedAt (d : Dev) (c : Nat) (f : Core → Core) : (d.modCore c f).appliedAt = d.appliedAt := rfl
@[simp] theorem Dev.modCore_openDelta (d : Dev) (c : Nat) (f : Core → Core) : (d.modCore c f).openDelta = d.openDelta := rfl
@[simp] theorem Dev.modCore_pair (d : Dev) (c : Nat) (f : Core → Core) : (d.modCore c f).pair = d.pair := rfl
@[simp] theorem Dev.modCore_boot (d : Dev) (c : Nat) (f : Core → Core) : (d.modCore c f).boot = d.boot := rfl

end Sys2Proof.Machine
end

