-- ==== Sys2Proof/Laws/Engine.lean ====
section
/-! SUPPORT. What an instruction of a core does: the core alone changes, its cycles are charged, and a core that cannot execute
changes nothing. -/

namespace Sys2Proof.Machine

theorem sdel_sdel {α : Type} (m : Sparse α) (i : Nat) : sdel (sdel m i) i = sdel m i := by
  induction m with
  | nil => rfl
  | cons e r ih =>
    obtain ⟨k, w⟩ := e
    by_cases hk : k = i <;> simp [sdel, hk, ih]

theorem sdel_sins {α : Type} (m : Sparse α) (i : Nat) (v : α) : sdel (sins m i v) i = sdel m i := by
  induction m with
  | nil => simp [sins, sdel]
  | cons e r ih =>
    obtain ⟨k, w⟩ := e
    by_cases hik : i < k
    · simp [sins, hik, sdel]
    · by_cases hk : k = i <;> simp [sins, hik, sdel, hk, ih]

/-- Of two writes at one index the second counts. -/
theorem sput_sput {α : Type} [Inhabited α] [DecidableEq α] (m : Sparse α) (i : Nat) (v w : α) :
    sput (sput m i v) i w = sput m i w := by
  have h : sdel (sput m i v) i = sdel m i := by
    unfold sput
    split
    · exact sdel_sdel m i
    · rw [sdel_sins, sdel_sdel]
  unfold sput at h ⊢
  rw [h]

theorem Dev.modCore_modCore (d : Dev) (c : Nat) (f g : Core → Core) : (d.modCore c f).modCore c g = d.modCore c (g ∘ f) := by
  simp only [Dev.modCore, smod, sput_sput, sget_sput_same, Function.comp]

/-- An effect on a core that leaves its item and its counts of cycles. -/
def KeepsItem (f : Core → Core) : Prop := ∀ k, (f k).busy = k.busy ∧ (f k).cycles = k.cycles ∧ (f k).used = k.used

/-- An instruction of a core that can execute it. -/
theorem Dev.instr_ready {d : Dev} {c n : Nat} {f : Core → Core} (h : d.ready c n) (hf : KeepsItem f) :
    d.instr c n f = d.executed c n f := by
  obtain ⟨hr, it, hb, hp, ha, hc⟩ := h
  have hbusy : d.coreBusy c = true := by simp [Dev.coreBusy, hr, hb]
  have hpc : ¬((d.core c).codeLen < (d.core c).pc + 4 ∨ (d.core c).pc % 4 ≠ 0) := by omega
  have e1 : d.instr c n f = (d.modCore c fun k => f { k with pc := k.pc + 4 }).charge c n := by
    simp only [Dev.instr, hbusy, hpc, if_true, if_false]
  have hkeep := hf { d.core c with pc := (d.core c).pc + 4 }
  have hb2 : ((d.modCore c fun k => f { k with pc := k.pc + 4 }).core c).busy = some it := by
    rw [Dev.modCore_core, hkeep.1]; exact hb
  have e2 : (d.modCore c fun k => f { k with pc := k.pc + 4 }).modCore c
      (fun k => { k with cycles := k.cycles + n, used := k.used + n }) = d.executed c n f := by
    rw [Dev.modCore_modCore]
    simp only [Dev.executed, Dev.modCore, smod, Function.comp]
    have hkeep' := hf { sget d.cores c with pc := (sget d.cores c).pc + 4 }
    simp only [hkeep'.2.1, hkeep'.2.2]
  rw [e1]
  unfold Dev.charge
  simp only [hb2, e2]
  have hent : (d.executed c n f).entry it.entry = d.entry it.entry := rfl
  have hcyc : ((d.executed c n f).core c).cycles = (d.core c).cycles + n := by
    simp only [Dev.executed, Dev.modCore_core]
  rw [hent]
  cases he : d.entry it.entry with
  | none => rfl
  | some e =>
    have := hc e he
    simp only [hcyc]
    rw [if_neg (by omega)]

/-- An instruction that cannot end in a program error here. -/
theorem Dev.instrOr_ready {d : Dev} {c n : Nat} {f : Core → Core} (h : d.ready c n) (hf : KeepsItem f) :
    d.instrOr c n none f = d.executed c n f := Dev.instr_ready h hf

/-- A core without an item, or of a device that does not run, executes nothing. -/
theorem Dev.instr_idle {d : Dev} {c n : Nat} {f : Core → Core} (h : d.coreBusy c = false) : d.instr c n f = d := by
  simp [Dev.instr, h]

/-- What an executed instruction leaves: every other core. -/
theorem Dev.executed_core_ne (d : Dev) {c e : Nat} (n : Nat) (f : Core → Core) (h : e ≠ c) : (d.executed c n f).core e = d.core e :=
  Dev.modCore_core_ne d _ h

theorem Dev.executed_core (d : Dev) (c n : Nat) (f : Core → Core) :
    (d.executed c n f).core c =
      { f { d.core c with pc := (d.core c).pc + 4 } with cycles := (d.core c).cycles + n, used := (d.core c).used + n } := by
  simp only [Dev.executed, Dev.modCore_core]

/-! ### Packed signals -/

/-- A byte of data memory is no place that stops a write. -/
theorem dstBad_inDmem {c addr : Nat} (h : inDmem c addr 1 = true) : dstBad c addr 1 = none := by
  unfold inDmem at h
  simp only [dstBad, region, h, if_true]

/-- A write to a core's data memory leaves what decides whether it can execute. -/
theorem Dev.dmemPut_ready {d : Dev} {c n : Nat} (off : Nat) (b : Byte) (h : d.ready c n) : (d.dmemPut c off b).ready c n := by
  obtain ⟨hr, it, hb, hp, ha, hc⟩ := h
  unfold Dev.dmemPut
  split
  · exact ⟨hr, it, hb, hp, ha, hc⟩
  · refine ⟨hr, it, ?_, ?_, ?_, ?_⟩ <;> rw [Dev.modCore_core]
    · exact hb
    · exact hp
    · exact ha
    · exact hc

/-- Packing a signal leaves what decides whether the core can execute. -/
theorem Dev.packBits_ready {d : Dev} {c n : Nat} (base v : Nat) (s : Word) (h : d.ready c n) : (d.packBits c base v s).ready c n := by
  unfold Dev.packBits
  generalize ((sigBits s).mapIdx fun i pos => (i, pos)) = l
  induction l generalizing d with
  | nil => exact h
  | cons e r ih => exact ih (Dev.dmemPut_ready _ _ h)

/-! ### General registers -/

theorem Core.get_zero (k : Core) : k.get 0 = 0 := rfl

theorem Core.get_set (k : Core) (r q : GReg) (w : Word) :
    (k.set r w).get q = if q = r ∧ r.val ≠ 0 then w else k.get q := by
  unfold Core.set Core.get
  by_cases hr : r.val = 0
  · simp [hr]
  · simp only [hr, if_false]
    by_cases hq : q.val = 0
    · have : ¬(q = r) := fun e => hr (e ▸ hq)
      simp [hq, this]
    · by_cases hqr : q = r
      · subst hqr; simp [hq]
      · have hv : q.val ≠ r.val := fun e => hqr (Fin.ext e)
        simp [hq, hqr, sget_sput_ne _ _ hv]

theorem Core.set_keeps (r : GReg) (w : Core → Word) : KeepsItem fun k => k.set r (w k) := by
  intro k
  unfold Core.set
  split <;> exact ⟨rfl, rfl, rfl⟩

theorem Core.setPair_keeps (r : GReg) (w : Core → DWord) : KeepsItem fun k => k.setPair r (w k) := by
  intro k
  unfold Core.setPair Core.set
  repeat' split
  all_goals exact ⟨rfl, rfl, rfl⟩

/-- A meaning that acts on the device answers the state with what the device becomes. -/
theorem onDev_withDev (s : State) {f : Dev → Dev} {d : Dev} (h : f s.dev = d) : s.onDev f = .next (s.withDev d) := by
  subst h; rfl

/-! ### Data memory -/

theorem Dev.inPersist_dmemPut (d : Dev) (c o a : Nat) (b : Byte) : (d.dmemPut c o b).inPersist c a = d.inPersist c a := by
  unfold Dev.dmemPut
  split
  · rfl
  · simp only [Dev.inPersist, Dev.persistAt, Dev.modCore_core]
    rfl

theorem Dev.persistAt_dmemPut (d : Dev) (c o : Nat) (b : Byte) : (d.dmemPut c o b).persistAt c = d.persistAt c := by
  unfold Dev.dmemPut
  split
  · rfl
  · simp only [Dev.persistAt, Dev.modCore_core]
    rfl

/-- A byte stored in data memory is read there, and every other byte reads as before (R188, R189). -/
theorem Dev.dmem_dmemPut (d : Dev) (c o a : Nat) (b : Byte) : (d.dmemPut c o b).dmem c a = if a = o then b else d.dmem c a := by
  unfold Dev.dmem
  rw [Dev.inPersist_dmemPut, Dev.persistAt_dmemPut]
  by_cases ho : d.inPersist c o = true
  · have e : d.dmemPut c o b = d.modK fun k => { k with persist := sput k.persist (0x100000 * c + (o - d.persistAt c)) b } := by
      simp only [Dev.dmemPut, ho, if_true]
    rw [e]
    by_cases ha : d.inPersist c a = true
    · simp only [ha, if_true, Dev.modK_kept, sget_sput]
      have h1 : d.persistAt c ≤ o := by simp [Dev.inPersist] at ho; exact ho.1
      have h2 : d.persistAt c ≤ a := by simp [Dev.inPersist] at ha; exact ha.1
      by_cases hao : a = o
      · simp [hao]
      · have : ¬(0x100000 * c + (a - d.persistAt c) = 0x100000 * c + (o - d.persistAt c)) := by omega
        rw [if_neg this, if_neg hao]
    · have hao : a ≠ o := by rintro rfl; exact ha ho
      simp only [ha, hao, if_false, Bool.false_eq_true]
      rfl
  · have e : d.dmemPut c o b = d.modCore c fun k => { k with mem := sput k.mem o b } := by
      simp only [Dev.dmemPut, ho, if_false, Bool.false_eq_true]
    rw [e]
    by_cases ha : d.inPersist c a = true
    · have hao : a ≠ o := by rintro rfl; exact ho ha
      simp only [ha, hao, if_true, if_false]
      rfl
    · simp only [ha, if_false, Bool.false_eq_true, Dev.modCore_core, sget_sput]

/-- Bytes stored from an address on. -/
theorem Dev.dmem_dmemStore (c : Nat) (bs : List Byte) (addr : Nat) (d : Dev) (a : Nat) (h : dmemBase c ≤ addr) :
    (Dev.dmemStore c addr bs d).dmem c a =
      if addr - dmemBase c ≤ a ∧ a < addr - dmemBase c + bs.length then bs.getD (a - (addr - dmemBase c)) 0 else d.dmem c a := by
  induction bs generalizing addr d with
  | nil => simp [Dev.dmemStore]
  | cons b r ih =>
    have e : Dev.dmemStore c addr (b :: r) d = Dev.dmemStore c (addr + 1) r (d.dmemPut c (addr - dmemBase c) b) := rfl
    rw [e, ih (addr + 1) _ (by omega), Dev.dmem_dmemPut]
    have h1 : addr + 1 - dmemBase c = addr - dmemBase c + 1 := by omega
    rw [h1]
    by_cases hin : addr - dmemBase c + 1 ≤ a ∧ a < addr - dmemBase c + 1 + r.length
    · have hb : addr - dmemBase c ≤ a ∧ a < addr - dmemBase c + (b :: r).length := by simp only [List.length_cons]; omega
      have hs : a - (addr - dmemBase c) = (a - (addr - dmemBase c + 1)) + 1 := by omega
      rw [if_pos hin, if_pos hb, hs]
      rfl
    · rw [if_neg hin]
      by_cases ha : a = addr - dmemBase c
      · have hb : addr - dmemBase c ≤ a ∧ a < addr - dmemBase c + (b :: r).length := by simp only [List.length_cons]; omega
        rw [if_pos ha, if_pos hb, ha]
        simp
      · have hb : ¬(addr - dmemBase c ≤ a ∧ a < addr - dmemBase c + (b :: r).length) := by simp only [List.length_cons]; omega
        rw [if_neg ha, if_neg hb]

/-- What a store leaves of the core: everything but its memory; of the device: every other core, and all but the kept
persistent areas. -/
theorem Dev.dmemPut_core (d : Dev) (c o : Nat) (b : Byte) :
    ∃ m, (d.dmemPut c o b).core c = { d.core c with mem := m } := by
  unfold Dev.dmemPut
  split
  · exact ⟨(d.core c).mem, rfl⟩
  · exact ⟨sput (d.core c).mem o b, by rw [Dev.modCore_core]⟩

theorem Dev.dmemPut_core_ne (d : Dev) (c o e : Nat) (b : Byte) (h : e ≠ c) : (d.dmemPut c o b).core e = d.core e := by
  unfold Dev.dmemPut
  split
  · rfl
  · exact Dev.modCore_core_ne d _ h

theorem Dev.dmemStore_core (c : Nat) (bs : List Byte) (addr : Nat) (d : Dev) :
    ∃ m, (Dev.dmemStore c addr bs d).core c = { d.core c with mem := m } := by
  induction bs generalizing addr d with
  | nil => exact ⟨(d.core c).mem, rfl⟩
  | cons b r ih =>
    obtain ⟨m, hm⟩ := ih (addr + 1) (d.dmemPut c (addr - dmemBase c) b)
    obtain ⟨m', hm'⟩ := d.dmemPut_core c (addr - dmemBase c) b
    refine ⟨m, ?_⟩
    show (Dev.dmemStore c (addr + 1) r (d.dmemPut c (addr - dmemBase c) b)).core c = _
    rw [hm, hm']

theorem Dev.dmemStore_core_ne (c : Nat) (bs : List Byte) (addr e : Nat) (d : Dev) (h : e ≠ c) :
    (Dev.dmemStore c addr bs d).core e = d.core e := by
  induction bs generalizing addr d with
  | nil => rfl
  | cons b r ih =>
    show (Dev.dmemStore c (addr + 1) r (d.dmemPut c (addr - dmemBase c) b)).core e = _
    rw [ih, Dev.dmemPut_core_ne _ _ _ _ _ h]

/-- What a store leaves of the device: its mode, almanac and all but cores and persistent areas. -/
theorem Dev.dmemPut_frame (d : Dev) (c o : Nat) (b : Byte) :
    (d.dmemPut c o b).mode = d.mode ∧ (d.dmemPut c o b).alm = d.alm := by
  unfold Dev.dmemPut
  split <;> exact ⟨rfl, rfl⟩

theorem Dev.dmemStore_frame (c : Nat) (bs : List Byte) (addr : Nat) (d : Dev) :
    (Dev.dmemStore c addr bs d).mode = d.mode ∧ (Dev.dmemStore c addr bs d).alm = d.alm := by
  induction bs generalizing addr d with
  | nil => exact ⟨rfl, rfl⟩
  | cons b r ih =>
    have h1 := ih (addr + 1) (d.dmemPut c (addr - dmemBase c) b)
    have h2 := d.dmemPut_frame c (addr - dmemBase c) b
    exact ⟨h1.1.trans h2.1, h1.2.trans h2.2⟩

/-- Being ready depends on the mode, the almanac and the core's item, counts and code alone. -/
theorem Dev.ready_congr {d e : Dev} {c n : Nat} (hm : e.mode = d.mode) (ha : e.alm = d.alm) {m : Sparse Byte}
    (hc : e.core c = { d.core c with mem := m }) (h : d.ready c n) : e.ready c n := by
  obtain ⟨hr, it, hb, hp, hq, hcy⟩ := h
  refine ⟨by simpa only [Dev.runs, hm] using hr, it, by rw [hc]; exact hb, by rw [hc]; exact hp, by rw [hc]; exact hq, ?_⟩
  intro x hx
  have : d.entry it.entry = some x := by simpa only [Dev.entry, ha] using hx
  rw [hc]
  exact hcy x this

end Sys2Proof.Machine
end

