-- ==== Sys2Proof/Laws/Reports.lean ====
section
/-! SUPPORT. What writing completions, event records and counters can change: registers, rings, what leaves the device, accession
numbers and reads on their way. Nothing else of the device changes. -/

namespace Sys2Proof.Machine

/-- `e` is `d` after reports: only registers, rings, the trace, the next accession number and reads on their way differ. -/
def Reports (d e : Dev) : Prop :=
  ∃ (g : Sparse Word) (r : Sparse Ring) (o : List Out) (a : Nat) (p : List PendRead),
    e = { d with kept := { d.kept with regs := g, rings := r }, out := o, acc := a, pendReads := p }

theorem Reports.refl (d : Dev) : Reports d d := ⟨d.kept.regs, d.kept.rings, d.out, d.acc, d.pendReads, rfl⟩

theorem Reports.trans {d e f : Dev} (h : Reports d e) (h' : Reports e f) : Reports d f := by
  obtain ⟨g, r, o, a, p, rfl⟩ := h
  obtain ⟨g', r', o', a', p', rfl⟩ := h'
  exact ⟨g', r', o', a', p', rfl⟩

theorem Reports.cores {d e : Dev} (h : Reports d e) : e.cores = d.cores := by
  obtain ⟨g, r, o, a, p, rfl⟩ := h; rfl

theorem Reports.core {d e : Dev} (h : Reports d e) (c : Nat) : e.core c = d.core c := by
  unfold Dev.core; rw [h.cores]

theorem Reports.frame {d e : Dev} (h : Reports d e) :
    e.mode = d.mode ∧ e.now = d.now ∧ e.alm = d.alm ∧ e.packets = d.packets ∧ e.cores = d.cores ∧
      e.kept.persist = d.kept.persist ∧ e.kept.transit = d.kept.transit := by
  obtain ⟨g, r, o, a, p, rfl⟩ := h; exact ⟨rfl, rfl, rfl, rfl, rfl, rfl, rfl⟩

theorem wr_reports (d : Dev) (f : Fld) (ix : List Nat) (v : Nat) : Reports d (d.wr f ix v) :=
  ⟨_, d.kept.rings, d.out, d.acc, d.pendReads, rfl⟩
theorem bump_reports (d : Dev) (f : Fld) (ix : List Nat) (n : Nat) : Reports d (d.bump f ix n) :=
  ⟨_, d.kept.rings, d.out, d.acc, _, rfl⟩
theorem incr_reports (d : Dev) (f : Fld) (ix : List Nat) : Reports d (d.incr f ix) := wr_reports _ _ _ _
theorem emit_reports (d : Dev) (o : Out) : Reports d (d.emit o) := ⟨d.kept.regs, d.kept.rings, _, d.acc, d.pendReads, rfl⟩
theorem number_reports (d : Dev) : Reports d d.number.2 := ⟨d.kept.regs, d.kept.rings, d.out, _, d.pendReads, rfl⟩
theorem modRing_reports (d : Dev) (t r : Nat) (f : Ring → Ring) : Reports d (d.modRing t r f) :=
  ⟨d.kept.regs, _, d.out, d.acc, d.pendReads, rfl⟩
theorem putRecord_reports (d : Dev) (t r acc : Nat) (irq : Bool) (out : Nat → Out) : Reports d (d.putRecord t r acc irq out) :=
  (modRing_reports _ _ _ _).trans (emit_reports _ _)

theorem syncDrained_reports (d : Dev) (t r : Nat) : Reports d (d.syncDrained t r) := by
  unfold Dev.syncDrained
  dsimp only
  split <;> exact wr_reports _ _ _ _

theorem putCompletion_reports (d : Dev) (t r acc : Nat) (bytes : List Byte) (irq : Bool) :
    Reports d (d.putCompletion t r acc bytes irq) := by
  unfold Dev.putCompletion
  dsimp only
  refine (modRing_reports d t (d.ringCq t r) fun g => { g with reserved := g.reserved - 1 }).trans ?_
  split
  · exact (modRing_reports _ _ _ _).trans (putRecord_reports _ _ _ _ _ _)
  · exact (modRing_reports _ _ _ _).trans (syncDrained_reports _ _ _)

theorem drainOrder_reports (t r : Nat) (l : List HostRef) (d : Dev) : Reports d (Dev.drainOrder t r l d) := by
  induction l generalizing d with
  | nil => exact Reports.refl d
  | cons h l ih =>
    unfold Dev.drainOrder
    split
    · exact Reports.refl d
    · exact ((modRing_reports _ _ _ _).trans (putCompletion_reports _ _ _ _ _ _)).trans (ih _)

theorem complete_reports (d : Dev) (h : HostRef) (status cflags delay : Nat) (result : List Byte) :
    Reports d (d.complete h status cflags delay result) := by
  unfold Dev.complete
  dsimp only
  split
  · exact (modRing_reports _ _ _ _).trans (drainOrder_reports _ _ _ _)
  · exact (modRing_reports _ _ _ _).trans (putCompletion_reports _ _ _ _ _ _)

theorem completeHeld_reports (d : Dev) (h : HostRef) (status cflags delay : Nat) : Reports d (d.completeHeld h status cflags delay) := by
  unfold Dev.completeHeld
  dsimp only
  refine Reports.trans ?_ (complete_reports _ _ _ _ _ _)
  split
  · exact modRing_reports _ _ _ _
  · exact Reports.refl d

theorem completeOpt_reports (d : Dev) (h : Option HostRef) (status cflags delay : Nat) :
    Reports d (d.completeOpt h status cflags delay) := by
  cases h with
  | none => exact Reports.refl d
  | some h => exact complete_reports _ _ _ _ _ _

theorem loseEvent_reports (d : Dev) (t : Nat) (r : Option Nat) (acc : Nat) : Reports d (d.loseEvent t r acc) := by
  cases r with
  | none => exact bump_reports _ _ _ _
  | some r => exact (bump_reports _ _ _ _).trans (modRing_reports _ _ _ _)

theorem eventAt_reports (d : Dev) (acc t code status source : Nat) (detail : List Byte) (extra cflags : Nat) :
    Reports d (d.eventAt acc t code status source detail extra cflags) := by
  unfold Dev.eventAt
  split
  · exact loseEvent_reports _ _ _ _
  · split
    · exact putRecord_reports _ _ _ _ _ _
    · exact loseEvent_reports _ _ _ _

theorem event_reports (d : Dev) (t code status source : Nat) (detail : List Byte) (cflags : Nat) :
    Reports d (d.event t code status source detail cflags) :=
  (number_reports d).trans (eventAt_reports _ _ _ _ _ _ _ _ _)

theorem flushLost_reports (d : Dev) (t r : Nat) : Reports d (d.flushLost t r) := by
  unfold Dev.flushLost
  dsimp only
  split
  · exact (putRecord_reports _ _ _ _ _ _).trans (modRing_reports _ _ _ _)
  · exact Reports.refl d

/-- A fold of reports reports. -/
theorem foldl_reports {α : Type} (f : Dev → α → Dev) (l : List α) (d : Dev) (h : ∀ d a, Reports d (f d a)) :
    Reports d (l.foldl f d) := by
  induction l generalizing d with
  | nil => exact Reports.refl d
  | cons a l ih => exact (h d a).trans (ih _)

theorem eventToRight_reports (d : Dev) (bit code status source : Nat) (detail : List Byte) :
    Reports d (d.eventToRight bit code status source detail) := by
  unfold Dev.eventToRight
  generalize List.range 16 = l
  apply foldl_reports
  intro d t
  split
  · exact event_reports _ _ _ _ _ _ _
  · exact Reports.refl d

theorem countOutcome_reports (d : Dev) (id code cflags : Nat) : Reports d (d.countOutcome id code cflags) := by
  unfold Dev.countOutcome
  dsimp only
  repeat' split
  all_goals first
    | exact Reports.refl d
    | exact bump_reports _ _ _ _
    | exact (bump_reports _ _ _ _).trans (event_reports _ _ _ _ _ _ _)

theorem outcome_reports (d : Dev) (it : Item) (code : Nat) : Reports d (d.outcome it code) := by
  unfold Dev.outcome
  dsimp only
  generalize (if code = 0 ∧ (it.carried = true ∨ it.held.isSome = true) then 1 else code) = code'
  have h1 : Reports d (if it.held.isSome = true ∧ code' = 1 then d.bump F.HELD_SERVED_COUNT else d) := by
    split
    · exact bump_reports _ _ _ _
    · exact Reports.refl d
  refine h1.trans ?_
  generalize (if it.held.isSome = true ∧ code' = 1 then d.bump F.HELD_SERVED_COUNT else d) = e
  cases it.host with
  | some h => exact completeHeld_reports _ _ _ _ _
  | none =>
    dsimp only
    split
    · exact countOutcome_reports _ _ _ _
    · exact Reports.refl e

/-! ### Cells and packets -/

/-- What changing the cells of Stacks leaves. -/
def SameCores (d e : Dev) : Prop :=
  e.cores = d.cores ∧ e.mode = d.mode ∧ e.now = d.now ∧ e.alm = d.alm ∧ e.kept.persist = d.kept.persist

theorem SameCores.refl (d : Dev) : SameCores d d := ⟨rfl, rfl, rfl, rfl, rfl⟩
theorem SameCores.trans {d e f : Dev} (h : SameCores d e) (h' : SameCores e f) : SameCores d f :=
  ⟨h'.1.trans h.1, h'.2.1.trans h.2.1, h'.2.2.1.trans h.2.2.1, h'.2.2.2.1.trans h.2.2.2.1, h'.2.2.2.2.trans h.2.2.2.2⟩
theorem Reports.same {d e : Dev} (h : Reports d e) : SameCores d e := by
  obtain ⟨g, r, o, a, p, rfl⟩ := h; exact ⟨rfl, rfl, rfl, rfl, rfl⟩

theorem poolNotice_same (d : Dev) : SameCores d d.poolNotice := by
  unfold Dev.poolNotice
  dsimp only
  have h := (wr_reports d F.STACKS_STATUS_FREE_CELLS [] d.freeCells).trans
    (wr_reports (d.wr F.STACKS_STATUS_FREE_CELLS [] d.freeCells) F.POOL_NOTICE_TROUGH []
      (min d.freeCells ((d.wr F.STACKS_STATUS_FREE_CELLS [] d.freeCells).rd F.POOL_NOTICE_TROUGH)))
  refine h.same.trans ?_
  generalize (d.wr F.STACKS_STATUS_FREE_CELLS [] d.freeCells).wr F.POOL_NOTICE_TROUGH []
      (min d.freeCells ((d.wr F.STACKS_STATUS_FREE_CELLS [] d.freeCells).rd F.POOL_NOTICE_TROUGH)) = e
  have hb := (bump_reports e F.POOL_NOTICE_CROSSINGS [] 1).same
  split
  · exact ⟨rfl, rfl, rfl, rfl, rfl⟩
  · split
    · have h2 : SameCores e { (e.bump F.POOL_NOTICE_CROSSINGS) with poolOff := true } := ⟨hb.1, hb.2.1, hb.2.2.1, hb.2.2.2.1, hb.2.2.2.2⟩
      split
      · refine h2.trans ?_
        have h3 := (eventToRight_reports { (e.bump F.POOL_NOTICE_CROSSINGS) with poolOff := true } 3 0x0012 0 0xFFFF []).same
        exact ⟨h3.1, h3.2.1, h3.2.2.1, h3.2.2.2.1, h3.2.2.2.2⟩
      · exact h2
    · exact SameCores.refl e

theorem returnCells_same (d : Dev) (w own shared : Nat) : SameCores d (d.returnCells w own shared) := by
  unfold Dev.returnCells
  dsimp only
  exact SameCores.trans ⟨rfl, rfl, rfl, rfl, rfl⟩ (poolNotice_same _)

theorem unref_same (d : Dev) (h : Nat) : SameCores d (d.unref h) := by
  unfold Dev.unref
  split
  · exact SameCores.refl d
  · split
    · unfold Dev.freePkt
      exact SameCores.trans ⟨rfl, rfl, rfl, rfl, rfl⟩ (returnCells_same _ _ _ _)
    · exact ⟨rfl, rfl, rfl, rfl, rfl⟩

end Sys2Proof.Machine
end

