-- ==== Sys2Proof/Laws/Strongroom.lean ====
section
/-! SUPPORT. What the Strongroom's work can do to its persistent store: which operations leave the lifecycle, the fuses and the
working store as they are, and how a commit and a lifecycle transition change them. -/

namespace Sys2Proof.Machine

/-- The parts of the store that soundness speaks of are the same. -/
def SameStore (r r' : Strongroom) : Prop := r'.lifecycle = r.lifecycle ∧ r'.blown = r.blown ∧ r'.slots = r.slots

theorem SameStore.rfl' (r : Strongroom) : SameStore r r := ⟨rfl, rfl, rfl⟩

theorem SameStore.trans {a b c : Strongroom} (h : SameStore a b) (k : SameStore b c) : SameStore a c :=
  ⟨k.1.trans h.1, k.2.1.trans h.2.1, k.2.2.trans h.2.2⟩

theorem SameStore.sound {r r' : Strongroom} (h : SameStore r r') (s : r.sound) : r'.sound := by
  obtain ⟨hl, hb, hs⟩ := h
  simpa only [Strongroom.sound, hl, hb, hs] using s

/-- How the store may go on: sound stays sound, and the lifecycle stays or goes to the next state (R557). -/
def Goes (r r' : Strongroom) : Prop :=
  (r.sound → r'.sound) ∧ (r'.lifecycle = r.lifecycle ∨ (r'.lifecycle = r.lifecycle + 1 ∧ r'.lifecycle ≤ 4))

/-- It goes on within its lifecycle state. -/
def Holds (r r' : Strongroom) : Prop := (r.sound → r'.sound) ∧ r'.lifecycle = r.lifecycle

theorem SameStore.holds {r r' : Strongroom} (h : SameStore r r') : Holds r r' := ⟨h.sound, h.1⟩
theorem Holds.goes {r r' : Strongroom} (h : Holds r r') : Goes r r' := ⟨h.1, Or.inl h.2⟩
theorem Holds.refl (r : Strongroom) : Holds r r := ⟨id, rfl⟩
theorem Holds.trans {a b c : Strongroom} (h : Holds a b) (k : Holds b c) : Holds a c := ⟨k.1 ∘ h.1, k.2.trans h.2⟩
theorem Holds.trans_goes {a b c : Strongroom} (h : Holds a b) (k : Goes b c) : Goes a c := ⟨k.1 ∘ h.1, h.2 ▸ k.2⟩
theorem Goes.trans_holds {a b c : Strongroom} (h : Goes a b) (k : Holds b c) : Goes a c := ⟨k.1 ∘ h.1, k.2 ▸ h.2⟩
theorem Goes.refl (r : Strongroom) : Goes r r := (Holds.refl r).goes

/-- A fold of steps that hold, holds. -/
theorem foldl_holds {β : Type} (f : Strongroom → β → Strongroom) (h : ∀ r b, Holds r (f r b)) (l : List β) (r : Strongroom) :
    Holds r (l.foldl f r) := by
  induction l generalizing r with
  | nil => exact Holds.refl r
  | cons b l ih => exact (h r b).trans (ih _)

theorem foldl_holds₂ {β : Type} (f : WithSr → β → WithSr) (h : ∀ x b, Holds x.2 (f x b).2) (l : List β) (x : WithSr) :
    Holds x.2 (l.foldl f x).2 := by
  induction l generalizing x with
  | nil => exact Holds.refl x.2
  | cons b l ih => exact (h x b).trans (ih _)

/-! ### Copies and messages -/

theorem writeCopy_same (r : Strongroom) (n : Nat) (c : KeyCopy) : SameStore r (r.writeCopy n c) := by
  unfold Strongroom.writeCopy
  split <;> exact ⟨rfl, rfl, rfl⟩

theorem stageOne_holds (target : Nat) (slots : Sparse KeySlot) (r : Strongroom) (n : Nat) : Holds r (Strongroom.stageOne target slots r n) := by
  unfold Strongroom.stageOne
  split
  · exact Holds.refl r
  · exact (writeCopy_same _ _ _).holds

theorem stage_holds (r : Strongroom) (m : List Byte) (slots : Sparse KeySlot) (staged : List (Nat × KeySlot × Bool)) :
    Holds r (r.stage m slots staged) := by
  unfold Strongroom.stage
  generalize List.range 512 = l
  split
  · exact foldl_holds (Strongroom.stageOne (msgTarget m) slots) (fun r n => stageOne_holds _ _ r n) l r
  · exact foldl_holds _ (fun r e => (writeCopy_same _ _ _).holds) _ _

theorem submitMsg_holds (page len : Nat) (x : WithSr) : Holds x.2 (submitMsg page len x).2 := by
  obtain ⟨d, r⟩ := x
  simp only [submitMsg]
  repeat' split
  all_goals first | exact Holds.refl r | exact stage_holds r _ _ _

theorem submitVia_holds (port page len : Nat) (x : WithSr) : Holds x.2 (submitVia port page len x).2 := by
  unfold submitVia
  split
  · exact submitMsg_holds page _ x
  · exact Holds.refl _

theorem replayProof_sr (page : Nat) (pair : Bool) (x : WithSr) : (replayProof page pair x).2 = x.2 := by
  unfold replayProof
  generalize (if pair then x.2.pairProof else x.2.proof) = b
  generalize x.1.placeReply page b = d
  rfl

theorem replayVia_holds (port page : Nat) (pair : Bool) (x : WithSr) : Holds x.2 (replayVia port page pair x).2 := by
  unfold replayVia
  split
  · rw [replayProof_sr]
    exact Holds.refl _
  · exact Holds.refl _

theorem peerMessage_holds (m : List Byte) (x : WithSr) : Holds x.2 (peerMessage m x).2 := by
  obtain ⟨d, r⟩ := x
  simp only [peerMessage]
  split
  · exact Holds.refl r
  · exact stage_holds r _ _ _

theorem peerVerdict_holds (ok : Bool) (x : WithSr) : Holds x.2 (peerVerdict ok x).2 := by
  obtain ⟨d, r⟩ := x
  simp only [peerVerdict]
  repeat' split
  all_goals first | exact Holds.refl r | exact stage_holds r _ _ _

theorem stageTransfer_holds (x : WithSr) : Holds x.2 (stageTransfer x).2 := by
  obtain ⟨d, r⟩ := x
  simp only [stageTransfer]
  repeat' split
  all_goals first | exact Holds.refl r | exact foldl_holds _ (fun r e => (writeCopy_same _ _ _).holds) _ _

theorem takePairSlots_holds (s : List (Nat × KeySlot)) (c : Nat) (iv mac : List Byte) (x : WithSr) :
    Holds x.2 (takePairSlots s c iv mac x).2 := by
  obtain ⟨d, r⟩ := x
  simp only [takePairSlots]
  repeat' split
  all_goals first | exact Holds.refl r | exact stageTransfer_holds (_, r)

theorem writeUnwrap_holds (u : Unwrap) (x : WithSr) : Holds x.2 (writeUnwrap u x).2 := by
  obtain ⟨d, r⟩ := x
  exact (writeCopy_same _ _ _).holds

theorem tenantUnwrap_holds (t : Nat) (x : WithSr) : Holds x.2 (tenantUnwrap t x).2 := by
  obtain ⟨d, r⟩ := x
  simp only [tenantUnwrap]
  repeat' split
  all_goals first | exact Holds.refl r | exact writeUnwrap_holds _ (_, r)

theorem peerBlob_holds (t handle : Nat) (b : List Byte) (x : WithSr) : Holds x.2 (peerBlob t handle b x).2 := by
  unfold peerBlob
  dsimp only
  cases x.1.blobCheck x.2 t handle b with
  | error e => exact Holds.refl x.2
  | ok new => dsimp only; split <;> exact Holds.refl x.2

theorem blobGo_holds (x : WithSr) : Holds x.2 (blobGo x).2 := by
  unfold blobGo
  split
  · exact Holds.refl _
  · exact writeUnwrap_holds _ _

theorem peerBlobVerdict_holds (ok : Bool) (x : WithSr) : Holds x.2 (peerBlobVerdict ok x).2 := by
  unfold peerBlobVerdict
  split
  · split
    · exact blobGo_holds (x.1.sendLink .srBlobGo, x.2)
    · exact Holds.refl x.2
  · exact Holds.refl x.2

/-! ### Commits -/

/-- A slot's commit changes that slot of the working store, and nothing in DECOMMISSIONED. -/
theorem commitSlot_sr (n : Nat) (new : KeySlot) (abort : Bool) (acc ctr : Nat) (x : WithSr) :
    (commitSlot n new abort acc ctr x).2 = if x.2.lifecycle = 4 then x.2 else { x.2 with slots := sput x.2.slots n new } := by
  obtain ⟨d, r⟩ := x
  simp only [commitSlot]
  split <;> rfl

theorem commitSlot_holds (n : Nat) (new : KeySlot) (abort : Bool) (acc ctr : Nat) (x : WithSr) :
    Holds x.2 (commitSlot n new abort acc ctr x).2 := by
  rw [commitSlot_sr]
  split
  · exact Holds.refl _
  · rename_i h
    exact ⟨fun s => ⟨s.1, swf_sput s.2.1 _ _, fun e => absurd e h⟩, rfl⟩

theorem eraseOne_holds (target acc ctr : Nat) (x : WithSr) (n : Nat) : Holds x.2 (eraseOne target acc ctr x n).2 := by
  unfold eraseOne
  repeat' split
  all_goals first | exact Holds.refl _ | exact commitSlot_holds _ _ _ _ _ _

theorem eraseSlots_holds (target acc ctr : Nat) (x : WithSr) : Holds x.2 (eraseSlots target acc ctr x).2 := by
  unfold eraseSlots
  generalize List.range 512 = l
  exact foldl_holds₂ (eraseOne target acc ctr) (fun x n => eraseOne_holds target acc ctr x n) l x

/-- Entering DECOMMISSIONED empties a slot and leaves an empty one empty. -/
theorem eraseOne_empty (acc ctr : Nat) (x : WithSr) (n m : Nat) (hl : x.2.lifecycle ≠ 4) (hm : isVirtual m = false)
    (h : m = n ∨ (sget x.2.slots m).empty = true) : (sget (eraseOne 4 acc ctr x n).2.slots m).empty = true := by
  unfold eraseOne
  by_cases hv : isVirtual n = true
  · simp only [hv, if_true]
    rcases h with h | h
    · subst h; simp [hm] at hv
    · exact h
  · have he : erasedOn 4 n (sget x.2.slots n) = true := rfl
    simp only [hv, he, if_true, Bool.false_eq_true, if_false]
    rw [commitSlot_sr, if_neg hl, sget_sput]
    by_cases hmn : m = n
    · simp only [hmn, if_true, carriedSlot, he]
      rfl
    · rcases h with h | h
      · exact absurd h hmn
      · simpa [hmn] using h

theorem eraseFold_empty (acc ctr : Nat) (l : List Nat) (x : WithSr) (m : Nat) (hl : x.2.lifecycle ≠ 4) (hm : isVirtual m = false)
    (h : m ∈ l ∨ (sget x.2.slots m).empty = true) : (sget (l.foldl (eraseOne 4 acc ctr) x).2.slots m).empty = true := by
  induction l generalizing x with
  | nil => simpa using h
  | cons n l ih =>
    have hl' : (eraseOne 4 acc ctr x n).2.lifecycle ≠ 4 := by rw [(eraseOne_holds 4 acc ctr x n).2]; exact hl
    refine ih _ hl' ?_
    rcases h with h | h
    · rcases List.mem_cons.mp h with h | h
      · exact Or.inr (eraseOne_empty acc ctr x n m hl hm (Or.inl h))
      · exact Or.inl h
    · exact Or.inr (eraseOne_empty acc ctr x n m hl hm (Or.inr h))

/-- Entering DECOMMISSIONED leaves no slot with a key. -/
theorem eraseSlots_empty (acc ctr : Nat) (x : WithSr) (m : Nat) (hl : x.2.lifecycle ≠ 4) (hm : isVirtual m = false) (h : m < 512) :
    (sget (eraseSlots 4 acc ctr x).2.slots m).empty = true := by
  unfold eraseSlots
  have : m ∈ List.range 512 := List.mem_range.mpr h
  generalize List.range 512 = l at this
  exact eraseFold_empty acc ctr l x m hl hm (Or.inl this)

theorem advanceLifecycle_goes (target acc ctr : Nat) (x : WithSr) : Goes x.2 (advanceLifecycle target acc ctr x).2 := by
  unfold advanceLifecycle
  split
  · exact Goes.refl _
  · rename_i h
    have ht : target = x.2.lifecycle + 1 ∧ target ≤ 4 := by omega
    have hk := eraseSlots_holds target acc ctr x
    have he := fun n hv hn => eraseSlots_empty acc ctr x n (by omega) hv hn
    dsimp only
    by_cases h4 : target = 4
    · subst h4
      generalize eraseSlots 4 acc ctr x = y at hk he ⊢
      exact ⟨fun s => ⟨le_refl 4, (hk.1 s).2.1, fun _ => ⟨rfl, fun n hn hv => he n hv hn⟩⟩, Or.inr ht⟩
    · rw [if_neg h4]
      generalize eraseSlots target acc ctr x = y at hk ⊢
      exact ⟨fun s => ⟨ht.2, (hk.1 s).2.1, fun e => absurd e h4⟩, Or.inr ht⟩

theorem setCounter_same (r : Strongroom) (h : InHand) : SameStore r (r.setCounter h) := by
  unfold Strongroom.setCounter
  split <;> exact ⟨rfl, rfl, rfl⟩

theorem commitMsg_goes (h : InHand) (acc : Nat) (x : WithSr) : Goes x.2 (commitMsg h acc x).2 := by
  obtain ⟨d, r⟩ := x
  have key : ∀ y : WithSr, Goes r y.2 →
      Goes r (let d := y.1.noteCommit acc
        if h.page = 5 then (d, y.2)
        else
          let proof := proofReply y.2 h acc
          let r := if h.pair then { y.2 with pairProof := proof } else { y.2 with proof }
          let d := (d.bump F.MSG_ACCEPTED_COUNT).event (d.rd F.SR_CFG_EVT_TENANT) 0x0200 0 0xFFFF
            (detail16 (leBytes 4 h.counter ++ leBytes 1 (msgCount h.msg) ++ leBytes 1 h.pair.toNat))
          let d := if h.page < 4 then { d with proofDue := some { page := h.page, bytes := proof } } else d
          (if d.strobeDue then d.placeProof else d, r) : WithSr).2 := by
    intro y hy
    dsimp only
    split
    · exact hy
    · refine hy.trans_holds ?_
      dsimp only
      split <;> exact (show SameStore _ _ from ⟨rfl, rfl, rfl⟩).holds
  by_cases hc : h.page ≠ 5 ∧ msgOp h.msg = 0x10
  · have := key ((advanceLifecycle (msgTarget h.msg) acc h.counter ({ d with inHand := none }, r)).1,
      (advanceLifecycle (msgTarget h.msg) acc h.counter ({ d with inHand := none }, r)).2.setCounter h)
      ((advanceLifecycle_goes _ acc h.counter ({ d with inHand := none }, r)).trans_holds (setCounter_same _ h).holds)
    simpa only [commitMsg, hc, ne_eq, not_false_eq_true, and_self, if_true] using this
  · have := key (h.staged.foldl (fun x e => commitSlot e.1 e.2.1 e.2.2 acc h.counter x) ({ d with inHand := none }, r.setCounter h))
      ((setCounter_same r h).holds.trans
        (foldl_holds₂ _ (fun x e => commitSlot_holds _ _ _ _ _ _) h.staged ({ d with inHand := none }, r.setCounter h))).goes
    simpa only [commitMsg, hc, if_false] using this

theorem commitUnwrap_holds (u : Unwrap) (acc : Nat) (x : WithSr) : Holds x.2 (commitUnwrap u acc x).2 := by
  unfold commitUnwrap
  have := commitSlot_holds u.slot u.new false acc (x.2.ctr u.new.pair) x
  dsimp only
  split <;> exact this

/-- A transfer is no message, so it leaves the lifecycle. -/
theorem commitMsg_page5 (h : InHand) (acc : Nat) (x : WithSr) : Holds x.2 (commitMsg { h with page := 5 } acc x).2 := by
  obtain ⟨d, r⟩ := x
  simp only [commitMsg, ne_eq, not_true_eq_false, false_and, if_false, if_true]
  exact (setCounter_same r { h with page := 5 }).holds.trans
    (foldl_holds₂ _ (fun x e => commitSlot_holds _ _ _ _ _ _) h.staged ({ d with inHand := none }, r.setCounter { h with page := 5 }))

theorem commitTransfer_holds (acc : Nat) (x : WithSr) : Holds x.2 (commitTransfer acc x).2 := by
  unfold commitTransfer
  repeat' split
  all_goals first | exact Holds.refl x.2 | exact commitMsg_page5 _ acc x

theorem keyCommit_goes (x : WithSr) : Goes x.2 (keyCommit x).2 := by
  obtain ⟨d, r⟩ := x
  simp only [keyCommit]
  split
  · exact Goes.refl r
  · rename_i acc _
    have hf := foldl_holds₂ (fun x u => commitUnwrap u acc x) (fun x u => commitUnwrap_holds u acc x) d.unwraps
      ({ d with commitAcc := none, unwraps := [] }, r)
    have hf := hf.trans (commitTransfer_holds acc _)
    refine Goes.trans_holds ?_ (stageTransfer_holds _)
    split
    · exact hf.goes
    · split
      · exact hf.trans_goes (commitMsg_goes _ acc _)
      · exact hf.goes

theorem keyCommitNow_goes (x : WithSr) : Goes x.2 (keyCommitNow x).2 := by
  unfold keyCommitNow
  split
  · exact keyCommit_goes x
  · exact Goes.refl _

/-! ### Rebuilds, boots and restarts -/

theorem fillSlots_ind (f : Nat → KeySlot) (P : Sparse KeySlot → Prop) (h0 : P []) (hs : ∀ m n, P m → P (sput m n (f n)))
    (l : List Nat) : P (fillSlots f l) := by
  unfold fillSlots
  suffices h : ∀ m, P m → P (l.foldl (fun m n => if isVirtual n then m else sput m n (f n)) m) from h [] h0
  induction l with
  | nil => exact fun m h => h
  | cons n l ih =>
    intro m hm
    rw [List.foldl_cons]
    refine ih _ ?_
    by_cases hv : isVirtual n = true
    · simpa only [hv, if_true] using hm
    · simpa only [hv, if_false, Bool.false_eq_true] using hs m n hm

theorem fillSlots_swf (f : Nat → KeySlot) (l : List Nat) : swf (fillSlots f l) = true :=
  fillSlots_ind f (fun m => swf m = true) rfl (fun _ _ h => swf_sput h _ _) l

theorem fillSlots_empty (g : Nat) (l : List Nat) (k : Nat) :
    (sget (fillSlots (fun _ => { gen := g }) l) k).empty = true := by
  refine fillSlots_ind (fun _ => { gen := g }) (fun m => (sget m k).empty = true) rfl (fun m n h => ?_) l
  rw [sget_sput]
  split
  · rfl
  · exact h

/-- In DECOMMISSIONED no copy is valid (R555, R580). -/
theorem rebuilt_none (r : Strongroom) (h : r.lifecycle = 4) (n : Nat) : r.rebuilt n = none := by
  simp [Strongroom.rebuilt, Strongroom.activeP, Strongroom.validCopy, h]

theorem rebuildStore_holds (x : WithSr) : Holds x.2 (rebuildStore x).2 := by
  obtain ⟨d, r⟩ := x
  simp only [rebuildStore]
  generalize List.range 512 = l
  refine ⟨fun s => ⟨s.1, fillSlots_swf _ _, fun h4 => ⟨(s.2.2 h4).1, fun n _ _ => ?_⟩⟩, rfl⟩
  simp only [rebuilt_none r h4, Option.getD_none]
  exact fillSlots_empty _ _ n

theorem bootUnit_sr (x : WithSr) : (bootUnit x).2 = (rebuildStore x).2 := by
  unfold bootUnit
  generalize rebuildStore x = y
  rfl

theorem bootUnit_holds (x : WithSr) : Holds x.2 (bootUnit x).2 := by rw [bootUnit_sr]; exact rebuildStore_holds x

theorem powerOn_holds (sideB memOk : Bool) (pg : Option Nat) (x : WithSr) : Holds x.2 (powerOn sideB memOk pg x).2 := by
  unfold powerOn
  cases pg with
  | none => exact Holds.refl _
  | some t => exact bootUnit_holds ({ x.1.poweredOn sideB memOk with now := t }, x.2)

theorem wakeBoot_holds (pg : Option Nat) (x : WithSr) : Holds x.2 (wakeBoot pg x).2 := by
  obtain ⟨d, r⟩ := x
  simp only [wakeBoot]
  split
  · exact Holds.refl r
  · cases pg with
    | none => exact Holds.refl r
    | some t => exact bootUnit_holds (_, r)

theorem lsPgHigh_holds (x : WithSr) : Holds x.2 (lsPgHigh x).2 := by
  unfold lsPgHigh
  dsimp only
  split
  · split
    · exact bootUnit_holds x
    · exact Holds.refl x.2
  · split <;> exact Holds.refl x.2

theorem resumeExternal_holds (x : WithSr) : Holds x.2 (resumeExternal x).2 := by
  unfold resumeExternal
  exact bootUnit_holds (x.1.externalBoot, x.2)

theorem restartComplete_holds (tested : Bool) (x : WithSr) : Holds x.2 (restartComplete tested x).2 := by
  unfold restartComplete
  split
  · exact Holds.refl x.2
  split
  · exact Holds.refl x.2
  · split
    · exact resumeExternal_holds x
    · have := rebuildStore_holds x
      generalize rebuildStore x = y at this ⊢
      exact this

/-! ### The companion -/

theorem startSending_sr (h : Hello) (x : WithSr) : (startSending h x).2 = x.2 := by
  obtain ⟨d, r⟩ := x
  simp only [startSending]
  repeat' split
  all_goals rfl

theorem sendNewer_sr (h : Hello) (x : WithSr) : (sendNewer h x).2 = x.2 := by
  obtain ⟨d, r⟩ := x
  simp only [sendNewer]
  repeat' split
  all_goals rfl

theorem helloReceived_sr (h : Hello) (latency : Nat) (x : WithSr) : (helloReceived h latency x).2 = x.2 := by
  obtain ⟨d, r⟩ := x
  simp only [helloReceived]
  repeat' split
  all_goals first | rfl | exact startSending_sr _ _ | exact sendNewer_sr _ _

theorem takePayload_holds (f : LinkFrame) (x : WithSr) : Holds x.2 (takePayload f x).2 := by
  obtain ⟨d, r⟩ := x
  cases h : f.payload with
  | srMessage m => simpa only [takePayload, h] using peerMessage_holds m (d, r)
  | srVerdict ok => simpa only [takePayload, h] using peerVerdict_holds ok (d, r)
  | srSlots s c iv mac => simpa only [takePayload, h] using takePairSlots_holds s c iv mac (d, r)
  | srBlob t n b => simpa only [takePayload, h] using peerBlob_holds t n b (d, r)
  | srBlobVerdict ok => simpa only [takePayload, h] using peerBlobVerdict_holds ok (d, r)
  | srBlobGo => simpa only [takePayload, h] using blobGo_holds (d, r)
  | _ => simp only [takePayload, h]; exact Holds.refl r

theorem linkFrame_holds (f : LinkFrame) (x : WithSr) : Holds x.2 (linkFrame f x).2 := by
  obtain ⟨d, r⟩ := x
  simp only [linkFrame]
  repeat' split
  all_goals first | exact Holds.refl r | exact takePayload_holds f (_, r)

/-! ### Inbound writes -/

theorem srWord_holds (port page : Nat) (x : WithSr) : Holds x.2 (srWord port page x).2 := by
  unfold srWord
  split
  · exact submitVia_holds _ _ _ x
  · exact replayVia_holds _ _ _ x
  · exact Holds.refl _

theorem goWord_holds (port a v mask : Nat) (image : Option (List Byte)) (x : WithSr) : Holds x.2 (goWord port a v mask image x).2 := by
  unfold goWord
  dsimp only
  repeat' split
  all_goals first | exact Holds.refl _ | exact srWord_holds _ _ x

theorem writeWords_holds (port : Nat) (image : Option (List Byte)) (w : List (Word × Nat)) (a : Nat) (x : WithSr) :
    Holds x.2 (writeWords port image a w x).2 := by
  induction w generalizing a x with
  | nil => exact Holds.refl _
  | cons e r ih =>
    unfold writeWords
    exact (goWord_holds port a _ _ image (x.1.busWord port a e.1.toNat (enabledBits e.2), x.2)).trans (ih (a + 4) _)

theorem registerWrite_holds (port a : Nat) (w : List (Word × Nat)) (image : Option (List Byte)) (x : WithSr) :
    Holds x.2 (registerWrite port a w image x).2 := by
  unfold registerWrite
  split
  · exact Holds.refl _
  · exact writeWords_holds port image w a x

end Sys2Proof.Machine
end

