-- ==== Sys2Proof/WellFormed.lean ====
section
/-! DEFINITION. What can reach the block at all: the shapes that the world outside gives to a command's operands. A command that
breaks one describes nothing that a bus, a medium, a host or a die can do. -/

namespace Sys2Proof

open Sys2Proof.Machine

/-- The part codes of R43 and R427: engines and sequencers, Ethernet ports, CAN and LIN channels, power dies and the blocks. -/
def partForm (p : Nat) : Bool := decide (p < 0xFF)

/-- Each word of an inbound write has four byte enables (R447). -/
def requestForm (w : List (Word × Nat)) : Bool := w.all fun x => decide (x.2 < 16)

/-- What the dies sense names load channels, and temperatures and voltages that their registers can hold (R462, R498). -/
def sensedForm (s : Sensed) : Bool :=
  decide (-128 ≤ s.tempA ∧ s.tempA < 128 ∧ -128 ≤ s.tempB ∧ s.tempB < 128 ∧ s.vbatA < 65536 ∧ s.vbatB < 65536) &&
    (s.currents.all fun e => decide (e.1 < 72)) && (s.clamps.all fun e => decide (e.1 < 72)) && (s.limits.all fun e => decide (e.1 < 72)) && s.chTemps.all fun e => decide (e.1 < 72)

/-- A frame on a CAN bus: its identifier has 11 or 29 bits, and it carries at most 8, 64 or 2,048 data bytes (R229, R234). -/
def canForm (f : CanFrame) : Bool :=
  decide (f.id < (if f.ide then 2 ^ 29 else 2 ^ 11)) && decide (f.data.length ≤ (if f.xlf then 2048 else if f.fdf then 64 else 8)) &&
    (f.rtr || decide (f.data.length = f.len))

/-- A LIN response carries 1 to 8 bytes (R268). -/
def linForm : LinResp → Bool
  | .bytes data _ => decide (1 ≤ data.length ∧ data.length ≤ 8)
  | _ => true

/-- An Ethernet frame on a link has an address pair and a type (R288, R293). -/
def ethForm (f : EthFrame) : Bool := decide (14 ≤ f.bytes.length ∧ f.bytes.length < 65536 ∧ f.nodeId < 256)

/-- A slot of a ring is 32 bytes (R381). -/
def slotForm (s : List Byte) : Bool := s.length == 32

/-- An item of a submission ring takes at least one slot (R389, R399). -/
def itemForm (i : HostRead) : Bool := !i.slots.isEmpty && i.slots.all slotForm

/-- A transport session names J1939 addresses, a priority and a PGN (R209–R211). -/
def ctxForm (t : TpCtx) : Bool := decide (t.mode < 3 ∧ t.pgn < 2 ^ 18 ∧ t.src < 256 ∧ t.dst < 256 ∧ t.prio < 8)

/-- A wake source is an input of the first 32, a CAN channel or a LIN channel (R531). -/
def sourceForm : WakeSource → Bool
  | .static k _ => decide (k < 32)
  | .polled k => decide (k < 32)
  | .canPattern ch => decide (ch < 24)
  | .canFrame ch f => decide (ch < 24) && canForm f
  | .canErrors ch => decide (ch < 24)
  | .lin ch => decide (ch < 16)

/-- The fields of `LS_CMD` (R725). -/
def lsForm (f : LsFields) : Bool := decide (f.kind < 256 ∧ f.target < 256)

/-- Is a command one that can reach the block? -/
def Instr.wf : Instr → Bool
  | .powerOnReset _ _ _ => true
  | .externalReset _ _ => true
  | .devReset _ _ _ => true
  | .sealSetup _ _ key later => requestForm ((key, 15) :: later)
  | .registerWrite _ _ _ words _ => requestForm words
  | .sideEffectRead _ _ _ _ => true
  | .readDelivery _ _ _ => true
  | .transitCountLo _ _ => true
  | .tdNowSecLo _ _ _ => true
  | .rxOctets _ _ _ _ => true
  | .srCommitLo _ _ _ => true
  | .accNowLo _ _ => true
  | .faultLastLo _ _ => true
  | .pairTakeoverLo _ _ => true
  | .lsApplyLo _ _ => true
  | .ledgerData0 _ _ => true
  | .receiveFolioRead _ _ _ => true
  | .folioLockExpiry _ _ => true
  | .transitBoundary _ sensed => sensedForm sensed
  | .sleepCommit _ => true
  | .parkEntry _ => true
  | .wakeLatch _ source => sourceForm source
  | .parkPoll _ levels => (levels.all fun k => decide (k < 32)) && decide levels.Nodup
  | .parkTimer _ => true
  | .wakeBoot _ _ => true
  | .linWakeRepeat _ _ => true
  | .lengthChangeSwitch _ => true
  | .latchCut _ bytes => decide (bytes < 1048576)
  | .deltaComplete _ => true
  | .commitStrobe _ _ => true
  | .writeBack _ _ _ => true
  | .dispatch _ _ => true
  | .carryOver _ => true
  | .add _ _ _ _ => true
  | .and _ _ _ _ => true
  | .shl _ _ _ _ => true
  | .cmp _ _ _ => true
  | .mov _ _ _ => true
  | .lui _ _ _ => true
  | .mul _ _ _ _ => true
  | .div _ _ _ _ => true
  | .bfx _ _ _ _ _ => true
  | .bfi _ _ _ _ _ => true
  | .clz _ _ _ => true
  | .popc _ _ _ => true
  | .bswap _ _ _ => true
  | .crcb _ _ _ _ _ => true
  | .ld _ _ _ _ _ => true
  | .st _ _ _ _ _ => true
  | .b _ _ _ _ => true
  | .j _ _ => true
  | .call _ _ => true
  | .ret _ => true
  | .sgx _ _ _ _ => true
  | .sgp _ _ _ _ => true
  | .sgl _ _ _ _ => true
  | .endItem _ _ code => code.all fun n => decide (n < 256)
  | .pktRead _ _ _ _ _ => true
  | .pktNew _ _ _ => true
  | .pktAppend _ _ builder _ _ => decide (builder < 4)
  | .pktCommit _ _ builder _ _ => decide (builder < 4)
  | .pktForward _ _ _ => true
  | .pktEdit _ _ _ => true
  | .acfNext _ _ _ => true
  | .folioPut _ _ builder _ _ _ => (match builder with | some x => decide (x < 4) | none => true)
  | .folioState _ _ _ _ => true
  | .outCmd _ _ => true
  | .event _ _ _ _ => true
  | .recTrigger _ _ => true
  | .cipher _ _ => true
  | .macTx _ _ _ _ => true
  | .macRx _ _ _ _ => true
  | .catRead _ _ _ _ => true
  | .tpOpen _ _ ctx => ctxForm ctx
  | .tpData _ _ _ => true
  | .tpClose _ _ _ => true
  | .tpReply _ _ _ _ _ => true
  | .tpSegment _ _ _ _ _ _ => true
  | .tpAbort _ _ _ => true
  | .tpExpired _ _ _ => true
  | .timeNow _ _ => true
  | .syncFeed _ _ => true
  | .occultation _ _ => true
  | .setTime _ _ _ => true
  | .acceptStep _ _ _ => true
  | .canRxFrame t _ frame _ _ sof _ => canForm frame && decide (sof ≤ t)
  | .refill _ _ => true
  | .spanClose _ => true
  | .classification _ => true
  | .livenessTimeout _ _ => true
  | .canArbitration _ _ => true
  | .canTxEnd t _ _ _ _ sof => decide (sof ≤ t)
  | .recover _ _ _ => true
  | .recoveryComplete _ _ => true
  | .expire _ _ _ => true
  | .linSlot _ _ => true
  | .linResponse _ _ resp _ => linForm resp
  | .linHeader t _ _ _ _ brk => decide (brk ≤ t)
  | .linPublishUpdate _ _ => true
  | .linTableSwitch _ _ _ _ => true
  | .ethRxFrame t _ frame sof _ => ethForm frame && decide (sof ≤ t)
  | .transmitOpportunity _ _ => true
  | .stampReport _ _ => true
  | .windowEdge _ _ _ => true
  | .launchTime _ _ _ => true
  | .linkChange _ _ _ _ _ => true
  | .plcaBeacon _ _ => true
  | .plcaOpportunity _ _ => true
  | .beaconLoss _ _ => true
  | .doorbell _ _ _ _ _ => true
  | .doorbellArm _ _ _ _ => true
  | .ringReset _ _ _ _ _ => true
  | .hostPortReset _ _ _ _ => true
  | .descriptorFetch _ _ _ item => itemForm item
  | .txFrame _ _ _ => true
  | .txFolio _ _ _ => true
  | .cancel _ _ _ => true
  | .rxBuf _ _ _ slot => slotForm slot
  | .outCmdDescriptor _ _ _ => true
  | .recTriggerCommand _ _ _ => true
  | .recReadout _ _ _ => true
  | .recRelease _ _ _ => true
  | .table _ _ _ => true
  | .indirect _ _ _ => true
  | .clearBlocked _ _ _ => true
  | .clearRedLatch _ _ _ => true
  | .writeFilter _ _ _ words => decide (words.length = 2)
  | .writeMeter _ _ _ words => decide (words.length = 4)
  | .installTransmitSa _ _ _ => true
  | .installReceiveSa _ _ _ => true
  | .removeSa _ _ _ => true
  | .setTxAn _ _ _ => true
  | .addReceiveChannel _ _ _ => true
  | .removeReceiveChannel _ _ _ => true
  | .tblWriteOrInsert _ _ _ _ => true
  | .tblReadOrLookup _ _ _ _ => true
  | .tblInvalidateOrDelete _ _ _ _ => true
  | .receiveDelivery _ _ _ => true
  | .ringStarved _ _ _ => true
  | .encrypt _ _ => true
  | .decrypt _ _ => true
  | .macGenerate _ _ => true
  | .macVerify _ _ => true
  | .unwrap _ _ => true
  | .sign _ _ => true
  | .submit _ _ _ len => decide (len ≤ 511)
  | .replayProof _ _ _ _ => true
  | .keyCommitBoundary _ => true
  | .scrub _ slot => decide (slot < 512)
  | .backoffExpiry _ _ => true
  | .maskedFault _ part cause inst _ => partForm part && decide (cause < 256 ∧ inst < 65536)
  | .repair _ => true
  | .withdrawal _ part cause inst _ _ => partForm part && decide (cause < 256 ∧ inst < 65536)
  | .restartComplete _ _ => true
  | .faultInject _ _ _ _ => true
  | .pin _ _ => true
  | .unpin _ _ => true
  | .clearOverflow _ _ => true
  | .gateClose _ part _ => partForm part
  | .holdLimitExpiry _ part => partForm part
  | .staleReply _ slip => partForm slip.target
  | .dmaTimeout _ _ _ _ _ => true
  | .collectTimeout _ _ _ => true
  | .serialRelease _ _ _ => true
  | .shortTrip _ _ _ ma _ => decide (ma < 65536)
  | .overcurrentTrip _ _ ma _ => decide (ma < 6553600)
  | .inrushWindowEnd _ _ _ ma _ => decide (ma < 65536)
  | .temperatureTrip _ _ ma _ => decide (ma < 65536)
  | .retry _ _ _ => true
  | .fwFault _ _ => true
  | .openLoad _ _ => true
  | .offFault _ _ _ => true
  | .hold _ _ => true
  | .holdWindowEnd _ _ => true
  | .crank _ _ _ => true
  | .lowSeen _ _ _ _ => true
  | .reservoirExhausted _ _ => true
  | .lsPgTimeout _ => true
  | .debouncedChange _ _ levels => levels.all fun r => decide (1 ≤ r.2)
  | .chatter _ _ levels => levels.all fun r => decide (1 ≤ r.2)
  | .chatterExit _ _ levels => levels.all fun r => decide (1 ≤ r.2)
  | .stuck _ _ => true
  | .inputSample _ _ _ _ => true
  | .hello _ h _ => decide (h.identity.length = 16)
  | .linkFrame _ frame => decide (frame.seq < 2 ^ 32 ∧ frame.acked < 2 ^ 32 ∧ frame.transit < 2 ^ 32)
  | .retransmit _ => true
  | .linkLost .. => true
  | .heartbeatChange _ _ => true
  | .soloWait _ => true
  | .withdrawalNotice _ acc _ => decide (acc < 2 ^ 48)
  | .takeover _ => true
  | .yields _ => true
  | .resynchronisationComplete _ => true
  | .departure _ _ _ => true
  | .gapFill _ => true
  | .store _ _ fields _ => lsForm fields
  | .verify _ _ fields => lsForm fields
  | .activate _ _ fields => lsForm fields
  | .abort _ _ fields => lsForm fields
  | .quiesce _ _ fields => lsForm fields
  | .resume _ _ fields => lsForm fields
  | .length _ _ fields => lsForm fields
  | .applyBoundary _ => true
  | .configurationRequest _ _ _ _ => true
  | .hostPortLinkUp _ _ => true
  | .busIntegration _ _ => true
  | .lsPgHigh _ => true
  | .rstNRelease _ => true

end Sys2Proof
end

