-- ==== Sys2Proof/Tests/Slice0.lean ====
section
/-! SUPPORT. The author's tests: a term for each well-formedness check that the check refuses, worked values from the spec, and for each
statement with hypotheses a state and operands that meet them. -/

namespace Sys2Proof.Tests

open Sys2Proof Sys2Proof.Machine

/-! ### Well-formedness -/

theorem test_wf_accepts_an_instruction : (Instr.add 0 1 2 (.imm 3)).wf = true := by decide
theorem test_wf_refuses_a_seal_with_wide_byte_enables : (Instr.sealSetup 0 0 0x5EA1 [(0, 16)]).wf = false := by decide
theorem test_wf_refuses_wide_byte_enables : (Instr.registerWrite 0 0 0x20 [(0, 16)] none).wf = false := by decide
theorem test_wf_refuses_a_current_of_channel_72 : (Instr.transitBoundary 0 { currents := [(72, 0)] }).wf = false := by decide
theorem test_wf_refuses_an_unknown_wake_input : (Instr.wakeLatch 0 (.static 32 0)).wf = false := by decide
theorem test_wf_refuses_a_run_of_no_sample : (Instr.chatter 0 3 [(5000, 0)]).wf = false := by decide
theorem test_wf_refuses_a_polled_input_twice : (Instr.parkPoll 0 [1, 1]).wf = false := by decide
theorem test_wf_refuses_a_delta_beyond_1_mib : (Instr.latchCut 0 1048576).wf = false := by decide
theorem test_wf_refuses_a_wide_status : (Instr.endItem 0 0 (some 256)).wf = false := by decide
theorem test_wf_refuses_a_fifth_builder :
    (Instr.pktAppend 0 0 4 0 0).wf = false ∧ (Instr.folioPut 0 0 (some 4) 0 0 false).wf = false := by decide
theorem test_wf_refuses_a_wide_pgn : (Instr.tpOpen 0 0 { pgn := 262144 }).wf = false := by decide
theorem test_wf_refuses_a_long_base_identifier :
    (Instr.canRxFrame 9 0 { id := 0x800, dlc := 0, len := 0, data := [] } .good false 0 false).wf = false := by decide
theorem test_wf_refuses_a_frame_from_the_future :
    (Instr.canRxFrame 9 0 { id := 1, dlc := 0, len := 0, data := [] } .good false 10 false).wf = false := by decide
theorem test_wf_refuses_an_empty_lin_response : (Instr.linResponse 0 0 (.bytes [] 0) false).wf = false := by decide
theorem test_wf_refuses_a_break_after_its_header : (Instr.linHeader 5 0 0 0 0 6).wf = false := by decide
theorem test_wf_refuses_a_short_ethernet_frame : (Instr.ethRxFrame 0 0 { bytes := List.replicate 13 0 } 0 false).wf = false := by decide
theorem test_wf_refuses_an_item_without_slots : (Instr.descriptorFetch 0 0 0 { slots := [] }).wf = false := by decide
theorem test_wf_refuses_a_short_slot : (Instr.rxBuf 0 0 0 (List.replicate 31 0)).wf = false := by decide
theorem test_wf_refuses_a_filter_of_one_word : (Instr.writeFilter 0 (.reg 0) 0 [0]).wf = false := by decide
theorem test_wf_refuses_a_meter_of_one_word : (Instr.writeMeter 0 (.reg 0) 0 [0]).wf = false := by decide
theorem test_wf_refuses_a_long_message : (Instr.submit 0 0 0 512).wf = false := by decide
theorem test_wf_refuses_slot_512 : (Instr.scrub 0 512).wf = false := by decide
theorem test_wf_refuses_part_255 : (Instr.gateClose 0 0xFF []).wf = false := by decide
theorem test_wf_refuses_a_wide_cause : (Instr.maskedFault 0 0 256 0 0).wf = false := by decide
theorem test_wf_refuses_a_wide_current : (Instr.overcurrentTrip 0 0 6553600 0).wf = false := by decide
theorem test_wf_refuses_a_short_identity : (Instr.hello 0 { identity := [] } 0).wf = false := by decide
theorem test_wf_refuses_a_wide_accession_number : (Instr.withdrawalNotice 0 (2 ^ 48) 0).wf = false := by decide
theorem test_wf_refuses_a_wide_live_target : (Instr.verify 0 0 { target := 256 }).wf = false := by decide
theorem test_wf_refuses_a_store_for_a_wide_target : (Instr.store 0 0 { target := 256 } none).wf = false := by decide

/-! ### No row of the table has bits -/

theorem test_no_word_spells_a_command : decodeTableWord 32 0xDEADBEEF = none := by decide
theorem test_fetch_word_changes_nothing : State.reset.withFetchWord 8 1 = State.reset := by rfl

/-! ### Worked values -/

/-- Leading zeros at both ends (R197). -/
theorem test_leading_zeros : leadingZeros 1 = 31 ∧ leadingZeros 0 = 32 := by decide
theorem test_byte_swap : byteSwap 0x11223344 = 0x44332211 := by decide
theorem test_bit_field_is_cut_at_bit_31 : bitField 0x80000001 31 4 = 1 := by decide
theorem test_divide_by_zero : divide 7 0 = (0, true) := by decide
/-- The walk of a big-endian signal of 12 bits from bit 3 of byte 0: 3, 2, 1, 0, then 15 down to 8 (R202). -/
theorem test_big_endian_walk : bigWalk 12 3 = [3, 2, 1, 0, 15, 14, 13, 12, 11, 10, 9, 8] := by decide
/-- (100 × 3) >> 1, plus 7, into an unsigned target of 8 bits: 157 (R204). -/
theorem test_conversion :
    convert 100 [3, 0, 1, 0, 7, 0, 0, 0, 0, 0, 0, 7, 0, 0, 0, 0] = (157, false) := by decide
/-- The same with 200: 307 saturates at 255 and says so. -/
theorem test_conversion_saturates :
    convert 200 [3, 0, 1, 0, 7, 0, 0, 0, 0, 0, 0, 7, 0, 0, 0, 0] = (255, true) := by decide
theorem test_accession_wraps : accBefore (2 ^ 48 - 1) 0 = true ∧ accBefore 0 (2 ^ 48 - 1) = false := by decide
theorem test_lin_parity_of_the_go_to_sleep_frame : linPid 0x3C = 0x3C ∧ linPid 0x3D = 0x7D := by decide
/-- A base frame goes before an extended frame with the same first 11 bits, and a data frame before its remote frame (R248). -/
theorem test_arbitration_fields :
    arbField { id := 5, dlc := 0, len := 0, data := [] } < arbField { id := 5, rtr := true, dlc := 0, len := 0, data := [] } ∧
    arbField { id := 5, rtr := true, dlc := 0, len := 0, data := [] } <
      arbField { id := 5 * 262144, ide := true, dlc := 0, len := 0, data := [] } := by decide
/-- `DEV_ID.PART` reads 0x2460 (R746). -/
theorem test_part_number : bitsOf (regGet State.reset.dev.kept.regs R.DEV_ID []) 31 16 = 0x2460 := by decide
/-- Bits of a W1C field written 1 clear (R9). -/
theorem test_write_one_clears : writeField 0b0110 allBits 0b1111 ⟨3, 0, .w1c, 0, none⟩ = 0b1001 := by decide
theorem test_counter_saturates :
    ((State.reset.dev.wr F.SEAL_DROPS_COUNT [] 0xFFFFFFFF).bump F.SEAL_DROPS_COUNT).rd F.SEAL_DROPS_COUNT = 0xFFFFFFFF := by decide

/-! ### States for the witnesses -/

/-- A running device whose port 0 has its BARs. -/
def runs : State :=
  { State.reset with dev := { State.reset.dev with mode := .run, pcie := [(0, { bar0 := some 0, bar2 := some 0, bar4 := some 0 })] } }

/-- A running device whose core 0 has an item, code of 64 bytes and the first shared word. -/
def busy : State :=
  runs.withDev (runs.dev.modCore 0 fun k =>
    { k with busy := some { entry := 7 }, image := { col := { codeLen := 64, svFirst := 0, svCount := 1 } } })

theorem busy_ready (n : Nat) : busy.dev.ready 0 n := by
  refine ⟨by decide, { entry := 7 }, by decide, by decide, by decide, ?_⟩
  intro e h
  have : busy.dev.entry 7 = none := rfl
  rw [this] at h
  cases h

/-- The running device with one register field set. -/
def runsWith (f : Fld) (ix : List Nat) (v : Nat) : State := runs.withDev (runs.dev.wr f ix v)

/-! ### Witnesses -/

theorem witness_idle : State.reset.pending = [] := rfl
theorem witness_no_store_write : strongroomCommand (.j 0 0) = false ∧ exec (.j 0 0) State.reset = .next State.reset := by
  exact ⟨rfl, rfl⟩
theorem witness_step_from_a_sound_state : State.reset.Sound ∧ step State.reset = .next State.reset :=
  ⟨⟨by decide, rfl, fun h => absurd h (by decide)⟩, rfl⟩

/-- A decommissioned unit. -/
def retired : State := { State.reset with sr := { lifecycle := 4, blown := true } }
theorem witness_decommissioned : retired.Sound ∧ retired.sr.lifecycle = 4 ∧ step retired = .next retired :=
  ⟨⟨by decide, rfl, fun _ => ⟨rfl, fun _ _ _ => rfl⟩⟩, rfl, rfl⟩

/-- `EngineArithmetic`, `EngineBitOperations`, `EngineCompare`, `EngineDivide` and the two clauses of `EngineMultiply`. -/
theorem witness_core_executes : busy.dev.ready 0 1 ∧ busy.dev.ready 0 3 ∧ busy.dev.ready 0 20 ∧
    (4 : GReg).val % 2 = 0 ∧ (5 : GReg).val % 2 = 1 := ⟨busy_ready 1, busy_ready 3, busy_ready 20, by decide, by decide⟩
theorem witness_product_readings_agree : (3 : Word).toNat * (5 : Word).toNat = ((3 : Word).toInt * (5 : Word).toInt) % 2 ^ 64 := by decide
theorem witness_divisors : (busy.dev.core 0).src (.imm 0) = 0 ∧ (busy.dev.core 0).src (.imm 3) ≠ 0 ∧
    ((busy.dev.core 0).get 1).udiv ((busy.dev.core 0).src (.imm 3)) = ((busy.dev.core 0).get 1).sdiv ((busy.dev.core 0).src (.imm 3)) := by
  decide
theorem witness_bits : (31 : Nat) < 32 ∧ (1 : Word) ≠ 0 ∧ (0 ≤ 31 ∧ 31 < 0 + 32) ∧ (3 : Nat) < 4 ∧ (7 : Nat) < 8 := by decide

/-- The last bytes of data memory and of the shared variable area, read by a word and by a pair (`EngineLoad`). -/
theorem witness_loads :
    (busy.dev.ready 0 (if region 0 ((busy.dev.core 0).get 0 + 0x1007FFFC#32).toNat 4 = .shared then 4 else 2) ∧
      region 0 ((busy.dev.core 0).get 0 + 0x1007FFFC#32).toNat 4 = .dmem ∧ ((busy.dev.core 0).get 0 + 0x1007FFFC#32).toNat % 4 = 0) ∧
    (busy.dev.ready 0 (if region 0 ((busy.dev.core 0).get 0 + 0x3000FFF8#32).toNat 8 = .shared then 4 else 2) ∧
      region 0 ((busy.dev.core 0).get 0 + 0x3000FFF8#32).toNat 8 = .shared ∧ ((busy.dev.core 0).get 0 + 0x3000FFF8#32).toNat % 8 = 0 ∧
      (6 : GReg).val % 2 = 0) :=
  ⟨⟨busy_ready _, by decide, by decide⟩, busy_ready _, by decide, by decide, by decide⟩
theorem witness_stores :
    (busy.dev.ready 0 1 ∧ region 0 ((busy.dev.core 0).get 0 + 0x1007FFF8#32).toNat (szBytes .dword) = .dmem ∧
      ((busy.dev.core 0).get 0 + 0x1007FFF8#32).toNat % szBytes .dword = 0 ∧ (6 : GReg).val % 2 = 0) ∧
    (busy.dev.ready 0 2 ∧ region 0 ((busy.dev.core 0).get 0 + 0x30000004#32).toNat 4 = .shared ∧
      ((busy.dev.core 0).get 0 + 0x30000004#32).toNat % 4 = 0 ∧
      (busy.dev.core 0).image.col.svFirst ≤ (((busy.dev.core 0).get 0 + 0x30000004#32).toNat - 0x30000000) / 8 ∧
      (((busy.dev.core 0).get 0 + 0x30000004#32).toNat - 0x30000000) / 8 <
        (busy.dev.core 0).image.col.svFirst + (busy.dev.core 0).image.col.svCount) :=
  ⟨⟨busy_ready 1, by decide, by decide, by decide⟩, busy_ready 2, by decide, by decide, by decide, by decide⟩
theorem witness_call : busy.dev.ready 0 2 ∧ 4 * ((busy.dev.core 0).stack.length + 1) ≤ (busy.dev.core 0).scratch 0 :=
  ⟨busy_ready 2, by decide⟩

/-- The busy core inside a call. -/
def called : State := busy.withDev (busy.dev.modCore 0 fun k => { k with stack := [8] })
theorem witness_return : called.dev.ready 0 2 ∧ (called.dev.core 0).stack = [8] := by
  refine ⟨⟨by decide, { entry := 7 }, by decide, by decide, by decide, ?_⟩, by decide⟩
  intro e h
  have : called.dev.entry 7 = none := rfl
  rw [this] at h
  cases h
theorem witness_registers : (1 : GReg) ≠ 0 ∧ (2 : GReg) ≠ 1 := by decide
theorem witness_idle_core : State.reset.dev.coreBusy 0 = false := by decide

/-- Bit 4,095 upward: a signal of one bit; and one of 64 bits in big-endian order (`SignalBitPositions`). -/
theorem witness_signal_orders : sigOrder 0x00000FFF = false ∧ 0 < sigLen 0x00000FFF ∧ sigOrder 0xBF000007 = true ∧ sigLen 0xBF000007 = 64 ∧
    busy.dev.sigByte 0 0x10000000 ((sigBits 0x00000FFF).getD 0 0 / 8) = some 0 := by decide
/-- A signal of 64 bits from data memory into a pair, and of 8 bits from the packet window (`SignalExtract`). -/
theorem witness_extract :
    (busy.dev.ready 0 5 ∧ sigLen ((busy.dev.core 0).src (.imm 0x3F000000)) = 64 ∧ (2 : GReg).val % 2 = 0) ∧ region 0 0x10000000 1 = .dmem ∧
    region 0 0x200000FF 1 = .window := ⟨⟨busy_ready 5, by decide, by decide⟩, by decide, by decide⟩
theorem witness_delivery : 0 < 33 ∧ 33 ≤ 64 ∧ 5 < 2 ^ 33 ∧ (2 : GReg) ≠ 0 ∧ (2 : GReg).val % 2 = 0 ∧ (4 : GReg) ≠ 2 ∧ (4 : GReg).val ≠ (2 : GReg).val + 1 ∧
    5 < 2 ^ 32 := by decide

/-- The busy core with data memory's address in register 1. -/
def aimed : State := busy.withDev (busy.dev.modCore 0 fun k => k.set 1 0x10000000)
theorem aimed_ready (n : Nat) : aimed.dev.ready 0 n := by
  refine ⟨by decide, { entry := 7 }, by decide, by decide, by decide, ?_⟩
  intro e h
  have : aimed.dev.entry 7 = none := rfl
  rw [this] at h
  cases h
theorem witness_pack : aimed.dev.ready 0 5 ∧ (2 : GReg).val % 2 = 0 ∧
    ∀ p ∈ sigBits ((aimed.dev.core 0).src (.imm 0x3F000000)), inDmem 0 (((aimed.dev.core 0).get 1).toNat + p / 8) 1 = true :=
  ⟨aimed_ready 5, by decide, by decide⟩
/-- A pair of 64 bits and a signal of 8 bits (`SignalPackCompletes`). -/
theorem witness_pack_completes :
    (aimed.dev.ready 0 5 ∧ sigLen ((aimed.dev.core 0).src (.imm 0x3F000000)) = 64 ∧ (2 : GReg).val % 2 = 0 ∧
      ∀ p ∈ sigBits ((aimed.dev.core 0).src (.imm 0x3F000000)), inDmem 0 (((aimed.dev.core 0).get 1).toNat + p / 8) 1 = true) ∧
    (aimed.dev.ready 0 3 ∧ sigLen ((aimed.dev.core 0).src (.imm 0x07000000)) = 8 ∧
      ∀ p ∈ sigBits ((aimed.dev.core 0).src (.imm 0x07000000)), inDmem 0 (((aimed.dev.core 0).get 1).toNat + p / 8) 1 = true) :=
  ⟨⟨aimed_ready 5, by decide, by decide, by decide⟩, aimed_ready 3, by decide, by decide⟩
theorem witness_convert : aimed.dev.ready 0 6 ∧ inDmem 0 ((aimed.dev.core 0).get 1).toNat 16 = true ∧
    bitAt (byteAt (aimed.dev.dmemBytes 0 ((aimed.dev.core 0).get 1).toNat 16) 3) 1 = false ∧
    sigLen (BitVec.ofNat 32 (ofLe (slice (aimed.dev.dmemBytes 0 ((aimed.dev.core 0).get 1).toNat 16) 8 4))) = 1 :=
  ⟨aimed_ready 6, by decide, by decide, by decide⟩
theorem witness_end : busy.dev.ready 0 2 ∧ ¬((3 : Nat) = 0 ∨ (3 : Nat) = 0x12 ∨ (busy.dev.core 0).codes.contains 3 = true) :=
  ⟨busy_ready 2, by decide⟩

/-- One field of each access code, the whole word and the highest bit. -/
theorem witness_fields :
    (0xFFFFFFFF < 2 ^ 32 ∧ (0 : Nat) ≤ 31 ∧ 31 < 32) ∧ (⟨31, 31, .rw, 0, none⟩ : FieldDef).acc = .rw ∧
    (⟨7, 0, .rw, 0, some (1, 9)⟩ : FieldDef).valid = some (1, 9) ∧ (⟨31, 0, .w1c, 0, none⟩ : FieldDef).acc = .w1c ∧
    (⟨31, 0, .rc, 0, none⟩ : FieldDef).acc = .rc := by decide
theorem witness_counters : F.SEAL_DROPS_COUNT.lo ≤ F.SEAL_DROPS_COUNT.hi ∧ F.SEAL_DROPS_COUNT.hi < 32 ∧
    regKey F.SEAL_KEY.reg [] ≠ regKey F.SEAL_DROPS_COUNT.reg [] := by decide
theorem witness_register_of_the_map : R.DEV_ID ∈ regTable ∧ R.DEV_ID.var = .none ∧ (⟨31, 16, .ro, 0x2460, none⟩ : FieldDef) ∈ R.DEV_ID.fields :=
  ⟨List.mem_append_left _ (by simp [regTable0]), rfl, by decide⟩

/-- A sealed device, and a setup register that the seal covers: `TRANSIT_CFG` (`TheSeal`). -/
def sealedDevice : State := runsWith F.BOOT_STATUS_SEALED [] 1
theorem witness_seal : runs.dev.runs = true ∧ runs.dev.barsOn 0 = true ∧ sealedDevice.dev.runs = true ∧ (sealedDevice.dev.atTime 1).sealed = true ∧
    (sealedDevice.dev.atTime 1).served 0 R.TRANSIT_CFG.base = true ∧ inBar2 R.TRANSIT_CFG.base = false ∧
    (regAt ((sealedDevice.dev.atTime 1).place R.TRANSIT_CFG.base)).isSome = true ∧ sealedOff R.TRANSIT_CFG.base = true ∧
    R.TRANSIT_CFG.base % 4 = 0 := by decide
theorem witness_resets : ((runs.dev.atTime 1).mode = .run ∧ (runs.dev.atTime 1).livePort 0 = true ∧ 0xD0E5 % 65536 = 0xD0E5) ∧
    (runs.dev.atTime 1).livePort 1 = false ∧ ({ runs.dev with mode := .halted }.atTime 1).mode = .halted := by decide
theorem witness_accession : 2 ^ 48 - 1 < 2 ^ 48 ∧ 2 ^ 47 - 1 < 2 ^ 47 ∧ 0 < 2 ^ 47 - 1 := by decide

/-- A device whose ledger's entry 1 is selected, and 1,023 or 1,024 others are pinned. -/
def withLedger (l : List (Nat × LedgerEntry)) : State := runs.withDev { (runs.dev.wr F.LEDGER_SEL_INDEX [] 1) with ledger := l }
theorem witness_pin : (withLedger [(1, { used := true })]).dev.runs = true ∧ (withLedger [(1, { used := true })]).dev.diagPort 0 = true ∧
    (withLedger [(1, { used := true })]).dev.rd F.LEDGER_SEL_INDEX = 1 ∧ (sget (withLedger [(1, { used := true })]).dev.ledger 1).used = true ∧
    (withLedger [(1, { used := true })]).dev.pinnedByDriver < 1024 := by decide
theorem witness_pin_refused :
    let l := (1, { used := true }) :: (List.range 1024).map fun i => (i + 2, { used := true, pinned := true })
    (withLedger l).dev.runs = true ∧ (withLedger l).dev.rd F.LEDGER_SEL_INDEX = 1 ∧ (sget (withLedger l).dev.ledger 1).pinned = false ∧
    (withLedger l).dev.pinnedByDriver = 1024 := by
  refine ⟨by decide, by decide, by decide, ?_⟩
  simp [withLedger, State.withDev, Dev.pinnedByDriver, List.filter_map, Function.comp_def]
theorem witness_unpin_refused : (sget (withLedger [(1, { used := true, cls := 1 })]).dev.ledger 1).cls = 1 ∧
    (sget (withLedger [(1, { used := true, cls := 1 })]).dev.ledger 1).handled = false := by decide

/-- A device with a draining gate of part 0x10. -/
def draining : State := runs.withDev (runs.dev.modGate 0x10 fun g => { g with st := 1 })
theorem witness_gate : draining.dev.runs = true ∧ ((draining.dev.atTime 1).gate 0x10).st = 1 ∧ (0x10 < 0x80 ∨ 0x83 < 0x10) ∧
    ((draining.dev.atTime 1).gate 0x11).st ≠ 1 := by decide

/-- A device with an almanac of one entry, an item of it and a later one in the queue of core 0, which is idle. -/
def queued : State :=
  let d := runs.dev.setCoreState 0 1
  let d := { d with alm := some { entries := [{ id := 7, kind := 1, resource := 0, cls := 1, costItem := 100 }] } }
  runs.withDev (d.modCore 0 fun k =>
    { k with queue := [{ entry := 7, cls := .control, acc := 5 }, { entry := 7, cls := .control, acc := 4 }],
             image := { col := { codeLen := 64 }, body := .core [] [] [(7, 16)] } })
theorem witness_dispatch :
    let it : Item := { entry := 7, cls := .control, acc := 4 }
    let d := queued.dev.atTime 1
    d.runs = true ∧ d.coreState 0 = 1 ∧ (d.core 0).busy = none ∧ (∀ j ∈ (d.core 0).queue, d.kept.transit ≤ j.elig) ∧
    it ∈ (d.core 0).queue ∧ d.canStart 0 it = true ∧
    (∀ j ∈ (d.core 0).queue, d.canStart 0 j = true → j ≠ it → it.before j = true ∧ j.before it = false) ∧
    (imgTable (d.core 0).image).find? (fun x => x.1 == it.entry) = some (7, 16) := by decide

/-- A CAN channel that sends, with two folios of one identifier pending. -/
def pendingFolios : State :=
  let d := { ((runs.dev.wr F.CAN_CFG_ENABLE [0] 1).wr F.CAN_STATUS_STATE [0] 0) with alm := some {} }
  runs.withDev (((d.modFolio 0 9 fun f => { f with st := 1, data := List.replicate 16 0 })).modFolio 0 3 fun f =>
    { f with st := 1, data := List.replicate 16 0 })
theorem witness_arbitration : (pendingFolios.dev.atTime 1).canSends 0 = true ∧ (pendingFolios.dev.atTime 1).txFolio 0 = none ∧
    (pendingFolios.dev.atTime 1).bestFolio 0 = some 3 := by decide

theorem witness_latch_cut : (runs.dev.atTime 0).runs = true ∧ (runs.dev.atTime 0).now < (runs.dev.atTime 0).point 1000 ∧
    (runs.dev.atTime 48829).cutDone = false ∧ (runs.dev.atTime 48829).point 1000 ≤ (runs.dev.atTime 48829).now ∧
    240325 ≤ deltaCapacity (runs.dev.atTime 48829).len 1000 := by decide
/-- The delta capacity M(L) of R672 at 25, 50 and 100 µs. -/
theorem test_delta_capacity : deltaCapacity 25000 1000 = 120163 ∧ deltaCapacity 50000 1000 = 240325 ∧ deltaCapacity 100000 1000 = 262144 := by
  decide
/-- A device at its latch cut. -/
def cutMade : State := runs.withDev { runs.dev with cutDone := true, cut := some runs.dev.kept }
theorem witness_delta : (cutMade.dev.atTime 1).runs = true ∧ (cutMade.dev.atTime 1).cutDone = true ∧ (cutMade.dev.atTime 1).mirrors = false ∧
    (cutMade.dev.atTime 1).follows = false ∧ (cutMade.dev.atTime 1).deltaDone = false := by decide

/-- A halted device. -/
def halted : State := runs.withDev { runs.dev with mode := .halted, tickLen := 50000 }
theorem witness_tick : halted.dev.mode ≠ .run ∧ halted.dev.mode ≠ .bootHeld ∧ halted.dev.mode ≠ .park ∧ halted.dev.tickOk 50000 = true ∧
    halted.dev.tickOk 0 = false := by decide
theorem witness_time : (default : Seg).loc0 ≤ 0 := by decide

/-- A device with an enabled command ring 0 of 8 slots of tenant 0 on port 0, whose link is up. -/
def ringed : State :=
  let d := (((runs.dev.wr F.RING_CFG_A_KIND [0, 0] 3).wr F.RING_CFG_A_SIZE_LOG2 [0, 0] 3).wr F.RING_CTL_ENABLE [0, 0] 1).wr F.HOST_PORT_ENABLE [0] 1
  runs.withDev (d.wr F.HOST_PORT_LINK_UP [0] 1)
theorem witness_doorbell :
    let d := ringed.dev.atTime 1
    d.runs = true ∧ d.portOf 0 = 0 ∧ d.portOf 0 ≠ 1 ∧ d.serves 0 = true ∧ d.quiet = false ∧ d.ringOn 0 0 = true ∧ d.ringStalled 0 0 = false ∧
    d.barsOn 0 = true ∧ isSubmission (d.ringKind 0 0) = true ∧ d.ringSize 0 0 = 8 ∧ (d.ring 0 0).head = 0 ∧ (d.ring 0 0).tail = 0 := by decide
theorem witness_doorbell_indices : ((7 : Nat) < 8 ∧ (0 + 8 - 0) % 8 ≤ (7 + 8 - 0) % 8) ∧ ¬((8 : Nat) < 8 ∧ (0 + 8 - 0) % 8 ≤ (8 + 8 - 0) % 8) := by decide

theorem witness_submit : exec (.submit 0 0 0 0) State.reset = .next (State.reset.withDev (State.reset.dev.atTime 0)) := rfl
/-- A device with a message in hand. -/
def inHand : State := runs.withDev { runs.dev with inHand := some {} }
theorem witness_mailbox : (inHand.dev.atTime 1).runs = true ∧ (inHand.dev.atTime 1).mailOk 0 0 = true ∧ (inHand.dev.atTime 1).inHand.isSome = true := by
  decide
theorem witness_replay : (runs.dev.atTime 1).runs = true ∧ (runs.dev.atTime 1).mailOk 0 0 = true ∧ runs.sr.lifecycle ≠ 4 := by decide
/-- A DECOMMISSIONED device with a lifecycle message of 80 bytes in mailbox page 0 (R565). -/
def retiredMail : State :=
  { retired with dev := (runs.dev.wr F.SR_MSG_DATA [0, 0] 0x4B555244).wr F.SR_MSG_DATA [0, 1] 0x1001 }
theorem witness_retired_mailbox : retiredMail.sr.lifecycle = 4 ∧ (retiredMail.dev.atTime 1).runs = true ∧ (retiredMail.dev.atTime 1).mailOk 0 0 = true ∧
    (retiredMail.dev.atTime 1).srBusy = false ∧ (retiredMail.dev.atTime 1).srWaits = false ∧
    msgForm (((retiredMail.dev.atTime 1).srFields 0 0 1 (80 % 512) false).srMsg 0 (80 % 512)) = true := by decide

/-- A channel that is on, within its inrush window until 100 ns or not. -/
def lit (window : Option Nat) : State := runs.withDev (runs.dev.modChan 0 fun c => { c with state := 1, inrushEnd := window })
theorem witness_overcurrent : ((lit (some 100)).dev.atTime 99).mode ≠ .park ∧
    ((lit (some 100)).dev.atTime 99).inInrush 0 = true ∧ ((lit (some 100)).dev.atTime 100).inInrush 0 = false ∧
    (((lit (some 100)).dev.atTime 100).chan 0).outState ≠ 0 := by decide
/-- An excess that began at 1,000 ns trips 50 µs later, with an `OC_TIME` of 1. -/
theorem witness_overcurrent_limit : (runs.dev.atTime 100).sensed 0 30000 ≤ (runs.dev.atTime 100).ocLimit 0 ∧
    ((lit (some 100)).dev.atTime 100).ocLimit 0 < ((lit (some 100)).dev.atTime 100).sensed 0 30001 ∧
    (let d := (lit none).dev.wr F.CH_PROT_OC_TIME [0] 1
     max 1000 (d.ocFrom 0) + d.dieChf F.CH_PROT_OC_TIME 0 * 50000 = 51000) := by decide

/-- An input with a `STUCK_T` of 2 s, active from instant 0 on. -/
def pressed : State := runs.withDev ((runs.dev.wr F.SW_GUARD_STUCK_T [0] 2).modInput 0 fun x => { x with value := true })
theorem witness_stuck :
    let x (t : Nat) := ((pressed.dev.atTime t).input 0).upTo ((pressed.dev.atTime t).cranks (inputDie 0)) (pressed.dev.atTime t).now
    (pressed.dev.atTime 0).swRd F.SW_GUARD_STUCK_T 0 = 2 ∧ (x 1999999999).run < 2 * 1000000000 ∧ 2 * 1000000000 ≤ (x 2000000000).run ∧
    (x 2000000000).value = true ∧ (x 2000000000).chatter = false ∧ pressed.dev.mode ≠ .park ∧
    (pressed.dev.wr F.SW_GUARD_STUCK_T [0] 0).swRd F.SW_GUARD_STUCK_T 0 = 0 := by decide

/-- A device whose sleep has committed in transit 0, at the boundary that opens transit 2. -/
def asleep : State :=
  runs.withDev { runs.dev with park := { runs.dev.park with committed := true }, kept := { runs.dev.kept with transit := 2 } }
theorem witness_park : ((asleep.dev.atTime 0).runs = true ∧ (asleep.dev.atTime 0).park.committed = true ∧
    (asleep.dev.atTime 0).park.commitTransit + 2 ≤ (asleep.dev.atTime 0).kept.transit ∧
    (asleep.dev.atTime 0).now = (asleep.dev.atTime 0).tickStart) ∧ ¬(runs.dev.runs = true ∧ runs.dev.park.committed = true) := by
  decide
theorem witness_unassigned : State.reset.dev.barsOn 0 = false := by decide
theorem witness_no_own_tick : (halted.dev.atTime 0).ownTicks = [] := by decide

end Sys2Proof.Tests
end

section
/-! SUPPORT. Single bits of a field and of a word in which a field was set, what a write does by access code (R9), and the counters of
the side-effect window (R10). -/

namespace Sys2Proof.Machine

/-! ### Single bits of fields -/

/-- Bit `i` of a field is bit `i + lo` of the word. -/
theorem testBit_bitsOf (w hi lo i : Nat) : (bitsOf w hi lo).testBit i = (decide (i < hi + 1 - lo) && w.testBit (i + lo)) := by
  rw [bitsOf, Nat.testBit_mod_two_pow, Nat.testBit_div_two_pow]

/-- Words with the same one-bit field at `i` have the same bit `i`. -/
theorem testBit_eq_of_bitsOf_eq {x y i : Nat} (h : bitsOf x i i = bitsOf y i i) : x.testBit i = y.testBit i := by
  have h0 : (bitsOf x i i).testBit 0 = (bitsOf y i i).testBit 0 := by rw [h]
  simpa only [testBit_bitsOf, Nat.add_sub_cancel_left, Nat.zero_add, Nat.zero_lt_one, decide_true, Bool.true_and] using h0

/-- Setting a field leaves every bit outside it. -/
theorem testBit_insBits_outside (w v : Nat) {hi lo i : Nat} (h : lo ≤ hi) (out : i < lo ∨ hi < i) :
    (insBits w hi lo v).testBit i = w.testBit i := by
  apply testBit_eq_of_bitsOf_eq
  rcases out with below | above
  · exact bitsOf_insBits_of_lt w hi lo v i i h below le_rfl
  · exact bitsOf_insBits_of_gt w hi lo v i i h above

/-- A bit inside a field that was set is the bit of what it was set to. -/
theorem testBit_insBits_inside (w v : Nat) {hi lo i : Nat} (hl : lo ≤ i) (hh : i ≤ hi) :
    (insBits w hi lo v).testBit i = v.testBit (i - lo) := by
  have inside : i - lo < hi + 1 - lo := by omega
  have field := congrArg (·.testBit (i - lo)) (bitsOf_insBits_same w hi lo v (hl.trans hh))
  simpa [testBit_bitsOf, Nat.testBit_mod_two_pow, inside, Nat.sub_add_cancel hl] using field

/-- A field that was set to a field of the same width reads that field. -/
theorem bitsOf_insBits_bitsOf (w v : Nat) {hi lo : Nat} (h : lo ≤ hi) : bitsOf (insBits w hi lo (bitsOf v hi lo)) hi lo = bitsOf v hi lo := by
  rw [bitsOf_insBits_same _ _ _ _ h, Nat.mod_eq_of_lt (bitsOf_lt v hi lo)]

/-- With all bits enabled, the mask keeps a field of a 32-bit register whole. -/
theorem bitsOf_and_allBits (v lo : Nat) {hi : Nat} (h : hi < 32) : bitsOf v hi lo &&& bitsOf allBits hi lo = bitsOf v hi lo := by
  apply Nat.eq_of_testBit_eq
  intro i
  have ones : allBits = 2 ^ 32 - 1 := rfl
  rw [Nat.testBit_and, testBit_bitsOf, testBit_bitsOf, ones, Nat.testBit_two_pow_sub_one]
  by_cases inside : i < hi + 1 - lo
  · have : i + lo < 32 := by omega
    simp only [inside, this, decide_true, Bool.and_true]
  · simp only [inside, decide_false, Bool.false_and]

/-! ### What a write does to a field, by its access code (R9) -/

/-- Whatever its access code, a write leaves the word or sets the field in it. -/
theorem writeField_eq_self_or_insBits (v mask w : Nat) (f : FieldDef) :
    writeField v mask w f = w ∨ ∃ n, writeField v mask w f = insBits w f.hi f.lo n := by
  unfold writeField
  cases f.acc with
  | ro | wo | rc => exact .inl rfl
  | w1c => exact .inr ⟨_, rfl⟩
  | rw | rws =>
    cases f.valid with
    | none => exact .inr ⟨_, rfl⟩
    | some range =>
      dsimp only
      split
      · exact .inr ⟨_, rfl⟩
      · exact .inl rfl

/-- A write leaves every bit outside the field. -/
theorem testBit_writeField_outside (v mask w : Nat) {f : FieldDef} {i : Nat} (h : f.lo ≤ f.hi) (out : i < f.lo ∨ f.hi < i) :
    (writeField v mask w f).testBit i = w.testBit i := by
  obtain same | ⟨n, set⟩ := writeField_eq_self_or_insBits v mask w f
  · rw [same]
  · rw [set, testBit_insBits_outside w n h out]

/-- A whole-word write sets a writable field without a range to the written bits. -/
theorem writeField_allBits_of_rw (v w : Nat) {f : FieldDef} (hacc : f.acc = .rw ∨ f.acc = .rws) (hvalid : f.valid = none) (h : f.hi < 32) :
    writeField v allBits w f = insBits w f.hi f.lo (bitsOf v f.hi f.lo) := by
  rcases hacc with hacc | hacc <;> simp [writeField, hacc, hvalid, bitsOf_and_allBits _ _ h]

/-- A whole-word write sets a writable field with a range to the written bits where they lie in the range, and else leaves the word. -/
theorem writeField_allBits_of_rw_range (v w : Nat) {f : FieldDef} {a b : Nat} (hacc : f.acc = .rw ∨ f.acc = .rws)
    (hvalid : f.valid = some (a, b)) (h : f.hi < 32) :
    writeField v allBits w f =
      if a ≤ bitsOf v f.hi f.lo ∧ bitsOf v f.hi f.lo ≤ b then insBits w f.hi f.lo (bitsOf v f.hi f.lo) else w := by
  rcases hacc with hacc | hacc <;> simp [writeField, hacc, hvalid, bitsOf_and_allBits _ _ h]

/-- A whole-word write sets a W1C field to its bits that were not written 1. -/
theorem writeField_allBits_of_w1c (v w : Nat) {f : FieldDef} (hacc : f.acc = .w1c) (h : f.hi < 32) :
    writeField v allBits w f =
      insBits w f.hi f.lo (bitsOf w f.hi f.lo ^^^ (bitsOf w f.hi f.lo &&& bitsOf v f.hi f.lo)) := by
  simp [writeField, hacc, bitsOf_and_allBits _ _ h]

/-- A whole-word write clears exactly the bits of a W1C field that it writes 1. -/
theorem testBit_writeField_w1c (v w : Nat) {f : FieldDef} {i : Nat} (hacc : f.acc = .w1c) (h : f.hi < 32) (hl : f.lo ≤ i) (hh : i ≤ f.hi) :
    (writeField v allBits w f).testBit i = (w.testBit i && !v.testBit i) := by
  have inside : i - f.lo < f.hi + 1 - f.lo := by omega
  have cleared : ∀ x y : Bool, (x ^^ (x && y)) = (x && !y) := by decide
  rw [writeField_allBits_of_w1c v w hacc h, testBit_insBits_inside _ _ hl hh, Nat.testBit_xor, Nat.testBit_and, cleared]
  simp [testBit_bitsOf, inside, Nat.sub_add_cancel hl]

/-- A write to a field that software does not set leaves the word. -/
theorem writeField_of_not_writable (v mask w : Nat) {f : FieldDef} (hacc : f.acc = .ro ∨ f.acc = .wo ∨ f.acc = .rc) :
    writeField v mask w f = w := by
  rcases hacc with hacc | hacc | hacc <;> simp only [writeField, hacc]

/-- Settles O27: the new word by access code (`writeField_allBits_of_…`), read back field by field and bit by bit. -/
theorem fieldAccessCodes : Obligations.FieldAccessCodes := by
  intro w v f _ hle h32
  refine ⟨fun i out => testBit_writeField_outside v allBits w hle out, fun hacc hvalid => ?_, fun hacc a b hvalid => ?_,
    fun hacc i hl hh => testBit_writeField_w1c v w hacc h32 hl hh, fun hacc => writeField_of_not_writable v allBits w hacc⟩
  · rw [writeField_allBits_of_rw v w hacc hvalid h32, bitsOf_insBits_bitsOf w v hle]
  · rw [writeField_allBits_of_rw_range v w hacc hvalid h32]
    split
    · exact bitsOf_insBits_bitsOf w v hle
    · rfl

/-! ### Counters of the side-effect window (R10) -/

/-- Settles O28: the counter itself reads the saturated sum (`Dev.rd_bump_same`), a register of another key reads as before
(`Dev.rd_bump_ne`). -/
theorem countersSaturate : Obligations.CountersSaturate := fun d f g ix jx n hle h32 =>
  ⟨Dev.rd_bump_same d f ix n ⟨hle, h32⟩, Dev.rd_bump_ne d f g ix jx n⟩

end Sys2Proof.Machine
end

section
/-! SUPPORT. Instructions of a core that write one general register (R197), the start of an item (R193), the transit counter outside
operation (R37), and the commands of the transit, the pair and live service. -/

namespace Sys2Proof.Machine

/-! ### Instructions that write one general register -/

/-- A one-cycle instruction that writes a general register, on a core that can execute it: the core alone has changed. What it writes may
depend on the device too, as `TRANSIT` does. -/
theorem onDev_instr_set {s : State} {c : Nat} (ready : s.dev.ready c 1) (rd : GReg) (w : Dev → Core → Word) :
    s.onDev (fun d => d.instr c 1 fun k => k.set rd (w d k)) =
      .next (s.withDev (s.dev.executed c 1 fun k => k.set rd (w s.dev k))) :=
  onDev_withDev s (Dev.instr_ready ready (Core.set_keeps rd (w s.dev)))

/-- Settles O9: each instruction writes one general register (`onDev_instr_set`). What `MOV` reads of `CYCLES` and `TRANSIT` is log
entry 94's, and what `LUI` writes log entry 11's. -/
theorem engineArithmetic : Obligations.EngineArithmetic := by
  intro s c rd ra b w ready
  refine ⟨onDev_instr_set ready rd fun _ k => k.get ra + k.src b, onDev_instr_set ready rd fun _ k => k.get ra &&& k.src b, fun src => ?_,
    onDev_instr_set ready rd fun _ _ => w, onDev_instr_set ready rd fun _ k => shiftLeft (k.get ra) (k.src b)⟩
  have moved := onDev_instr_set ready rd fun d k => k.movSrc d.kept.transit src
  cases src with
  | reg r => exact moved
  | cycles => exact moved
  | transit => exact moved

/-- Settles O10: each instruction writes one general register (`onDev_instr_set`). -/
theorem engineBitOperations : Obligations.EngineBitOperations := fun _ _ rd ra b pos len kind ready =>
  ⟨onDev_instr_set ready rd fun _ k => bitField (k.get ra) pos len,
    onDev_instr_set ready rd fun _ k => bitInsert (k.get rd) (k.get ra) pos len,
    onDev_instr_set ready rd fun _ k => BitVec.ofNat 32 (leadingZeros (k.get ra)),
    onDev_instr_set ready rd fun _ k => BitVec.ofNat 32 (popCount (k.get ra)),
    onDev_instr_set ready rd fun _ k => byteSwap (k.get ra),
    onDev_instr_set ready rd fun _ k => crcStep kind (k.get ra) ((k.src b).setWidth 8)⟩

/-! ### The start of an item -/

/-- Carry-over of items that are of this transit or later puts each back as it was (R62). -/
theorem carryItems_current (c : Nat) (q : List Item) (d : Dev) (f : Core → Core) (current : ∀ j ∈ q, d.kept.transit ≤ j.elig) :
    Dev.carryItems c q (d.modCore c f) = d.modCore c fun k => { f k with queue := (f k).queue ++ q } := by
  induction q generalizing f with
  | nil => simp only [Dev.carryItems, List.append_nil]
  | cons i r ih =>
    have here : d.kept.transit ≤ i.elig := current i List.mem_cons_self
    simp only [Dev.carryItems, Dev.modCore_kept, here, if_true, Dev.modCore_modCore]
    rw [ih _ fun j hj => current j (List.mem_cons_of_mem i hj)]
    simp only [Function.comp, List.append_assoc, List.cons_append, List.nil_append]

/-- Carry-over on a core without items of earlier transits changes nothing (R62). -/
theorem carryCore_current {c : Nat} {d : Dev} (current : ∀ j ∈ (d.core c).queue, d.kept.transit ≤ j.elig) :
    carryCore c d = d.modCore c id :=
  carryItems_current c (d.core c).queue d (fun k => { k with queue := [] }) current

/-- A core that is written back as it was reads as before. -/
theorem Dev.modCore_id_core (d : Dev) (c e : Nat) : (d.modCore c id).core e = d.core e := by
  by_cases same : e = c
  · rw [same, Dev.modCore_core, id]
  · exact Dev.modCore_core_ne d id same

/-- What may start does not depend on more of the cores than what they read. -/
theorem Dev.modCore_id_canStart (d : Dev) (c e : Nat) (i : Item) : (d.modCore c id).canStart e i = d.canStart e i := by
  have reads : (d.modCore c id).core e = d.core e := d.modCore_id_core c e
  simp only [Dev.canStart, Dev.carryFits, Dev.dueRoom, reads]
  rfl

/-- The better of the best item so far and the next of the queue. -/
def Dev.pickStep (d : Dev) (c : Nat) (best : Option Item) (i : Item) : Option Item :=
  if d.canStart c i then
    match best with
    | none => some i
    | some b => if i.before b then some i else some b
  else best

theorem Dev.pick_eq_foldl (d : Dev) (c : Nat) : d.pick c = (d.core c).queue.foldl (d.pickStep c) none := rfl

theorem Dev.modCore_id_pick (d : Dev) (c e : Nat) : (d.modCore c id).pick e = d.pick e := by
  have step : (d.modCore c id).pickStep e = d.pickStep e := by
    funext best i
    simp only [Dev.pickStep, Dev.modCore_id_canStart]
  rw [Dev.pick_eq_foldl, Dev.pick_eq_foldl, step, Dev.modCore_id_core]

theorem Dev.pickStep_waits {d : Dev} {c : Nat} {i : Item} (waits : d.canStart c i = false) (best : Option Item) :
    d.pickStep c best i = best := by
  simp only [Dev.pickStep, waits, Bool.false_eq_true, if_false]

theorem Dev.pickStep_none {d : Dev} {c : Nat} {i : Item} (starts : d.canStart c i = true) : d.pickStep c none i = some i := by
  simp only [Dev.pickStep, starts, if_true]

theorem Dev.pickStep_some {d : Dev} {c : Nat} {i : Item} (starts : d.canStart c i = true) (b : Item) :
    d.pickStep c (some b) i = if i.before b then some i else some b := by
  simp only [Dev.pickStep, starts, if_true]

/-- Item `it` comes first among the items of `l` that may start (R60). -/
def Dev.First (d : Dev) (c : Nat) (it : Item) (l : List Item) : Prop :=
  ∀ j ∈ l, d.canStart c j = true → j ≠ it → it.before j = true ∧ j.before it = false

/-- An item that comes first, once found, stays the best. -/
theorem Dev.foldl_pickStep_first {d : Dev} {c : Nat} {it : Item} {l : List Item} (first : d.First c it l) :
    l.foldl (d.pickStep c) (some it) = some it := by
  induction l with
  | nil => rfl
  | cons j r ih =>
    have stays : d.pickStep c (some it) j = some it := by
      cases starts : d.canStart c j with
      | false => exact Dev.pickStep_waits starts _
      | true =>
        rw [Dev.pickStep_some starts]
        by_cases same : j = it
        · rw [same, ite_self]
        · rw [(first j List.mem_cons_self starts same).2, if_neg Bool.false_ne_true]
    rw [List.foldl_cons, stays]
    exact ih fun x hx => first x (List.mem_cons_of_mem j hx)

/-- While another item is looked at, the best so far stays one that `it` comes before. -/
theorem Dev.pickStep_later {d : Dev} {c : Nat} {it j : Item} {best : Option Item} (later : ∀ b ∈ best, it.before b = true)
    (before : d.canStart c j = true → it.before j = true) : ∀ b ∈ d.pickStep c best j, it.before b = true := by
  cases starts : d.canStart c j with
  | false => rwa [Dev.pickStep_waits starts]
  | true =>
    cases best with
    | none => simpa only [Dev.pickStep_none starts, Option.mem_some_iff, forall_eq'] using before starts
    | some a =>
      rw [Dev.pickStep_some starts]
      split
      · simpa only [Option.mem_some_iff, forall_eq'] using before starts
      · exact later

/-- From a best item that comes later, or from none, the item that comes first is found. -/
theorem Dev.foldl_pickStep_finds {d : Dev} {c : Nat} {it : Item} {l : List Item} {best : Option Item} (first : d.First c it l)
    (starts : d.canStart c it = true) (mem : it ∈ l) (later : ∀ b ∈ best, it.before b = true) :
    l.foldl (d.pickStep c) best = some it := by
  induction l generalizing best with
  | nil => exact absurd mem List.not_mem_nil
  | cons j r ih =>
    have firstRest : d.First c it r := fun x hx => first x (List.mem_cons_of_mem j hx)
    rw [List.foldl_cons]
    by_cases same : j = it
    · have found : d.pickStep c best j = some it := by
        cases best with
        | none => rw [same, Dev.pickStep_none starts]
        | some b => rw [same, Dev.pickStep_some starts, later b rfl, if_pos rfl]
      rw [found]
      exact Dev.foldl_pickStep_first firstRest
    · have memRest : it ∈ r := (List.mem_cons.mp mem).resolve_left (Ne.symm same)
      exact ih firstRest memRest (Dev.pickStep_later later fun hj => (first j List.mem_cons_self hj same).1)

/-- The item that comes first is the one that is picked (R60, R193). -/
theorem Dev.pick_first {d : Dev} {c : Nat} {it : Item} (first : d.First c it (d.core c).queue) (starts : d.canStart c it = true)
    (mem : it ∈ (d.core c).queue) : d.pick c = some it := by
  rw [Dev.pick_eq_foldl]
  exact Dev.foldl_pickStep_finds first starts mem fun _ hb => absurd hb (Option.not_mem_none _)

/-- What starting item `i` does to its core: the item is in hand and out of the queue, and the program counter stands at `pc`
(R187, R193, R194). -/
def Core.started (i : Item) (pc : Nat) : Core → Core := fun k =>
  { k with busy := some i, queue := k.queue.erase i, pc := pc, nv := false, cycles := 0, stack := [], codes := [] }

@[simp] theorem Core.started_get (i : Item) (pc : Nat) (k : Core) (r : GReg) : (Core.started i pc k).get r = k.get r := rfl

@[simp] theorem Dev.setCoreEntry_cores (d : Dev) (c v : Nat) : (d.setCoreEntry c v).cores = d.cores := by
  unfold Dev.setCoreEntry
  split <;> rfl

@[simp] theorem Dev.setCoreEntry_core (d : Dev) (c v e : Nat) : (d.setCoreEntry c v).core e = d.core e := by
  simp only [Dev.core, Dev.setCoreEntry_cores]

/-- Dispatch on an idle core starts the item that is picked. -/
theorem dispatchCore_eq {c : Nat} {d : Dev} {i : Item} {entry : Nat × Nat} (runs : d.runs = true) (state : d.coreState c = 1)
    (idle : (d.core c).busy = none) (picked : d.pick c = some i)
    (found : (imgTable (d.core c).image).find? (fun x => x.1 == i.entry) = some entry) :
    dispatchCore c d = (d.modCore c (Core.started i entry.2)).setCoreEntry c i.entry := by
  unfold Core.started
  simp [dispatchCore, runs, state, idle, picked, found]

theorem exec_dispatch (t : Nat) (c : CoreId) (s : State) :
    exec (.dispatch t c) s = .next (s.withDev (dispatchCore c (carryCore c (s.dev.atTime t)))) := rfl

/-- `DISPATCH` on an idle core without items of earlier transits starts the item that is picked. -/
theorem dispatchCore_carryCore_eq {c : Nat} {d : Dev} {i : Item} {entry : Nat × Nat} (runs : d.runs = true) (state : d.coreState c = 1)
    (idle : (d.core c).busy = none) (current : ∀ j ∈ (d.core c).queue, d.kept.transit ≤ j.elig) (picked : d.pick c = some i)
    (found : (imgTable (d.core c).image).find? (fun x => x.1 == i.entry) = some entry) :
    dispatchCore c (carryCore c d) = (d.modCore c (Core.started i entry.2)).setCoreEntry c i.entry := by
  have reads : (d.modCore c id).core c = d.core c := d.modCore_id_core c c
  rw [carryCore_current current, dispatchCore_eq (d := d.modCore c id) runs state (reads ▸ idle)
    ((d.modCore_id_pick c c).trans picked) (reads ▸ found), Dev.modCore_modCore, Function.comp_id]

/-- Settles O35: carry-over changes nothing, the pick is the item that comes first (`Dev.pick_first`), and starting it is
`Core.started`. -/
theorem dispatchStartsTheFirst : Obligations.DispatchStartsTheFirst := by
  intro s t c it entry d runs state idle current mem starts first found
  have effect : dispatchCore c (carryCore c (s.dev.atTime t)) = (d.modCore c (Core.started it entry.2)).setCoreEntry c it.entry :=
    dispatchCore_carryCore_eq runs state idle current (Dev.pick_first first starts mem) found
  have own : ((d.modCore c (Core.started it entry.2)).setCoreEntry c it.entry).core c = Core.started it entry.2 (d.core c) := by
    rw [Dev.setCoreEntry_core, Dev.modCore_core]
  refine ⟨_, exec_dispatch t c s, rfl, ?_⟩
  simp only [State.withDev, effect, own]
  refine ⟨rfl, rfl, rfl, rfl, rfl, Core.started_get it entry.2 _, fun e other => ?_⟩
  rw [Dev.setCoreEntry_core, Dev.modCore_core_ne d _ other]

/-! ### The transit counter outside operation -/

/-- Outside operation the mode and the transit counter stay. -/
def KeepsTransit (d e : Dev) : Prop := d.runs = false → e.mode = d.mode ∧ e.kept.transit = d.kept.transit

namespace KeepsTransit

theorem refl (d : Dev) : KeepsTransit d d := fun _ => ⟨rfl, rfl⟩

theorem trans {d e f : Dev} (h : KeepsTransit d e) (h' : KeepsTransit e f) : KeepsTransit d f := by
  intro idle
  obtain ⟨mode, transit⟩ := h idle
  obtain ⟨mode', transit'⟩ := h' (by simpa only [Dev.runs, mode] using idle)
  exact ⟨mode'.trans mode, transit'.trans transit⟩

theorem of_reports {d e : Dev} (h : Reports d e) : KeepsTransit d e := fun _ => by
  obtain ⟨mode, -, -, -, -, -, transit⟩ := h.frame
  exact ⟨mode, transit⟩

/-- What holds of each branch holds of the choice. -/
theorem ite {d e f : Dev} {p : Prop} [Decidable p] (h : KeepsTransit d e) (h' : KeepsTransit d f) : KeepsTransit d (if p then e else f) := by
  split
  · exact h
  · exact h'

theorem foldl {α : Type} {f : Dev → α → Dev} (h : ∀ d a, KeepsTransit d (f d a)) (l : List α) (d : Dev) : KeepsTransit d (l.foldl f d) := by
  induction l generalizing d with
  | nil => exact refl d
  | cons a l ih => exact (h d a).trans (ih _)

end KeepsTransit

theorem modDie_keepsTransit (d : Dev) (i : Nat) (f : Die → Die) : KeepsTransit d (d.modDie i f) := fun _ => ⟨rfl, rfl⟩

/-- A channel's commanded state is kept only of a running device. -/
theorem modChan_keepsTransit (d : Dev) (ch : Nat) (f : Chan → Chan) : KeepsTransit d (d.modChan ch f) := by
  unfold Dev.modChan Dev.putChan
  exact .ite (fun _ => ⟨rfl, rfl⟩) (fun _ => ⟨rfl, rfl⟩)

/-- Outside operation the recorder takes no change of a channel. -/
theorem changeChan_keepsTransit (d : Dev) (ch cause loc : Nat) (f : Chan → Chan) : KeepsTransit d (d.changeChan ch cause loc f) := by
  intro idle
  have kept := modChan_keepsTransit d ch f idle
  have stopped : (d.modChan ch f).runs = false := by simpa only [Dev.runs, kept.1] using idle
  simpa [Dev.changeChan, stopped] using kept

theorem logDie_keepsTransit (d : Dev) (die : Nat) (e : DieEvent) : KeepsTransit d (d.logDie die e) :=
  .ite (modDie_keepsTransit _ _ _) (.of_reports (bump_reports _ _ _ _))

theorem dieEvent_keepsTransit (d : Dev) (die tenant code source : Nat) (detail : List Byte) (off : Bool) :
    KeepsTransit d (d.dieEvent die tenant code source detail off) :=
  .ite (logDie_keepsTransit _ _ _) (.of_reports (event_reports _ _ _ _ _ _ _))

theorem holdStep_keepsTransit (d : Dev) (ch : Nat) : KeepsTransit d (d.holdStep ch) :=
  .ite (dieEvent_keepsTransit _ _ _ _ _ _ _) (.refl d)

theorem lockout_keepsTransit (d : Dev) (ch reason : Nat) : KeepsTransit d (d.lockout ch reason) :=
  .ite (.refl d) (((changeChan_keepsTransit _ _ _ _ _).trans (.of_reports (bump_reports _ _ _ _))).trans (dieEvent_keepsTransit _ _ _ _ _ _ _))

theorem chargeEnergy_keepsTransit (d : Dev) (ch uj : Nat) : KeepsTransit d (d.chargeEnergy ch uj) :=
  (modChan_keepsTransit _ _ _).trans (.ite (lockout_keepsTransit _ _ _) (.refl _))

theorem clampPulse_keepsTransit (d : Dev) (ch uj : Nat) : KeepsTransit d (d.clampPulse ch uj) := by
  unfold Dev.clampPulse
  split
  · exact .refl d
  · exact (chargeEnergy_keepsTransit _ _ _).trans
      (.ite ((KeepsTransit.of_reports (bump_reports _ _ _ _)).trans (lockout_keepsTransit _ _ _)) (.refl _))

theorem openRuns_keepsTransit (d : Dev) (ch : Nat) (current : Int) : KeepsTransit d (d.openRuns ch current) :=
  .ite (modChan_keepsTransit _ _ _) (modChan_keepsTransit _ _ _)

theorem openMeans_keepsTransit (s : Sensed) (dies : List Nat) (d : Dev) : KeepsTransit d (d.openMeans s dies) :=
  .foldl (fun _ _ => .ite (openRuns_keepsTransit _ _ _) (.refl _)) _ _

theorem dieSense_keepsTransit (s : Sensed) (d : Dev) : KeepsTransit d (dieSense s d) := by
  refine KeepsTransit.trans (KeepsTransit.trans (KeepsTransit.trans (KeepsTransit.trans ?temps (.foldl ?currents _ _))
    (.foldl ?limits _ _)) (.foldl ?clamps _ _)) (.foldl ?chTemps _ _)
  case temps => exact (modDie_keepsTransit _ _ _).trans (modDie_keepsTransit _ _ _)
  case currents => exact fun _ _ => .ite (modChan_keepsTransit _ _ _) (.refl _)
  case limits => exact fun _ _ => .ite (chargeEnergy_keepsTransit _ _ _) (.refl _)
  case clamps => exact fun _ _ => .ite (clampPulse_keepsTransit _ _ _) (.refl _)
  case chTemps => exact fun _ _ => .ite (modChan_keepsTransit _ _ _) (.refl _)

theorem rampStep_keepsTransit (die : Nat) (d : Dev) : KeepsTransit d (rampStep die d) :=
  .foldl (fun _ _ => .ite (changeChan_keepsTransit _ _ _ _ _) (.refl _)) _ _

/-- A change of a channel and the die's log of it. -/
theorem changeChan_holdStep_keepsTransit (d : Dev) (ch cause loc : Nat) (f : Chan → Chan) :
    KeepsTransit d ((d.changeChan ch cause loc f).holdStep ch) :=
  (changeChan_keepsTransit _ _ _ _ _).trans (holdStep_keepsTransit _ _)

theorem throttleStep_keepsTransit (die : Nat) (d : Dev) : KeepsTransit d (throttleStep die d) := by
  unfold throttleStep
  dsimp only
  refine .ite ?_ (.ite ?_ (.refl d))
  · split
    · exact .refl d
    · refine KeepsTransit.trans ?_ (.ite (.refl _) ((modDie_keepsTransit _ _ _).trans (dieEvent_keepsTransit _ _ _ _ _ _ _)))
      exact ((changeChan_holdStep_keepsTransit _ _ _ _ _).trans (.of_reports (bump_reports _ _ _ _))).trans (modDie_keepsTransit _ _ _)
  · refine KeepsTransit.trans ?_ (.ite (modDie_keepsTransit _ _ _) ((modDie_keepsTransit _ _ _).trans (dieEvent_keepsTransit _ _ _ _ _ _ _)))
    split
    · exact .refl d
    · exact changeChan_holdStep_keepsTransit _ _ _ _ _

theorem dieTick_keepsTransit (die : Nat) (d : Dev) : KeepsTransit d (dieTick die d) :=
  (rampStep_keepsTransit _ _).trans (throttleStep_keepsTransit _ _)

/-- The own tick of a die that holds leaves the transit counter (R502). -/
theorem holdTicks_keepsTransit (s : Sensed) (d : Dev) : KeepsTransit d (d.holdTicks s) := by
  have sensed := KeepsTransit.ite (p := d.runs ∧ d.now = d.tickStart) (.refl d)
    ((openMeans_keepsTransit s d.ownTicks d).trans (dieSense_keepsTransit s _))
  have served := KeepsTransit.foldl (fun d i => (modDie_keepsTransit d i fun x => { x with tickAt := d.now }).trans (dieTick_keepsTransit i _))
  exact .ite (.refl d) (sensed.trans (served d.ownTicks _))

theorem liveEnd_reports (d : Dev) (op kind target code reason applied : Nat) :
    Reports d (d.liveEnd op kind target code reason applied) := by
  have status := ((wr_reports d F.LS_STATUS_DONE [] 1).trans (wr_reports _ F.LS_STATUS_CODE [] code)).trans
    (wr_reports _ F.LS_STATUS_REASON [] reason)
  refine status.trans (Reports.trans ?_ (event_reports _ _ _ _ _ _ _))
  split
  · exact Reports.refl _
  · exact bump_reports _ _ _ _

theorem setLive_keepsTransit (d : Dev) (o : Option LiveOp) : KeepsTransit d { d with live := o } := fun _ => ⟨rfl, rfl⟩

/-- A live service operation that ends is only reported. -/
theorem liveDone_keepsTransit (d : Dev) (code reason applied : Nat) : KeepsTransit d (d.liveDone code reason applied) := by
  unfold Dev.liveDone
  split
  · exact .refl d
  · have idle := (KeepsTransit.of_reports (wr_reports d F.LS_STATUS_BUSY [] 0)).trans (setLive_keepsTransit _ none)
    exact .ite idle (idle.trans (.of_reports (liveEnd_reports _ _ _ _ _ _ _)))

/-- What is done to the stores as they stand and as a withdrawal returns to them counts as it stands. -/
theorem both_keepsTransit {f : Dev → Dev} (h : ∀ d, KeepsTransit d (f d)) (d : Dev) : KeepsTransit d (d.both f) := h d

/-- An operation whose word stands applies outside operation too; the stores that it changes keep the transit counter (R702). -/
theorem liveStands_keepsTransit (d : Dev) (sr : Strongroom) : KeepsTransit d (d.liveStands sr) := by
  have ended : ∀ e : Dev, KeepsTransit e (e.both fun d => d.liveDone 0 0 d.kept.transit) :=
    both_keepsTransit fun d => liveDone_keepsTransit d 0 0 d.kept.transit
  unfold Dev.liveStands
  dsimp only
  split
  · refine .ite (.refl d) (.ite ?_ ?_)
    · split
      · exact .refl d
      · exact fun idle => ended _ idle
    · exact fun idle => ended _ idle
  · exact .refl d

/-- A boundary outside operation counts the transit and leaves the mode (R37, R38). -/
theorem boundary_idle (t : Nat) (s : Sensed) (sr : Strongroom) {d : Dev} (idle : d.runs = false) :
    (d.boundary t s sr).mode = d.mode ∧ (d.boundary t s sr).kept.transit = d.kept.transit + 1 := by
  have counted : d.boundary t s sr = (d.tick t).liveStands sr := by simp only [Dev.boundary, idle, Bool.false_eq_true, if_false]
  rw [counted]
  exact liveStands_keepsTransit (d.tick t) sr idle

/-- A tick boundary outside operation counts the transit. -/
theorem transitBoundary_idle_tick (t : Nat) (s : Sensed) (sr : Strongroom) {d : Dev} (idle : d.runs = false)
    (off : ¬(d.mode = .bootHeld ∨ d.mode = .park)) (tick : d.tickOk t = true) :
    (transitBoundary t s sr d).kept.transit = d.kept.transit + 1 ∧ (transitBoundary t s sr d).mode = d.mode := by
  obtain ⟨mode, transit⟩ := boundary_idle t s sr (d := d.atTime t) idle
  have stopped : ((d.atTime t).boundary t s sr).runs = false := by simpa only [Dev.runs, mode, Dev.atTime_mode] using idle
  obtain ⟨mode', transit'⟩ := holdTicks_keepsTransit s _ stopped
  simp only [transitBoundary, off, if_false, tick, if_true]
  exact ⟨transit'.trans transit, mode'.trans mode⟩

/-- At an instant without a tick boundary the transit counter stays, and all of the device where no die that holds has its own tick. -/
theorem transitBoundary_idle_off_tick (t : Nat) (s : Sensed) (sr : Strongroom) {d : Dev} (idle : d.runs = false)
    (off : ¬(d.mode = .bootHeld ∨ d.mode = .park)) (tick : d.tickOk t = false) :
    (transitBoundary t s sr d).kept.transit = d.kept.transit ∧ (transitBoundary t s sr d).mode = d.mode ∧
      ((d.atTime t).ownTicks = [] → transitBoundary t s sr d = d) := by
  have effect : transitBoundary t s sr d = if (d.atTime t).ownTicks = [] then d else (d.atTime t).holdTicks s := by
    simp only [transitBoundary, off, if_false, tick, Bool.false_eq_true]
  rw [effect]
  obtain ⟨mode, transit⟩ := holdTicks_keepsTransit s (d.atTime t) idle
  split
  · exact ⟨rfl, rfl, fun _ => rfl⟩
  · exact ⟨transit, mode, fun none => absurd none ‹_›⟩

/-- Settles O39: `transitBoundary_idle_tick` and `transitBoundary_idle_off_tick`. -/
theorem transitCounterGoesOn : Obligations.TransitCounterGoesOn := by
  intro s t sensed notRun notHeld notPark
  have idle : s.dev.runs = false := beq_eq_false_iff_ne.mpr notRun
  have off : ¬(s.dev.mode = .bootHeld ∨ s.dev.mode = .park) := not_or.mpr ⟨notHeld, notPark⟩
  refine ⟨fun tick => ?_, fun tick => ?_⟩
  · obtain ⟨transit, mode⟩ := transitBoundary_idle_tick t sensed s.sr idle off tick
    exact ⟨_, State.onDevWith_eq s _, transit, mode, rfl⟩
  · obtain ⟨transit, mode, same⟩ := transitBoundary_idle_off_tick t sensed s.sr idle off tick
    exact ⟨_, State.onDevWith_eq s _, transit, mode, rfl, fun none => by rw [same none]⟩

/-! ### Commands that complete -/

/-- Settles O51: by definition each command's arm of `exec` is its effect on the device. -/
theorem transitCommandsComplete : Obligations.TransitCommandsComplete := fun _ =>
  ⟨fun _ _ => rfl, fun _ _ => rfl, fun _ => rfl, fun _ _ => rfl, fun _ _ => rfl, fun _ => rfl, fun _ _ => rfl, fun _ => rfl, fun _ => rfl,
    fun _ _ => rfl⟩

/-- Settles O59: by definition each command's arm of `exec` is its effect, on the device alone or, for `HELLO` and `LINK_FRAME`, on the
Strongroom's store as well. -/
theorem pairAndLiveServiceCommandsComplete : Obligations.PairAndLiveServiceCommandsComplete := fun _ =>
  ⟨fun _ => rfl, fun _ _ _ => rfl, fun _ _ => rfl, fun _ => rfl, fun _ _ _ => rfl, fun _ _ => rfl, fun _ => rfl, fun _ _ _ => rfl,
    fun _ => rfl, fun _ => rfl, fun _ => rfl, fun _ _ _ => rfl, fun _ => rfl, fun _ _ _ _ => rfl, fun _ _ _ => rfl, fun _ _ _ => rfl,
    fun _ _ _ => rfl, fun _ _ _ => rfl, fun _ _ _ => rfl, fun _ _ _ => rfl, fun _ => rfl⟩

end Sys2Proof.Machine
end

section
/-! SUPPORT. What the arithmetic and bit instructions of a core compute, and what the instructions that act on a core alone do to it
(R187, R197). -/

namespace Sys2Proof.Machine

/-! ### What the instructions act by -/

/-- What `DIV` does to the core: the quotient goes to its register, and a divisor of 0 sets overflow (R197). -/
def Core.divideInto (rd ra : GReg) (b : Src) (k : Core) : Core :=
  { k.set rd (divide (k.get ra) (k.src b)).1 with v := k.v || (divide (k.get ra) (k.src b)).2 }

theorem exec_add (c : CoreId) (rd ra : GReg) (b : Src) (s : State) :
    exec (.add c rd ra b) s = s.onDev fun d => d.instr c 1 fun k => k.set rd (k.get ra + k.src b) := rfl
theorem exec_cmp (c : CoreId) (ra : GReg) (b : Src) (s : State) :
    exec (.cmp c ra b) s = s.onDev fun d => d.instr c 1 fun k => k.compare (k.get ra) (k.src b) := rfl
theorem exec_mul (c : CoreId) (rd ra : GReg) (b : Src) (s : State) :
    exec (.mul c rd ra b) s = s.onDev fun d => d.instrOr c 3 (pairBad rd) fun k => k.setPair rd (mul64 (k.get ra) (k.src b)) := rfl
theorem exec_div (c : CoreId) (rd ra : GReg) (b : Src) (s : State) :
    exec (.div c rd ra b) s = s.onDev fun d => d.instr c 20 (Core.divideInto rd ra b) := rfl

/-! ### General registers -/

/-- Settles O19, from what a register reads after a write (`Core.get_set`). -/
theorem generalRegisters : Obligations.GeneralRegisters := fun k r q w =>
  ⟨k.get_zero, rfl, fun nonzero => by simpa [Core.get_set] using fun zero => absurd zero nonzero,
    fun other => by simp [Core.get_set, other]⟩

/-! ### Bits of a word -/

/-- A bit of an extracted field (log entry 9). -/
theorem getLsbD_bitField (a : Word) (pos len : Nat) {i : Nat} (h : i < 32) :
    (bitField a pos len).getLsbD i = (decide (i < len) && a.getLsbD (pos + i)) := by
  simp only [bitField, BitVec.getLsbD_ofNat, h, decide_true, Bool.true_and, Nat.testBit_mod_two_pow, Nat.testBit_div_two_pow,
    BitVec.testBit_toNat, Nat.add_comm]

/-- A bit after a field was inserted (log entry 9). -/
theorem getLsbD_bitInsert (a b : Word) (pos len : Nat) {i : Nat} (h : i < 32) :
    (bitInsert a b pos len).getLsbD i = if pos ≤ i ∧ i < pos + len then b.getLsbD (i - pos) else a.getLsbD i := by
  have mask : ((2 ^ len - 1) * 2 ^ pos).testBit i = decide (pos ≤ i ∧ i < pos + len) := by
    rw [Nat.testBit_mul_two_pow, Nat.testBit_two_pow_sub_one, ← Bool.decide_and]
    exact decide_eq_decide.mpr (by omega)
  simp only [bitInsert, BitVec.getLsbD_or, BitVec.getLsbD_and, BitVec.getLsbD_not, BitVec.getLsbD_ofNat, h, mask, decide_true,
    Bool.true_and, Nat.testBit_mul_two_pow, BitVec.testBit_toNat]
  by_cases inside : pos ≤ i ∧ i < pos + len
  · simp [inside]
  · simp [inside]

/-- Leading zeros end at the highest bit that is set; a word without one has 32. -/
theorem leadingZeros_cases (a : Word) :
    (leadingZeros a = 32 ∧ ∀ i < 32, a.getLsbD i = false) ∨
      (leadingZeros a < 32 ∧ a.getLsbD (31 - leadingZeros a) = true ∧ ∀ i, 31 - leadingZeros a < i → a.getLsbD i = false) := by
  unfold leadingZeros
  cases found : (List.range 32).find? fun i => a.getLsbD (31 - i) with
  | none =>
    refine .inl ⟨rfl, fun i hi => ?_⟩
    have := List.find?_eq_none.mp found (31 - i) (by simp; omega)
    simpa [show 31 - (31 - i) = i by omega] using this
  | some z =>
    obtain ⟨set, hz, below⟩ := List.find?_range_eq_some.mp found
    have hz : z < 32 := by simpa using hz
    refine .inr ⟨hz, set, fun i (hi : 31 - z < i) => ?_⟩
    by_cases h : i < 32
    · have := below (31 - i) (by omega)
      simpa [show 31 - (31 - i) = i by omega] using this
    · exact BitVec.getLsbD_of_ge a i (by omega)

/-- Counting the members of a list that satisfy a property. -/
theorem length_filter_eq_sum {α : Type} (p : α → Bool) (l : List α) : (l.filter p).length = (l.map fun x => (p x).toNat).sum := by
  induction l with
  | nil => rfl
  | cons x l ih => cases h : p x <;> simp [h, ih, Nat.add_comm]

/-- A bit of a number that little-endian bytes spell stands in their byte. -/
theorem testBit_ofLe (l : List Byte) (n : Nat) {j : Nat} (hj : j < 8) : (ofLe l).testBit (8 * n + j) = (l.getD n 0).getLsbD j := by
  induction l generalizing n with
  | nil => simp [ofLe]
  | cons b r ih =>
    have low : b.toNat < 2 ^ 8 := b.isLt
    have split : ofLe (b :: r) = 2 ^ 8 * ofLe r + b.toNat := by simp [ofLe, Nat.add_comm]
    rw [split, Nat.testBit_two_pow_mul_add _ low]
    cases n with
    | zero => simp [hj, BitVec.testBit_toNat]
    | succ n =>
      rw [if_neg (by omega), show 8 * (n + 1) + j - 8 = 8 * n + j by omega, ih, List.getD_cons_succ]

/-- A byte of a number. -/
theorem getD_leBytes (m : Nat) {k n : Nat} (h : n < k) : (leBytes k m).getD n 0 = BitVec.ofNat 8 (m / 256 ^ n) := by
  induction k generalizing m n with
  | zero => omega
  | succ k ih =>
    cases n with
    | zero => simp [leBytes]
    | succ n => rw [leBytes, List.getD_cons_succ, ih _ (by omega), Nat.div_div_eq_div_mul, ← pow_succ']

/-- Byte `n` of a swapped word is byte `3 - n` of the word. -/
theorem getLsbD_byteSwap (a : Word) {n j : Nat} (hn : n < 4) (hj : j < 8) :
    (byteSwap a).getLsbD (8 * n + j) = a.getLsbD (8 * (3 - n) + j) := by
  have swapped : (leBytes 4 a.toNat).reverse.getD n 0 = (leBytes 4 a.toNat).getD (3 - n) 0 := by
    rw [List.getD_eq_getElem?_getD, List.getElem?_reverse (by simpa using hn), length_leBytes, ← List.getD_eq_getElem?_getD]
  have shift : (256 : Nat) ^ (3 - n) = 2 ^ (8 * (3 - n)) := by rw [pow_mul]; rfl
  rw [byteSwap, BitVec.getLsbD_ofNat, decide_eq_true (by omega), Bool.true_and, ofBe, testBit_ofLe _ _ hj, swapped,
    getD_leBytes _ (by omega), BitVec.getLsbD_ofNat, decide_eq_true hj, Bool.true_and, shift, Nat.testBit_div_two_pow, BitVec.testBit_toNat,
    Nat.add_comm]

/-- Settles O11, from a lemma for each instruction. -/
theorem bitResults : Obligations.BitResults := by
  refine ⟨fun a pos len i => getLsbD_bitField a pos len, fun a b pos len i => getLsbD_bitInsert a b pos len,
    fun a => ⟨?_, fun nonzero => ?_⟩, fun a => length_filter_eq_sum _ _, fun a n j => getLsbD_byteSwap a⟩
  · rintro rfl; decide
  · rcases leadingZeros_cases a with ⟨-, clear⟩ | found
    · exact absurd (BitVec.eq_of_getLsbD_eq fun i hi => by simpa using clear i hi) nonzero
    · exact found

/-! ### Instructions that act on a core alone -/

/-- A device that can execute a longer instruction can execute a shorter one. -/
theorem Dev.ready.mono {d : Dev} {c m n : Nat} (ready : d.ready c n) (le : m ≤ n) : d.ready c m := by
  obtain ⟨runs, it, busy, code, aligned, allowed⟩ := ready
  exact ⟨runs, it, busy, code, aligned, fun e he => (Nat.add_le_add_left le _).trans (allowed e he)⟩

/-- A core that can execute an instruction has an item. -/
theorem Dev.ready.coreBusy {d : Dev} {c n : Nat} (ready : d.ready c n) : d.coreBusy c = true := by
  obtain ⟨runs, it, busy, -⟩ := ready
  simp [Dev.coreBusy, runs, busy]

/-- A core that can execute an instruction can fetch it. -/
theorem Dev.ready.fetches {d : Dev} {c n : Nat} (ready : d.ready c n) :
    (d.core c).pc + 4 ≤ (d.core c).codeLen ∧ (d.core c).pc % 4 = 0 := by
  obtain ⟨-, it, -, code, aligned, -⟩ := ready
  exact ⟨code, aligned⟩

/-- What is read of a core whose program counter has gone on. -/
@[simp] theorem Core.get_setPc (k : Core) (p : Nat) (r : GReg) : ({ k with pc := p } : Core).get r = k.get r := rfl
@[simp] theorem Core.src_setPc (k : Core) (p : Nat) (b : Src) : ({ k with pc := p } : Core).src b = k.src b := by cases b <;> rfl

/-- An instruction is what it does to the core as it stands. -/
theorem Dev.executed_congr {d : Dev} {c n : Nat} {f g : Core → Core}
    (same : f { d.core c with pc := (d.core c).pc + 4 } = g { d.core c with pc := (d.core c).pc + 4 }) :
    d.executed c n f = d.executed c n g := by
  unfold Dev.core at same
  simp only [Dev.executed, Dev.modCore, smod, same]

/-- The state behind an instruction of a core that can execute it. -/
theorem onDev_instr {s : State} {c n : Nat} {f : Core → Core} (ready : s.dev.ready c n) (keeps : KeepsItem f) :
    (s.onDev fun d => d.instr c n f) = .next (s.withDev (s.dev.executed c n f)) :=
  onDev_withDev s (Dev.instr_ready ready keeps)

/-- The check that a core's next instruction lies in its code does not fail. -/
theorem Dev.ready.fetched {d : Dev} {c n : Nat} (ready : d.ready c n) :
    ¬((d.core c).codeLen < (d.core c).pc + 4 ∨ (d.core c).pc % 4 ≠ 0) := by
  have := ready.fetches
  omega

/-- An instruction that is a program error, on a core that can fetch it (R215). -/
theorem Dev.instrOr_error {d : Dev} {c m n : Nat} (ready : d.ready c n) (e : Nat) (f : Core → Core) :
    d.instrOr c m (some e) f = d.programError c e := by
  simp only [Dev.instrOr, ready.coreBusy, ready.fetched, if_true, if_false]

/-- A core without an item does not come to a program error either. -/
theorem Dev.instrOr_idle {d : Dev} {c n : Nat} {bad : Option Nat} {f : Core → Core} (idle : d.coreBusy c = false) :
    d.instrOr c n bad f = d := by
  cases bad with
  | none => exact Dev.instr_idle idle
  | some e => simp [Dev.instrOr, idle]

/-- A pair named by an even register (R187). -/
theorem pairBad_even {r : GReg} (even : r.val % 2 = 0) : pairBad r = none := by simp [pairBad, even]

/-- A pair named by an odd register (R187). -/
theorem pairBad_odd {r : GReg} (odd : r.val % 2 = 1) : pairBad r = some 0x01 := by simp [pairBad, odd]

/-! ### CMP -/

/-- The difference of two words overflows where their signs differ and its sign is not the first's. -/
theorem sub_overflows (a b : Word) :
    ((a.getLsbD 31 != b.getLsbD 31) && ((a - b).getLsbD 31 != a.getLsbD 31)) = decide (a.toInt - b.toInt ≠ (a - b).toInt) := by
  have sign (x : Word) : x.getLsbD 31 = decide (x.toInt < 0) := by rw [← BitVec.msb_eq_toInt, BitVec.msb_eq_getLsbD_last]
  have wrap : (a - b).toInt % 2 ^ 32 = (a.toInt - b.toInt) % 2 ^ 32 := by rw [BitVec.toInt_sub]; exact Int.bmod_emod
  have range (x : Word) : -2 ^ 31 ≤ x.toInt ∧ x.toInt < 2 ^ 31 := ⟨x.le_toInt, x.toInt_lt⟩
  have ha := range a
  have hb := range b
  have hr := range (a - b)
  rw [Bool.eq_iff_iff]
  simp only [sign, Bool.and_eq_true, bne_iff_ne, ne_eq, decide_eq_decide, decide_eq_true_eq]
  omega

/-- Settles O12: `CMP` acts on the core's flags alone, and its overflow flag is `sub_overflows`. -/
theorem engineCompare : Obligations.EngineCompare := fun s c ra b ready => by
  have keeps : KeepsItem fun k => k.compare (k.get ra) (k.src b) := fun k => ⟨rfl, rfl, rfl⟩
  rw [exec_cmp, onDev_instr ready keeps]
  simp only [Core.compare, sub_overflows]

/-! ### MUL -/

/-- Where both readings give one product, `MUL` gives it. -/
theorem mul64_of_agree {a b : Word} (agree : a.setWidth 64 * b.setWidth 64 = a.signExtend 64 * b.signExtend 64) :
    mul64 a b = a.setWidth 64 * b.setWidth 64 := if_pos agree

/-- Elsewhere its high word is open (log entry 4). -/
theorem mul64_of_differ {a b : Word} (differ : a.setWidth 64 * b.setWidth 64 ≠ a.signExtend 64 * b.signExtend 64) :
    mul64 a b = ((Config.mulHigh a b).setWidth 64 <<< 32) ||| ((a.setWidth 64 * b.setWidth 64) &&& 0xFFFFFFFF#64) := if_neg differ

/-- The low word of a product does not depend on how the operands are read. -/
theorem setWidth_mul64 (a b : Word) : (mul64 a b).setWidth 32 = a * b := by
  have low : (a.setWidth 64 * b.setWidth 64).setWidth 32 = a * b := by
    rw [BitVec.setWidth_mul _ _ (by decide)]; simp
  by_cases agree : a.setWidth 64 * b.setWidth 64 = a.signExtend 64 * b.signExtend 64
  · rw [mul64_of_agree agree, low]
  · rw [mul64_of_differ agree, BitVec.setWidth_or, BitVec.setWidth_and, low, BitVec.setWidth_shiftLeft_of_le (by decide),
      show (4294967295#64).setWidth 32 = BitVec.allOnes 32 from rfl, BitVec.and_allOnes]
    simp

/-- Where the signed and the unsigned product agree, the pair is the product. -/
theorem toNat_mul64 {a b : Word} (agree : (a.toNat * b.toNat : Int) = (a.toInt * b.toInt) % 2 ^ 64) :
    (mul64 a b).toNat = a.toNat * b.toNat := by
  have signed : a.setWidth 64 * b.setWidth 64 = a.signExtend 64 * b.signExtend 64 :=
    calc a.setWidth 64 * b.setWidth 64 = BitVec.ofInt 64 (a.toNat * b.toNat) := by
          rw [BitVec.ofInt_mul, BitVec.ofInt_natCast, BitVec.ofInt_natCast, BitVec.ofNat_toNat, BitVec.ofNat_toNat]
      _ = BitVec.ofInt 64 (a.toInt * b.toInt) := by rw [agree]; simp [BitVec.ofInt]
      _ = a.signExtend 64 * b.signExtend 64 := BitVec.ofInt_mul _ _
  have small : a.toNat * b.toNat < 2 ^ 64 :=
    calc a.toNat * b.toNat < 2 ^ 32 * 2 ^ 32 := Nat.mul_lt_mul'' a.isLt b.isLt
      _ = 2 ^ 64 := by norm_num
  rw [mul64_of_agree signed, BitVec.toNat_mul, BitVec.toNat_setWidth_of_le (by decide), BitVec.toNat_setWidth_of_le (by decide),
    Nat.mod_eq_of_lt small]

/-- Settles O13: the product goes to an even pair, and an odd one is the program error of `Dev.instrOr_error`; its value is `setWidth_mul64`
and `toNat_mul64`. -/
theorem engineMultiply : Obligations.EngineMultiply := by
  refine ⟨fun s c rd ra b ready even => ?_, setWidth_mul64, fun a b => toNat_mul64, fun s c rd ra b ready odd => ?_⟩
  · rw [exec_mul, pairBad_even even]
    exact onDev_withDev s (Dev.instrOr_ready ready (Core.setPair_keeps rd fun k => mul64 (k.get ra) (k.src b)))
  · rw [exec_mul, pairBad_odd odd]
    exact onDev_withDev s (Dev.instrOr_error ready 0x01 _)

/-! ### DIV -/

/-- A write of a register leaves the flags. -/
theorem Core.set_v (k : Core) (r : GReg) (w : Word) : { k.set r w with v := k.v } = k.set r w := by
  unfold Core.set
  split <;> rfl

theorem divide_zero (a : Word) : divide a 0 = (0, true) := rfl

/-- Where both readings give one quotient, `DIV` gives it. -/
theorem divide_of_agree {a b : Word} (nonzero : b ≠ 0) (agree : a.udiv b = a.sdiv b) : divide a b = (a.udiv b, false) := by
  rw [divide, if_neg nonzero, if_pos agree]

theorem Core.divideInto_keeps (rd ra : GReg) (b : Src) : KeepsItem (Core.divideInto rd ra b) :=
  Core.set_keeps rd fun k => (divide (k.get ra) (k.src b)).1

/-- Settles O14: the instruction is `Core.divideInto`, by the quotient of `divide_zero` or `divide_of_agree`. -/
theorem engineDivide : Obligations.EngineDivide := by
  intro s c rd ra b ready
  rw [exec_div, onDev_instr ready (Core.divideInto_keeps rd ra b)]
  refine ⟨_, rfl, rfl, rfl, fun zero => ?_, fun nonzero agree => ?_⟩
  · refine Dev.executed_congr ?_
    rw [Core.divideInto, Core.src_setPc, zero, divide_zero, Bool.or_true]
  · refine Dev.executed_congr ?_
    rw [Core.divideInto, Core.src_setPc, Core.get_setPc, divide_of_agree nonzero agree, Bool.or_false]
    exact Core.set_v _ _ _

end Sys2Proof.Machine
end

section
/-! SUPPORT. Loads and stores of a core (R188, R214, R217), and its branches, jumps, calls and returns (R197). -/

namespace Sys2Proof.Machine

/-! ### What the instructions act by -/

theorem exec_ld (c : CoreId) (size : Size) (rd ra : GReg) (off : Word) (s : State) :
    exec (.ld c size rd ra off) s = s.onDev (coreLoad c size rd ra off) := rfl
theorem exec_st (c : CoreId) (size : Size) (rs ra : GReg) (off : Word) (s : State) :
    exec (.st c size rs ra off) s = s.onDev (coreStore c size rs ra off) := rfl
theorem exec_b (c : CoreId) (flag : FlagName) (want : Bool) (target : Nat) (s : State) :
    exec (.b c flag want target) s = s.onDev (coreBranch c flag want target) := rfl
theorem exec_j (c : CoreId) (target : Nat) (s : State) :
    exec (.j c target) s = s.onDev fun d => d.instr c 2 fun k => { k with pc := target } := rfl
theorem exec_call (c : CoreId) (target : Nat) (s : State) : exec (.call c target) s = s.onDev (coreCall c target) := rfl
theorem exec_ret (c : CoreId) (s : State) : exec (.ret c) s = s.onDev (coreReturn c) := rfl

/-! ### Loads -/

/-- Nothing stops an aligned load from a place that data can be read from, into a register that can take it (R215). -/
theorem loadBad_none {c addr : Nat} {size : Size} {rd : GReg} (mapped : region c addr (szBytes size) ≠ .none)
    (data : region c addr (szBytes size) ≠ .code) (aligned : addr % szBytes size = 0) (pair : size = .dword → rd.val % 2 = 0) :
    loadBad c addr size rd = none := by
  have even : ¬(size = .dword ∧ rd.val % 2 = 1) := fun ⟨wide, odd⟩ => by
    have := pair wide
    omega
  simp [loadBad, even, mapped, data, aligned]

/-- A load that nothing stops: its register or pair takes the value that its bytes spell, least significant first. -/
theorem coreLoad_ready {d : Dev} {c : Nat} {size : Size} {rd ra : GReg} {off : Word}
    (ready : d.ready c (loadCost c ((d.core c).get ra + off).toNat (szBytes size)))
    (fine : loadBad c ((d.core c).get ra + off).toNat size rd = none) :
    coreLoad c size rd ra off d = d.executed c (loadCost c ((d.core c).get ra + off).toNat (szBytes size)) fun k =>
      if size = .dword then k.setPair rd (BitVec.ofNat 64 (ofLe (d.loadBytes c ((d.core c).get ra + off).toNat (szBytes size))))
      else k.set rd (BitVec.ofNat 32 (ofLe (d.loadBytes c ((d.core c).get ra + off).toNat (szBytes size)))) := by
  simp only [coreLoad, fine]
  refine Dev.instrOr_ready ready ?_
  split
  · exact Core.setPair_keeps rd _
  · exact Core.set_keeps rd _

/-- Settles O15: nothing stops the load (`loadBad_none`), so it writes its register or pair (`coreLoad_ready`). -/
theorem engineLoad : Obligations.EngineLoad := by
  intro s c size rd ra off addr r ready mapped data aligned pair
  rw [exec_ld, onDev_withDev s (coreLoad_ready ready (loadBad_none mapped data aligned pair))]
  by_cases wide : size = .dword
  · subst wide; rfl
  · simp only [wide, if_false]; rfl

/-! ### Stores -/

/-- An access in the region of data memory lies in data memory. -/
theorem inDmem_of_region {c addr n : Nat} (place : region c addr n = .dmem) : inDmem c addr n = true := by
  unfold region at place
  by_cases inside : inDmem c addr n = true
  · exact inside
  · unfold inDmem at inside
    simp only [inside, Bool.false_eq_true, if_false] at place
    repeat' split at place
    all_goals cases place

theorem inDmem_base {c addr n : Nat} (inside : inDmem c addr n = true) : dmemBase c ≤ addr := by
  simp only [inDmem, Bool.and_eq_true, decide_eq_true_eq] at inside
  exact inside.1

/-- Nothing stops an aligned store to data memory from a register that can give it (R215). -/
theorem Dev.storeBad_dmem {d : Dev} {c addr : Nat} {size : Size} {rs : GReg} (place : region c addr (szBytes size) = .dmem)
    (aligned : addr % szBytes size = 0) (pair : size = .dword → rs.val % 2 = 0) : d.storeBad c addr size rs = none := by
  have even : ¬(size = .dword ∧ rs.val % 2 = 1) := fun ⟨wide, odd⟩ => by
    have := pair wide
    omega
  simp [Dev.storeBad, even, place, aligned]

/-- Nothing stops an aligned store of a word to a shared word that the core's image owns (R213, R215). -/
theorem Dev.storeBad_shared {d : Dev} {c addr : Nat} {rs : GReg} (place : region c addr 4 = .shared) (aligned : addr % 4 = 0)
    (first : (d.core c).image.col.svFirst ≤ (addr - 0x30000000) / 8)
    (last : (addr - 0x30000000) / 8 < (d.core c).image.col.svFirst + (d.core c).image.col.svCount) : d.storeBad c addr .word rs = none := by
  have owned : ¬((addr - 0x30000000) / 8 < (d.core c).image.col.svFirst ∨
      (d.core c).image.col.svFirst + (d.core c).image.col.svCount ≤ (addr - 0x30000000) / 8) := by omega
  simp [Dev.storeBad, szBytes, place, aligned, owned]

/-- A store that nothing stops, of a core that can execute: the bytes are stored, and the instruction is done. -/
theorem coreStore_ready {d : Dev} {c m : Nat} {size : Size} {rs ra : GReg} {off : Word} (ready : d.ready c m)
    (fine : d.storeBad c ((d.core c).get ra + off).toNat size rs = none) :
    coreStore c size rs ra off d =
      (d.storeBytes c ((d.core c).get ra + off).toNat
        (leBytes (szBytes size) (if size = .dword then ((d.core c).getPair rs).toNat else ((d.core c).get rs).toNat))).instr c
        (storeCost c ((d.core c).get ra + off).toNat (szBytes size)) id := by
  obtain ⟨code, aligned⟩ := ready.fetches
  simp only [coreStore, fine, ready.coreBusy, code, aligned, and_self, if_true]

theorem KeepsItem.id : KeepsItem id := fun _ => ⟨rfl, rfl, rfl⟩

/-- An instruction that does nothing but pass leaves data memory. -/
theorem Dev.dmem_executed_id (d : Dev) (c n a : Nat) : (d.executed c n id).dmem c a = d.dmem c a := by
  simp only [Dev.dmem, Dev.inPersist, Dev.persistAt, Dev.executed_core]
  rfl

/-- Settles O16: the bytes that a store writes are those of `Dev.dmem_dmemStore`, and the store leaves all else of the core and of the
others (`Dev.dmemStore_core`, `Dev.dmemStore_core_ne`). -/
theorem engineStore : Obligations.EngineStore := by
  intro s c size rs ra off k addr n v ready place aligned pair
  have len : (leBytes n v).length = n := length_leBytes n v
  have above : dmemBase c ≤ addr := inDmem_base (inDmem_of_region place)
  have cost : storeCost c addr n = 1 := by simp [storeCost, place]
  obtain ⟨m, core⟩ := Dev.dmemStore_core c (leBytes n v) addr s.dev
  obtain ⟨mode, alm⟩ := Dev.dmemStore_frame c (leBytes n v) addr s.dev
  have stores : coreStore c size rs ra off s.dev = (Dev.dmemStore c addr (leBytes n v) s.dev).executed c 1 id := by
    rw [coreStore_ready ready (Dev.storeBad_dmem place aligned pair)]
    have bytes : s.dev.storeBytes c addr (leBytes n v) = Dev.dmemStore c addr (leBytes n v) s.dev := by
      simp only [Dev.storeBytes, len, place]
    exact (congrArg₂ (Dev.instr · c · id) bytes cost).trans
      (Dev.instr_ready (Dev.ready_congr mode alm core ready) KeepsItem.id)
  have after : ((Dev.dmemStore c addr (leBytes n v) s.dev).executed c 1 id).core c =
      { k with mem := m, pc := k.pc + 4, cycles := k.cycles + 1, used := k.used + 1 } := by
    rw [Dev.executed_core, core]
    rfl
  refine ⟨_, onDev_withDev s stores, rfl, rfl, fun i hi => ?_, fun a outside => ?_, fun r => ?_, ?_, ?_, fun e other => ?_⟩
  · exact (Dev.dmem_executed_id _ _ _ _).trans (by rw [Dev.dmem_dmemStore _ _ _ _ _ above, if_pos (by omega), Nat.add_sub_cancel_left])
  · exact (Dev.dmem_executed_id _ _ _ _).trans (by rw [Dev.dmem_dmemStore _ _ _ _ _ above, if_neg (by omega)])
  · exact (congrArg (Core.get · r) after :)
  · exact congrArg Core.pc after
  · exact congrArg Core.cycles after
  · exact (Dev.executed_core_ne _ _ _ other).trans (Dev.dmemStore_core_ne _ _ _ _ _ other)

/-- Shared words read as the kept stores hold them, whatever the open transit has stored (R214). -/
theorem Dev.loadBytes_shared (d d' : Dev) (same : d'.kept = d.kept) {e a n : Nat} (place : region e a n = .shared) :
    d'.loadBytes e a n = d.loadBytes e a n := by
  simp only [Dev.loadBytes, place, same]

/-- A store to a shared word waits behind the stores of the open transit (R214). -/
theorem Dev.storeBytes_shared (d : Dev) {c addr : Nat} {b : List Byte} (place : region c addr b.length = .shared) :
    ∃ waiting, d.storeBytes c addr b = { d with sharedPend := waiting } := by
  simp only [Dev.storeBytes, place]
  exact ⟨_, rfl⟩

/-- Settles O17: the store waits behind those of the open transit (`Dev.storeBytes_shared`), and loads read the kept words
(`Dev.loadBytes_shared`). -/
theorem sharedStoreWaits : Obligations.SharedStoreWaits := by
  intro s c rs ra off k addr w ready place aligned first last
  have cost : storeCost c addr 4 = 2 := by simp [storeCost, place]
  obtain ⟨waiting, bytes⟩ := s.dev.storeBytes_shared (b := leBytes 4 (k.get rs).toNat)
    ((congrArg (region c addr) (length_leBytes 4 _)).trans place)
  have stores : coreStore c .word rs ra off s.dev = Dev.executed { s.dev with sharedPend := waiting } c 2 id := by
    rw [coreStore_ready ready (Dev.storeBad_shared place aligned first last)]
    exact (congrArg₂ (Dev.instr · c · id) bytes cost).trans (Dev.instr_ready (n := 2) ready KeepsItem.id)
  refine ⟨_, (exec_st c .word rs ra off s).trans (onDev_withDev s stores), ?_, fun e a n shared => ?_⟩
  · exact congrArg Core.cycles (Dev.executed_core _ _ _ _)
  · exact Dev.loadBytes_shared _ _ (by rfl) shared

/-! ### Control flow -/

/-- Settles O18: each instruction acts on the core's program counter and stack alone. -/
theorem engineControlFlow : Obligations.EngineControlFlow := by
  intro s c flag want target ret rest ready
  refine ⟨?_, ?_, fun room => ?_, fun top => ?_⟩
  · rw [exec_b]
    refine onDev_withDev s ?_
    by_cases taken : (s.dev.core c).flag flag = want
    · simp only [coreBranch, taken, beq_self_eq_true, if_true]
      exact Dev.instr_ready ready fun k => ⟨rfl, rfl, rfl⟩
    · simp only [coreBranch, taken, beq_iff_eq, if_false]
      exact Dev.instr_ready (ready.mono (by decide)) KeepsItem.id
  · exact onDev_instr ready fun k => ⟨rfl, rfl, rfl⟩
  · have fine : ¬((s.dev.core c).scratch c < 4 * ((s.dev.core c).stack.length + 1)) := by omega
    rw [exec_call]
    refine onDev_withDev s ?_
    simp only [coreCall, fine, if_false]
    exact Dev.instrOr_ready ready fun k => ⟨rfl, rfl, rfl⟩
  · rw [exec_ret]
    refine onDev_withDev s ?_
    simp only [coreReturn, top]
    exact Dev.instr_ready ready fun k => ⟨rfl, rfl, rfl⟩

end Sys2Proof.Machine
end

section
/-! SUPPORT. Signals: where their bits lie (R202), what is extracted and delivered (R203), and that a core without an item executes none
of its instructions (R193). -/

namespace Sys2Proof.Machine

/-! ### What the instructions act by -/

theorem exec_sgx (c : CoreId) (rd : GReg) (desc : Src) (ra : GReg) (s : State) :
    exec (.sgx c rd desc ra) s = s.onDev (coreSgx c rd desc ra) := rfl
theorem exec_sgp (c : CoreId) (rs : GReg) (desc : Src) (ra : GReg) (s : State) :
    exec (.sgp c rs desc ra) s = s.onDev (coreSgp c rs desc ra) := rfl

/-! ### Where the bits of a signal lie -/

/-- The place of a buffer position when the bits of each byte are counted from the most significant one: what the big-endian order
counts upward. -/
def msbFirst (p : Nat) : Nat := 8 * (p / 8) + (7 - p % 8)

theorem msbFirst_msbFirst (p : Nat) : msbFirst (msbFirst p) = p := by unfold msbFirst; omega

/-- A step of the big-endian walk goes one place on. -/
theorem msbFirst_succ (p : Nat) : (if p % 8 = 0 then p + 15 else p - 1) = msbFirst (msbFirst p + 1) := by unfold msbFirst; split <;> omega

/-- The big-endian walk, in closed form. -/
theorem bigWalk_eq (n pos : Nat) : bigWalk n pos = (List.range n).map fun i => msbFirst (msbFirst pos + i) := by
  induction n generalizing pos with
  | zero => rfl
  | succ n ih =>
    have next : (fun i => msbFirst (msbFirst (msbFirst (msbFirst pos + 1)) + i)) = (fun i => msbFirst (msbFirst pos + i)) ∘ Nat.succ := by
      funext i
      rw [msbFirst_msbFirst, Function.comp, Nat.add_assoc, Nat.add_comm 1]
    rw [bigWalk, msbFirst_succ, ih, next, List.range_succ_eq_map, List.map_cons, Nat.add_zero, msbFirst_msbFirst, List.map_map]

@[simp] theorem length_sigBits (s : Word) : (sigBits s).length = sigLen s := by
  unfold sigBits
  split <;> simp [bigWalk_eq]

/-- The position of bit `i` of a signal. -/
theorem getD_sigBits (s : Word) {i : Nat} (h : i < sigLen s) :
    (sigBits s).getD i 0 = if sigOrder s then msbFirst (msbFirst (sigStart s) + (sigLen s - 1 - i)) else sigStart s + i := by
  rw [List.getD_eq_getElem _ _ (by simpa using h)]
  unfold sigBits
  by_cases big : sigOrder s = true
  · simp [big, bigWalk_eq]
  · simp [big]

/-! ### The value of a signal -/

/-- The number whose bits are listed, the least significant first; a bit that could not be read counts 0. -/
def bitsSum (l : List (Option Bool)) : Nat := (l.mapIdx fun i b => if b.getD false then 2 ^ i else 0).sum

theorem bitsSum_cons (b : Option Bool) (l : List (Option Bool)) : bitsSum (b :: l) = 2 * bitsSum l + (b.getD false).toNat := by
  have double : (l.mapIdx fun i b => if b.getD false then 2 ^ (i + 1) else 0) =
      (l.mapIdx fun i b => if b.getD false then 2 ^ i else 0).map (2 * ·) := by
    refine List.ext_getElem (by simp) fun i _ _ => ?_
    simp only [List.getElem_map, List.getElem_mapIdx, pow_succ', mul_ite, mul_zero]
  have first : (if b.getD false then 2 ^ 0 else 0) = (b.getD false).toNat := by cases b.getD false <;> rfl
  rw [bitsSum, bitsSum, List.mapIdx_cons, List.sum_cons, double, List.sum_map_mul_left _ fun x => x, List.map_id', first, Nat.add_comm]

theorem testBit_bitsSum (l : List (Option Bool)) (i : Nat) : (bitsSum l).testBit i = (l.getD i none).getD false := by
  induction l generalizing i with
  | nil => simp [bitsSum]
  | cons b l ih =>
    rw [bitsSum_cons]
    cases i with
    | zero => cases h : b.getD false <;> simp [h, Nat.testBit_zero]
    | succ i =>
      rw [Nat.testBit_succ, List.getD_cons_succ, ← ih]
      congr 1
      have := (b.getD false).toNat_lt
      omega

theorem bitsSum_lt (l : List (Option Bool)) : bitsSum l < 2 ^ l.length := by
  induction l with
  | nil => simp [bitsSum]
  | cons b l ih =>
    have := (b.getD false).toNat_lt
    rw [bitsSum_cons, List.length_cons, pow_succ]
    omega

/-- A bit of the buffer, where it can be reached. -/
def Dev.sigBit (d : Dev) (c base pos : Nat) : Option Bool := (d.sigByte c base (pos / 8)).map fun b => b.getLsbD (pos % 8)

theorem Dev.sigValue_eq (d : Dev) (c base : Nat) (s : Word) :
    d.sigValue c base s = (bitsSum ((sigBits s).map (d.sigBit c base)), ((sigBits s).map (d.sigBit c base)).any (·.isNone)) := rfl

/-- Each bit of a signal's value is the buffer's bit at its position (R203). -/
theorem Dev.testBit_sigValue (d : Dev) (c base : Nat) (s : Word) {i : Nat} (h : i < sigLen s) :
    (d.sigValue c base s).1.testBit i = (d.sigBit c base ((sigBits s).getD i 0)).getD false := by
  have inside : i < (sigBits s).length := by simpa using h
  rw [Dev.sigValue_eq, testBit_bitsSum, List.getD_eq_getElem _ _ (by simpa using inside), List.getElem_map, List.getD_eq_getElem _ _ inside]

theorem Dev.sigValue_lt (d : Dev) (c base : Nat) (s : Word) : (d.sigValue c base s).1 < 2 ^ sigLen s := by
  have bound := bitsSum_lt ((sigBits s).map (d.sigBit c base))
  rwa [List.length_map, length_sigBits] at bound

/-- A bit lies out of reach where its byte does (R203). -/
theorem Dev.sigValue_nv (d : Dev) (c base : Nat) (s : Word) :
    (d.sigValue c base s).2 = true ↔ ∃ i, i < sigLen s ∧ d.sigByte c base ((sigBits s).getD i 0 / 8) = none := by
  have unread (pos : Nat) : (d.sigBit c base pos).isNone = true ↔ d.sigByte c base (pos / 8) = none := by simp [Dev.sigBit]
  simp only [Dev.sigValue_eq, List.any_map, List.any_eq_true, Function.comp, unread, List.exists_mem_iff_getElem, length_sigBits]
  refine exists_congr fun i => ⟨fun ⟨hi, out⟩ => ⟨hi, ?_⟩, fun ⟨hi, out⟩ => ⟨hi, ?_⟩⟩
  · rwa [List.getD_eq_getElem _ _ (by simpa using hi)]
  · rwa [List.getD_eq_getElem _ _ (by simpa using hi)] at out

/-- Settles O21: positions in closed form (`getD_sigBits`), and the value's bits (`Dev.testBit_sigValue`). -/
theorem signalBitPositions : Obligations.SignalBitPositions := by
  intro s
  refine ⟨length_sigBits s, fun d c base i b hi read => ?_, fun little i hi => ?_, fun big => ⟨?_, fun i hi => ?_⟩⟩
  · rw [Dev.testBit_sigValue _ _ _ _ hi, Dev.sigBit, read]
    rfl
  · rw [getD_sigBits s hi, little]
    rfl
  · have pos : 0 < sigLen s := Nat.succ_pos _
    rw [getD_sigBits s (by omega), if_pos big, Nat.sub_self, Nat.add_zero, msbFirst_msbFirst]
  · simp only [getD_sigBits s hi, getD_sigBits s (show i < sigLen s by omega), big, if_true, msbFirst_succ, msbFirst_msbFirst]
    congr 1
    omega

/-! ### Extraction -/

/-- The 64 bits to which a signal's value is extended (R203). -/
def extended (len v : Nat) (signed : Bool) : DWord := if signed then (BitVec.ofNat len v).signExtend 64 else BitVec.ofNat 64 v

theorem Core.deliver_wide (k : Core) (rd : GReg) {len : Nat} (v : Nat) (signed : Bool) (wide : 32 < len) :
    k.deliver rd len v signed = k.setPair rd (extended len v signed) := if_pos wide

theorem Core.deliver_narrow (k : Core) (rd : GReg) {len : Nat} (v : Nat) (signed : Bool) (narrow : len ≤ 32) :
    k.deliver rd len v signed = k.set rd ((extended len v signed).setWidth 32) := if_neg (Nat.not_lt.mpr narrow)

/-- A delivery changes general registers only, and `NV` with them. -/
theorem Core.deliver_keeps (rd : GReg) (len v : Nat) (signed nv : Bool) :
    KeepsItem fun k => { k.deliver rd len v signed with nv := nv } := by
  intro k
  rcases Nat.lt_or_ge 32 len with wide | narrow
  · simp only [Core.deliver_wide _ _ _ _ wide]
    exact Core.setPair_keeps rd (fun _ => extended len v signed) k
  · simp only [Core.deliver_narrow _ _ _ _ narrow]
    exact Core.set_keeps rd (fun _ => (extended len v signed).setWidth 32) k

/-- A register that can take a signal (R187, R203). -/
theorem sigPairBad_none {sig : Word} {rd : GReg} (pair : 32 < sigLen sig → rd.val % 2 = 0) : sigPairBad sig rd = none := by
  have even : ¬(32 < sigLen sig ∧ rd.val % 2 = 1) := fun ⟨wide, odd⟩ => by
    have := pair wide
    omega
  rw [sigPairBad, if_neg even]

/-- `SGX` from a place that signals are read from, into a register that can take the signal. -/
theorem coreSgx_ready {d : Dev} {c : Nat} {rd ra : GReg} {desc : Src}
    (ready : d.ready c (if 32 < sigLen ((d.core c).src desc) then 5 else 3))
    (place : region c ((d.core c).get ra).toNat 1 = .window ∨ region c ((d.core c).get ra).toNat 1 = .dmem)
    (pair : 32 < sigLen ((d.core c).src desc) → rd.val % 2 = 0) :
    coreSgx c rd desc ra d = d.executed c (if 32 < sigLen ((d.core c).src desc) then 5 else 3) fun k =>
      { k.deliver rd (sigLen ((d.core c).src desc)) (d.sigValue c ((d.core c).get ra).toNat ((d.core c).src desc)).1
          (sigSigned ((d.core c).src desc)) with
        nv := (d.sigValue c ((d.core c).get ra).toNat ((d.core c).src desc)).2 } := by
  rcases place with place | place
  all_goals
    simp only [coreSgx, sigPairBad_none pair, place]
    exact Dev.instrOr_ready ready (Core.deliver_keeps rd _ _ _ _)

/-- Settles O22: the value delivered and `NV` are `Dev.sigValue`'s. -/
theorem signalExtract : Obligations.SignalExtract := by
  intro s c rd ra desc k base sig cost ready place pair
  refine ⟨(s.dev.sigValue c base sig).1, (s.dev.sigValue c base sig).2, ?_, Dev.sigValue_lt _ _ _ _, fun i hi => ?_,
    Dev.sigValue_nv _ _ _ _⟩
  · rw [exec_sgx]
    exact onDev_withDev s (coreSgx_ready ready place pair)
  · rw [Dev.testBit_sigValue _ _ _ _ hi, Dev.sigBit]
    dsimp only
    cases s.dev.sigByte c base ((sigBits sig).getD i 0 / 8) <;> rfl

/-! ### Delivery -/

/-- The second register of a pair that an even register names. -/
theorem pair_high {r : GReg} (even : r.val % 2 = 0) : (r.val + 1) % 32 = r.val + 1 := Nat.mod_eq_of_lt (by omega)

/-- A pair reads what was written to it (R187). -/
theorem Core.getPair_setPair (k : Core) {r : GReg} (w : DWord) (nonzero : r ≠ 0) (even : r.val % 2 = 0) :
    (k.setPair r w).getPair r = w := by
  have some : r.val ≠ 0 := fun zero => nonzero (Fin.ext zero)
  have low : (k.setPair r w).get r = w.setWidth 32 := by
    have other : r ≠ ⟨(r.val + 1) % 32, Nat.mod_lt _ (by decide)⟩ := fun same => by
      have := congrArg Fin.val same
      simp only [pair_high even] at this
      omega
    rw [Core.setPair, Core.get_set, if_neg (fun h => other h.1), Core.get_set, if_pos ⟨rfl, some⟩]
  have high : sget (k.setPair r w).g (r.val + 1) = (w >>> 32).setWidth 32 := by
    simp only [Core.setPair, Core.set, pair_high even, some, if_false, Nat.succ_ne_zero, sget_sput_same]
  rw [Core.getPair, low, high]
  refine BitVec.eq_of_getLsbD_eq fun i hi => ?_
  by_cases below : i < 32
  · simp [below, hi]
  · simp [below, hi, show i - 32 < 32 by omega, show 32 + (i - 32) = i by omega]

/-- A write of a pair leaves the other registers. -/
theorem Core.get_setPair_ne (k : Core) {r q : GReg} (w : DWord) (low : q ≠ r) (high : q.val ≠ r.val + 1) :
    (k.setPair r w).get q = k.get q := by
  have second : ¬(q = ⟨(r.val + 1) % 32, Nat.mod_lt _ (by decide)⟩ ∧ (r.val + 1) % 32 ≠ 0) := fun ⟨same, nonzero⟩ => by
    have : q.val = (r.val + 1) % 32 := congrArg Fin.val same
    omega
  rw [Core.setPair, Core.get_set, if_neg second, Core.get_set, if_neg fun h => low h.1]

/-- Two's complement of `len` bits. -/
theorem toInt_ofNat_eq {len v : Nat} (pos : 0 < len) (bound : v < 2 ^ len) :
    (BitVec.ofNat len v).toInt = if v.testBit (len - 1) then (v : Int) - 2 ^ len else v := by
  have sign : (BitVec.ofNat len v).msb = v.testBit (len - 1) := by
    rw [BitVec.msb_eq_getLsbD_last, BitVec.getLsbD_ofNat, decide_eq_true (by omega), Bool.true_and]
  rw [BitVec.toInt_eq_msb_cond, sign, BitVec.toNat_ofNat, Nat.mod_eq_of_lt bound]
  push_cast
  rfl

/-- The low word of the extension of up to 32 bits: the value itself, and with its sign. -/
theorem toNat_extended_word {len v : Nat} (narrow : len ≤ 32) (bound : v < 2 ^ len) : ((extended len v false).setWidth 32).toNat = v := by
  have : v < 2 ^ 32 := bound.trans_le (Nat.pow_le_pow_right (by decide) narrow)
  simp [extended]
  omega

theorem toInt_extended_word {len v : Nat} (narrow : len ≤ 32) :
    ((extended len v true).setWidth 32).toInt = (BitVec.ofNat len v).toInt := by
  have cut : ((BitVec.ofNat len v).signExtend 64).setWidth 32 = (BitVec.ofNat len v).signExtend 32 := by
    refine BitVec.eq_of_getLsbD_eq fun i hi => ?_
    simp only [BitVec.getLsbD_setWidth, BitVec.getLsbD_signExtend, hi, show i < 64 by omega, decide_true, Bool.true_and]
  rw [extended, if_pos rfl, cut, BitVec.toInt_signExtend_of_le narrow]

theorem toNat_extended {len v : Nat} (le : len ≤ 64) (bound : v < 2 ^ len) : (extended len v false).toNat = v :=
  (BitVec.toNat_ofNat v 64).trans (Nat.mod_eq_of_lt (bound.trans_le (Nat.pow_le_pow_right (by decide) le)))

theorem toInt_extended {len v : Nat} (le : len ≤ 64) : (extended len v true).toInt = (BitVec.ofNat len v).toInt :=
  BitVec.toInt_signExtend_of_le le

/-- Settles O23: what is written is the value extended to 64 bits, in a register its low word. -/
theorem signalDelivery : Obligations.SignalDelivery := by
  intro k rd len v q pos le bound nonzero
  refine ⟨fun narrow => ?_, fun wide even => ?_, fun low high => ?_⟩
  · have written (w : Word) : (k.set rd w).get rd = w := by
      rw [Core.get_set, if_pos ⟨rfl, fun zero => nonzero (Fin.ext zero)⟩]
    rw [Core.deliver_narrow _ _ _ _ narrow, Core.deliver_narrow _ _ _ _ narrow, written, written, toInt_extended_word narrow]
    exact ⟨toNat_extended_word narrow bound, toInt_ofNat_eq pos bound⟩
  · rw [Core.deliver_wide _ _ _ _ wide, Core.deliver_wide _ _ _ _ wide, Core.getPair_setPair _ _ nonzero even,
      Core.getPair_setPair _ _ nonzero even, toInt_extended le]
    exact ⟨toNat_extended le bound, toInt_ofNat_eq pos bound⟩
  · have kept (signed : Bool) : (k.deliver rd len v signed).get q = k.get q := by
      rcases Nat.lt_or_ge 32 len with wide | narrow
      · rw [Core.deliver_wide _ _ _ _ wide, Core.get_setPair_ne _ _ low (high wide)]
      · rw [Core.deliver_narrow _ _ _ _ narrow, Core.get_set, if_neg fun h => low h.1]
    exact ⟨kept false, kept true⟩

/-! ### A core without an item -/

/-- A command that leaves the device leaves the state. -/
theorem exec_same {i : Instr} {s : State} {f : Dev → Dev} (arm : exec i s = s.onDev f) (same : f s.dev = s.dev) : exec i s = .next s :=
  arm.trans (onDev_withDev s same)

theorem coreStore_idle {d : Dev} {c : Nat} {size : Size} {rs ra : GReg} {off : Word} (idle : d.coreBusy c = false) :
    coreStore c size rs ra off d = d := by
  simp only [coreStore, idle]
  split
  · exact Dev.instrOr_idle idle
  · exact Dev.instr_idle idle

theorem coreSgp_idle {d : Dev} {c : Nat} {rs ra : GReg} {desc : Src} (idle : d.coreBusy c = false) : coreSgp c rs desc ra d = d := by
  simp only [coreSgp, idle]
  split
  · exact Dev.instrOr_idle idle
  · exact Dev.instrOr_idle idle
  · exact Dev.instr_idle idle

/-- Settles O20: an instruction of a core without an item is no step of it (`Dev.instr_idle`, `Dev.instrOr_idle`). -/
theorem idleCoreExecutesNothing : Obligations.IdleCoreExecutesNothing := fun s c rd ra b w size target idle =>
  ⟨exec_same (exec_add c rd ra b s) (Dev.instr_idle idle), exec_same (exec_cmp c ra b s) (Dev.instr_idle idle),
    exec_same (exec_mul c rd ra b s) (Dev.instrOr_idle idle), exec_same (exec_div c rd ra b s) (Dev.instr_idle idle),
    exec_same (exec_ld c size rd ra w s) (Dev.instrOr_idle idle), exec_same (exec_st c size rd ra w s) (coreStore_idle idle),
    exec_same (exec_j c target s) (Dev.instr_idle idle), exec_same (exec_call c target s) (Dev.instrOr_idle idle),
    exec_same (exec_sgx c rd b ra s) (Dev.instrOr_idle idle), exec_same (exec_sgp c rd b ra s) (coreSgp_idle idle)⟩

end Sys2Proof.Machine
end

section
/-! SUPPORT. Packing a signal into data memory and converting a value (R204). -/

namespace Sys2Proof.Machine

/-! ### What the instructions act by -/

@[simp] theorem State.withDev_dev (s : State) (d : Dev) : (s.withDev d).dev = d := rfl

theorem exec_sgl (c : CoreId) (rd rx rb : GReg) (s : State) : exec (.sgl c rd rx rb) s = s.onDev (coreSgl c rd rx rb) := rfl

/-! ### Packing -/

/-- No two bits of a signal share a position (R202). -/
theorem nodup_sigBits (s : Word) : (sigBits s).Nodup := by
  unfold sigBits
  split
  · rw [bigWalk_eq, List.nodup_reverse]
    refine List.nodup_range.map fun i j same => ?_
    exact Nat.add_left_cancel (Function.Involutive.injective msbFirst_msbFirst same)
  · exact List.nodup_range.map fun i j same => Nat.add_left_cancel same

/-- One bit of a signal goes to its position: bit `e.1` of the value to position `e.2`. -/
def Dev.packBit (c base v : Nat) (d : Dev) (e : Nat × Nat) : Dev :=
  d.dmemPut c (base - dmemBase c + e.2 / 8)
    (if bitAt v e.1 then d.dmem c (base - dmemBase c + e.2 / 8) ||| BitVec.ofNat 8 (2 ^ (e.2 % 8))
     else d.dmem c (base - dmemBase c + e.2 / 8) &&& ~~~BitVec.ofNat 8 (2 ^ (e.2 % 8)))

theorem Dev.packBits_eq (d : Dev) (c base v : Nat) (s : Word) :
    d.packBits c base v s = ((sigBits s).mapIdx fun i pos => (i, pos)).foldl (Dev.packBit c base v) d := rfl

theorem bitAt_eq_testBit (v i : Nat) : bitAt v i = v.testBit i := by
  rw [Nat.testBit_eq_decide_div_mod_eq]; rfl

/-- What is read after one bit was packed: that bit at its position, and every other bit as before. -/
theorem Dev.getLsbD_packBit (d : Dev) (c base v : Nat) (e : Nat × Nat) (a : Nat) {j : Nat} (hj : j < 8) :
    ((Dev.packBit c base v d e).dmem c a).getLsbD j =
      if a = base - dmemBase c + e.2 / 8 ∧ j = e.2 % 8 then v.testBit e.1 else (d.dmem c a).getLsbD j := by
  have mask : (BitVec.ofNat 8 (2 ^ (e.2 % 8))).getLsbD j = decide (j = e.2 % 8) := by
    rw [BitVec.getLsbD_ofNat, decide_eq_true hj, Bool.true_and, Nat.testBit_two_pow]
    exact decide_eq_decide.mpr eq_comm
  rw [Dev.packBit, Dev.dmem_dmemPut, bitAt_eq_testBit]
  by_cases here : a = base - dmemBase c + e.2 / 8
  · subst here
    cases v.testBit e.1 with
    | true =>
      simp only [if_true, true_and, BitVec.getLsbD_or, mask]
      by_cases bit : j = e.2 % 8 <;> simp [bit]
    | false =>
      simp only [Bool.false_eq_true, if_true, if_false, true_and, BitVec.getLsbD_and, BitVec.getLsbD_not, mask, hj,
        decide_true, Bool.true_and]
      by_cases bit : j = e.2 % 8 <;> simp [bit]
  · simp [here]

/-- Packing leaves every bit that is none of the positions. -/
theorem Dev.getLsbD_foldl_packBit_outside (c base v a : Nat) {j : Nat} (hj : j < 8) (l : List (Nat × Nat)) (d : Dev)
    (outside : ∀ e ∈ l, ¬(a = base - dmemBase c + e.2 / 8 ∧ j = e.2 % 8)) :
    ((l.foldl (Dev.packBit c base v) d).dmem c a).getLsbD j = (d.dmem c a).getLsbD j := by
  induction l generalizing d with
  | nil => rfl
  | cons e l ih =>
    rw [List.foldl_cons, ih _ fun e he => outside e (List.mem_cons_of_mem _ he), Dev.getLsbD_packBit _ _ _ _ _ _ hj,
      if_neg (outside e List.mem_cons_self)]

/-- Packing puts each bit at its position, for later bits go to others. -/
theorem Dev.getLsbD_foldl_packBit_inside (c base v : Nat) (l : List (Nat × Nat)) (d : Dev) (distinct : (l.map Prod.snd).Nodup)
    {i pos : Nat} (packed : (i, pos) ∈ l) :
    ((l.foldl (Dev.packBit c base v) d).dmem c (base - dmemBase c + pos / 8)).getLsbD (pos % 8) = v.testBit i := by
  induction l generalizing d with
  | nil => cases packed
  | cons x l ih =>
    obtain ⟨fresh, distinct⟩ := List.nodup_cons.mp distinct
    rw [List.foldl_cons]
    rcases List.mem_cons.mp packed with rfl | packed
    · have others : ∀ y ∈ l, ¬(base - dmemBase c + pos / 8 = base - dmemBase c + y.2 / 8 ∧ pos % 8 = y.2 % 8) := fun y hy same => by
        have : y.2 = pos := by omega
        have shared : y.2 ∈ l.map Prod.snd := List.mem_map_of_mem hy
        exact fresh (this ▸ shared)
      rw [Dev.getLsbD_foldl_packBit_outside c base v _ (by omega) l _ others, Dev.getLsbD_packBit _ _ _ _ _ _ (by omega),
        if_pos ⟨rfl, rfl⟩]
    · exact ih _ distinct packed

/-- Packing changes of its core the memory alone. -/
theorem Dev.foldl_packBit_core (c base v : Nat) (l : List (Nat × Nat)) (d : Dev) :
    ∃ m, (l.foldl (Dev.packBit c base v) d).core c = { d.core c with mem := m } := by
  induction l generalizing d with
  | nil => exact ⟨(d.core c).mem, rfl⟩
  | cons e l ih =>
    obtain ⟨m, hm⟩ := ih (Dev.packBit c base v d e)
    obtain ⟨m', hm'⟩ : ∃ m, (Dev.packBit c base v d e).core c = { d.core c with mem := m } := Dev.dmemPut_core _ _ _ _
    exact ⟨m, by rw [List.foldl_cons, hm, hm']⟩

theorem Dev.foldl_packBit_core_ne (c base v : Nat) (l : List (Nat × Nat)) (d : Dev) {e : Nat} (other : e ≠ c) :
    (l.foldl (Dev.packBit c base v) d).core e = d.core e := by
  induction l generalizing d with
  | nil => rfl
  | cons x l ih => exact (ih _).trans (Dev.dmemPut_core_ne _ _ _ _ _ other)

/-- The positions that a signal is packed at are its own. -/
theorem map_snd_mapIdx (l : List Nat) : (l.mapIdx fun i pos => (i, pos)).map Prod.snd = l := by
  refine List.ext_getElem (by simp) fun i _ _ => ?_
  simp only [List.getElem_map, List.getElem_mapIdx]

theorem mem_mapIdx_getD (l : List Nat) {i : Nat} (h : i < l.length) : (i, l.getD i 0) ∈ l.mapIdx fun i pos => (i, pos) :=
  List.mem_mapIdx.mpr ⟨i, h, by rw [List.getD_eq_getElem _ _ h]⟩

/-- A packed signal is read at its positions (R202, R204). -/
theorem Dev.getLsbD_packBits (d : Dev) (c base v : Nat) (s : Word) {i : Nat} (hi : i < sigLen s) :
    ((d.packBits c base v s).dmem c (base - dmemBase c + (sigBits s).getD i 0 / 8)).getLsbD ((sigBits s).getD i 0 % 8) = v.testBit i := by
  have distinct : (((sigBits s).mapIdx fun i pos => (i, pos)).map Prod.snd).Nodup := by
    rw [map_snd_mapIdx]
    exact nodup_sigBits s
  have packed := mem_mapIdx_getD (sigBits s) ((length_sigBits s).symm ▸ hi)
  rw [Dev.packBits_eq]
  exact Dev.getLsbD_foldl_packBit_inside c base v _ d distinct packed

/-- Every other bit of data memory reads as before (R204). -/
theorem Dev.getLsbD_packBits_outside (d : Dev) (c base v : Nat) (s : Word) (a : Nat) {j : Nat} (hj : j < 8)
    (outside : ∀ p ∈ sigBits s, ¬(a = base - dmemBase c + p / 8 ∧ j = p % 8)) :
    ((d.packBits c base v s).dmem c a).getLsbD j = (d.dmem c a).getLsbD j := by
  rw [Dev.packBits_eq]
  refine Dev.getLsbD_foldl_packBit_outside c base v a hj _ d fun e he => outside e.2 ?_
  have := List.mem_map_of_mem (f := Prod.snd) he
  rwa [map_snd_mapIdx] at this

theorem Dev.packBits_core (d : Dev) (c base v : Nat) (s : Word) : ∃ m, (d.packBits c base v s).core c = { d.core c with mem := m } :=
  Dev.foldl_packBit_core c base v _ d

theorem Dev.packBits_core_ne (d : Dev) (c base v : Nat) (s : Word) {e : Nat} (other : e ≠ c) :
    (d.packBits c base v s).core e = d.core e :=
  Dev.foldl_packBit_core_ne c base v _ d other

/-- `SGP` into data memory, from a register that can give the signal: the bits are packed, and the instruction is done. -/
theorem coreSgp_ready {d : Dev} {c : Nat} {rs ra : GReg} {desc : Src}
    (ready : d.ready c (if 32 < sigLen ((d.core c).src desc) then 5 else 3))
    (inside : ∀ p ∈ sigBits ((d.core c).src desc), inDmem c (((d.core c).get ra).toNat + p / 8) 1 = true)
    (pair : 32 < sigLen ((d.core c).src desc) → rs.val % 2 = 0) :
    coreSgp c rs desc ra d =
      (d.packBits c ((d.core c).get ra).toNat
        (if 32 < sigLen ((d.core c).src desc) then ((d.core c).getPair rs).toNat else ((d.core c).get rs).toNat)
        ((d.core c).src desc)).executed c (if 32 < sigLen ((d.core c).src desc) then 5 else 3) id := by
  obtain ⟨code, aligned⟩ := ready.fetches
  have reached : ((sigBits ((d.core c).src desc)).findSome? fun pos => dstBad c (((d.core c).get ra).toNat + pos / 8) 1) = none :=
    List.findSome?_eq_none_iff.mpr fun p hp => dstBad_inDmem (inside p hp)
  simp only [coreSgp, reached, sigPairBad_none pair, ready.coreBusy, code, aligned, and_self, if_true]
  exact Dev.instr_ready (Dev.packBits_ready _ _ _ ready) KeepsItem.id

/-- Settles O60, by `coreSgp_ready`. -/
theorem signalPackCompletes : Obligations.SignalPackCompletes := by
  intro s c rs ra desc k base sig cost v ready inside pair
  rw [exec_sgp]
  exact onDev_withDev s (coreSgp_ready ready inside pair)

/-- Settles O24: what is packed is read at its positions (`Dev.getLsbD_packBits`, `Dev.getLsbD_packBits_outside`), and nothing else of
the cores changes but the cycles and the program counter. -/
theorem signalPack : Obligations.SignalPack := by
  intro s c rs ra desc k base sig cost v ready inside pair
  obtain ⟨m, core⟩ := s.dev.packBits_core c base v sig
  have after : ((s.dev.packBits c base v sig).executed c cost id).core c =
      { k with mem := m, pc := k.pc + 4, cycles := k.cycles + cost, used := k.used + cost } := by
    rw [Dev.executed_core, core]
    rfl
  refine ⟨_, signalPackCompletes s c rs ra desc ready inside pair, rfl, rfl, fun i hi => ?_, fun a j hj outside => ?_,
    fun r => ?_, ?_, ?_, fun e other => ?_⟩
  · rw [State.withDev_dev, Dev.dmem_executed_id]
    exact Dev.getLsbD_packBits s.dev c base v sig hi
  · rw [State.withDev_dev, Dev.dmem_executed_id]
    exact Dev.getLsbD_packBits_outside s.dev c base v sig a hj outside
  · exact (congrArg (Core.get · r) after :)
  · exact congrArg Core.cycles after
  · exact congrArg Core.pc after
  · exact (Dev.executed_core_ne _ _ _ other).trans (Dev.packBits_core_ne _ _ _ _ _ other)

/-! ### Conversion -/

/-- Two's complement as numbers spell it is that of words. -/
theorem toInt_eq_toInt_ofNat {k : Nat} (pos : 0 < k) (n : Nat) : toInt k n = (BitVec.ofNat k n).toInt := by
  have half : 2 ^ k = 2 * 2 ^ (k - 1) := by rw [← pow_succ', Nat.sub_add_cancel pos]
  have sign : n % 2 ^ k < 2 ^ (k - 1) ↔ 2 * (n % 2 ^ k) < 2 ^ k := by omega
  simp only [toInt, BitVec.toInt_eq_toNat_cond, BitVec.toNat_ofNat, sign]
  norm_cast

theorem toInt_toNat_eq {k : Nat} (pos : 0 < k) (w : BitVec k) : toInt k w.toNat = w.toInt := by
  rw [toInt_eq_toInt_ofNat pos, BitVec.ofNat_toNat, BitVec.setWidth_eq]

/-- Confining to a range is taking the nearest of its numbers. -/
theorem clampI_eq {lo hi : Int} (le : lo ≤ hi) (y : Int) : clampI y lo hi = max lo (min hi y) := by
  unfold clampI
  split
  · omega
  · split <;> omega

/-- The range of a target (R204). -/
theorem target_range (signed : Bool) (n : Nat) :
    (if signed then -(2 ^ (n - 1) : Int) else 0) ≤ if signed then (2 ^ (n - 1) : Int) - 1 else (2 ^ n : Int) - 1 := by
  have half : (0 : Int) < 2 ^ (n - 1) := by positivity
  have whole : (0 : Int) < 2 ^ n := by positivity
  cases signed with
  | true => simp only [if_true]; omega
  | false => simp only [Bool.false_eq_true, if_false]; omega

/-- The descriptor of the target in a parameter block (R204). -/
def sglTarget (blk : List Byte) : Word := BitVec.ofNat 32 (ofLe (slice blk 8 4))

/-- The value that `SGL` converts: of a register or a pair, unsigned or signed, as the parameter block says (R204). -/
def Core.sglValue (k : Core) (rx : GReg) (blk : List Byte) : Int :=
  let raw := if bitAt (byteAt blk 3) 1 then (k.getPair rx).toNat else (k.get rx).toNat
  if bitAt (byteAt blk 3) 0 then toInt (if bitAt (byteAt blk 3) 1 then 64 else 32) raw else raw

/-- A signed value is that of its word or pair. -/
theorem Core.sglValue_eq (k : Core) (rx : GReg) (blk : List Byte) :
    k.sglValue rx blk =
      if bitAt (byteAt blk 3) 0 then (if bitAt (byteAt blk 3) 1 then (k.getPair rx).toInt else (k.get rx).toInt)
      else ((if bitAt (byteAt blk 3) 1 then (k.getPair rx).toNat else (k.get rx).toNat : Nat) : Int) := by
  cases wide : bitAt (byteAt blk 3) 1 with
  | true => simp only [Core.sglValue, wide, if_true, toInt_toNat_eq (show 0 < 64 by decide)]
  | false => simp only [Core.sglValue, wide, Bool.false_eq_true, if_false, toInt_toNat_eq (show 0 < 32 by decide)]

/-- `SGL` with its block in data memory, from a register that can give the value and into one that can take the result. -/
theorem coreSgl_ready {d : Dev} {c : Nat} {rd rx rb : GReg} {blk : List Byte} (ready : d.ready c 6)
    (block : d.dmemBytes c ((d.core c).get rb).toNat 16 = blk) (inside : inDmem c ((d.core c).get rb).toNat 16 = true)
    (source : bitAt (byteAt blk 3) 1 = true → rx.val % 2 = 0) (dest : 32 < sigLen (sglTarget blk) → rd.val % 2 = 0) :
    coreSgl c rd rx rb d = d.executed c 6 fun k =>
      { k.deliver rd (sigLen (sglTarget blk)) (ofInt (sigLen (sglTarget blk)) (convert ((d.core c).sglValue rx blk) blk).1)
          (sigSigned (sglTarget blk)) with
        nv := (convert ((d.core c).sglValue rx blk) blk).2 } := by
  have even : ¬(bitAt (byteAt blk 3) 1 = true ∧ rx.val % 2 = 1) := fun ⟨wide, odd⟩ => by
    have := source wide
    omega
  have fine : sigPairBad (BitVec.ofNat 32 (ofLe (slice blk 8 4))) rd = none := sigPairBad_none dest
  simp only [coreSgl, block, inside, even, fine, Bool.not_true, Bool.false_eq_true, if_false]
  exact Dev.instrOr_ready ready (Core.deliver_keeps rd _ _ _ _)

/-- Settles O25: the instruction is `coreSgl_ready`, and what `convert` answers is the value of the rule: factor and offset in two's
complement (`toInt_eq_toInt_ofNat`), confined to the target's range (`clampI_eq`). -/
theorem signalConvert : Obligations.SignalConvert := by
  intro s c rd rx rb k blk wide raw x a b target n y low high z ready inside source dest
  have factor : toInt 16 (ofLe (slice blk 0 2)) = a := toInt_eq_toInt_ofNat (by decide) _
  have offset : toInt 32 (ofLe (slice blk 4 4)) = b := toInt_eq_toInt_ofNat (by decide) _
  have clamped : clampI y low high = z := clampI_eq (target_range (sigSigned target) n) y
  have saturated : (z != y) = decide (z ≠ y) := by rw [bne, decide_not]; rfl
  have value : convert (k.sglValue rx blk) blk = (z, decide (z ≠ y)) := by
    rw [k.sglValue_eq rx blk, convert, factor, offset]
    exact (congrArg (fun z => (z, z != y)) clamped).trans (congrArg (z, ·) saturated)
  have converts := coreSgl_ready (blk := blk) ready rfl inside source dest
  rw [value] at converts
  rw [exec_sgl, onDev_withDev s converts]
  rfl

end Sys2Proof.Machine
end

section
/-! SUPPORT. The end of an item at `END` (R196, R215), and the helper calls. -/

namespace Sys2Proof.Machine

/-! ### What the instruction acts by -/

theorem exec_endItem (t : Nat) (c : CoreId) (code : Nat) (s : State) :
    exec (.endItem t c (some code)) s = s.onDev fun d => coreEnd c code (d.atTime t) := rfl

/-! ### Builders -/

/-- The builders of a core when one was discarded. -/
def dropOne (bs : Sparse Builder) (b : Nat) : Sparse Builder := if (sget bs b).opn then sput bs b default else bs

/-- A discarded builder is not open, and the others are as they were. -/
theorem opn_dropOne (bs : Sparse Builder) (b i : Nat) : (sget (dropOne bs b) i).opn = (!decide (i = b) && (sget bs i).opn) := by
  unfold dropOne
  by_cases here : i = b
  · subst here
    cases opn : (sget bs i).opn with
    | true => simp only [if_true, sget_sput_same, decide_true, Bool.not_true, Bool.false_and]; rfl
    | false => simp [opn]
  · split <;> simp [here, sget_sput_ne]

theorem Dev.dropBuilder_closed {d : Dev} {c b : Nat} (closed : (sget (d.core c).builders b).opn = false) : d.dropBuilder c b = d := by
  simp [Dev.dropBuilder, closed]

/-- Of the cores the return of an open builder's cells changes none (R196). -/
theorem Dev.dropBuilder_cores {d : Dev} {c b : Nat} (opn : (sget (d.core c).builders b).opn = true) :
    (d.dropBuilder c b).cores = (d.modCore c fun k => { k with builders := sput k.builders b default }).cores := by
  simp only [Dev.dropBuilder, opn, if_true, Dev.modCore]
  rw [(returnCells_same _ _ _ _).1]

theorem Dev.core_of_cores {d e : Dev} (same : d.cores = e.cores) (c : Nat) : d.core c = e.core c := congrArg (sget · c) same

theorem Dev.dropBuilder_core (d : Dev) (c b : Nat) :
    (d.dropBuilder c b).core c = { d.core c with builders := dropOne (d.core c).builders b } := by
  cases opn : (sget (d.core c).builders b).opn with
  | true => rw [Dev.core_of_cores (Dev.dropBuilder_cores opn), Dev.modCore_core, dropOne, if_pos opn]
  | false => rw [Dev.dropBuilder_closed opn, dropOne, opn]; rfl

theorem Dev.dropBuilder_core_ne (d : Dev) (b : Nat) {c e : Nat} (other : e ≠ c) : (d.dropBuilder c b).core e = d.core e := by
  cases opn : (sget (d.core c).builders b).opn with
  | true => rw [Dev.core_of_cores (Dev.dropBuilder_cores opn), Dev.modCore_core_ne _ _ other]
  | false => rw [Dev.dropBuilder_closed opn]

/-- Discarding builders one by one changes of their core the builders alone. -/
theorem Dev.foldl_dropBuilder_core (c : Nat) (l : List Nat) (d : Dev) :
    (l.foldl (fun d b => d.dropBuilder c b) d).core c = { d.core c with builders := l.foldl dropOne (d.core c).builders } := by
  induction l generalizing d with
  | nil => rfl
  | cons b l ih => rw [List.foldl_cons, ih, Dev.dropBuilder_core]; rfl

theorem Dev.foldl_dropBuilder_core_ne (l : List Nat) (d : Dev) {c e : Nat} (other : e ≠ c) :
    (l.foldl (fun d b => d.dropBuilder c b) d).core e = d.core e := by
  induction l generalizing d with
  | nil => rfl
  | cons b l ih => exact (ih _).trans (d.dropBuilder_core_ne b other)

/-- No builder of those discarded is open. -/
theorem opn_foldl_dropOne (l : List Nat) (bs : Sparse Builder) (i : Nat) :
    (sget (l.foldl dropOne bs) i).opn = (!decide (i ∈ l) && (sget bs i).opn) := by
  induction l generalizing bs with
  | nil => simp
  | cons b l ih => simp [ih, opn_dropOne, Bool.and_assoc, Bool.and_left_comm]

/-! ### The end of an item -/

/-- What the end of an item leaves of its core, but for the builders (R196). -/
def Core.ended (it : Item) (k : Core) : Core :=
  { k with busy := none, stack := [], codes := [], bulk := k.bulk + (if it.cls = .bulk then k.cycles else 0) }

theorem setCoreEntry_reports (d : Dev) (c v : Nat) : Reports d (d.setCoreEntry c v) := by
  unfold Dev.setCoreEntry
  split <;> exact wr_reports _ _ _ _

/-- Of the cores the end of an item changes its own alone: the builders are discarded, and it is idle. -/
theorem Dev.finish_cores {d : Dev} {c : Nat} (code : Nat) {it : Item} (busy : (d.core c).busy = some it) :
    (d.finish c code).cores = (([0, 1, 2, 3].foldl (fun d b => d.dropBuilder c b) d).modCore c (Core.ended it)).cores := by
  have told (e : Dev) : SameCores e ((e.setCoreEntry c 0xFFFF).outcome it code) :=
    ((setCoreEntry_reports e c 0xFFFF).trans (outcome_reports _ it code)).same
  simp only [Dev.finish, busy]
  cases it.handle with
  | none => exact (told _).1
  | some h => exact ((told _).trans (unref_same _ h)).1

theorem Dev.finish_core {d : Dev} {c : Nat} (code : Nat) {it : Item} (busy : (d.core c).busy = some it) :
    (d.finish c code).core c = Core.ended it { d.core c with builders := [0, 1, 2, 3].foldl dropOne (d.core c).builders } := by
  rw [Dev.core_of_cores (Dev.finish_cores code busy), Dev.modCore_core, Dev.foldl_dropBuilder_core]

theorem Dev.finish_core_ne {d : Dev} {c e : Nat} (code : Nat) {it : Item} (busy : (d.core c).busy = some it) (other : e ≠ c) :
    (d.finish c code).core e = d.core e := by
  rw [Dev.core_of_cores (Dev.finish_cores code busy), Dev.modCore_core_ne _ _ other, Dev.foldl_dropBuilder_core_ne _ _ other]

/-- Cycles that the item's entry allows are charged, and nothing else happens (R45, R47). -/
theorem Dev.charge_ready {d : Dev} {c n : Nat} (ready : d.ready c n) :
    d.charge c n = d.modCore c fun k => { k with cycles := k.cycles + n, used := k.used + n } := by
  obtain ⟨-, it, busy, -, -, allowed⟩ := ready
  have same : (d.modCore c fun k => { k with cycles := k.cycles + n, used := k.used + n }).entry it.entry = d.entry it.entry := rfl
  simp only [Dev.charge, busy, same]
  cases entry : d.entry it.entry with
  | none => rfl
  | some e => simp only [Dev.modCore_core, Nat.not_lt.mpr (allowed e entry), if_false]

/-- `END` with a code that ends the item, on a core that can execute it (R196). -/
theorem coreEnd_ready {d : Dev} {c code : Nat} (ready : d.ready c 2)
    (allowed : code = 0 ∨ code = 0x12 ∨ (d.core c).codes.contains code = true) :
    coreEnd c code d = (d.modCore c fun k => { k with cycles := k.cycles + 2, used := k.used + 2 }).finish c code := by
  have runs : (d.modCore c fun k => { k with cycles := k.cycles + 2, used := k.used + 2 }).runs = true := ready.1
  simp only [coreEnd, ready.coreBusy, ready.fetched, allowed, Dev.charge_ready ready, runs, if_true, if_false]

/-- `END` with any other code (R196, R215). -/
theorem coreEnd_refused {d : Dev} {c n code : Nat} (ready : d.ready c n)
    (refused : ¬(code = 0 ∨ code = 0x12 ∨ (d.core c).codes.contains code = true)) : coreEnd c code d = d.programError c 0x05 := by
  simp only [coreEnd, ready.coreBusy, ready.fetched, refused, if_true, if_false]

/-- Settles O26: the end of the item (`Dev.finish_core`, `Dev.finish_core_ne`) behind the charge of its 2 cycles. -/
theorem endOfItem : Obligations.EndOfItem := by
  intro s t c code ready
  have later : (s.dev.atTime t).ready c 2 := ready
  rw [exec_endItem]
  refine ⟨fun allowed => ?_, fun refused => onDev_withDev s (coreEnd_refused later refused)⟩
  obtain ⟨-, it, busy, -⟩ := ready
  have charged : (((s.dev.atTime t).modCore c fun k => { k with cycles := k.cycles + 2, used := k.used + 2 }).core c).busy = some it := by
    rw [Dev.modCore_core]
    exact busy
  have after := Dev.finish_core code charged
  rw [Dev.modCore_core] at after
  refine ⟨_, onDev_withDev s (coreEnd_ready later allowed), rfl, rfl, ?_, fun b hb => ?_, ?_, fun r => ?_, fun e other => ?_⟩
  · exact congrArg Core.busy after
  · have listed : b ∈ [0, 1, 2, 3] := by simp only [List.mem_cons, List.not_mem_nil]; omega
    refine (congrArg (fun k => (sget k.builders b).opn) after).trans ((opn_foldl_dropOne [0, 1, 2, 3] _ b).trans ?_)
    simp only [listed, decide_true, Bool.not_true, Bool.false_and]
  · exact congrArg Core.cycles after
  · exact (congrArg (Core.get · r) after :)
  · exact (Dev.finish_core_ne code charged other).trans (Dev.modCore_core_ne _ _ other)

/-! ### Commands that complete -/

/-- Settles O52: by definition each helper call's arm of `exec` is its effect on the device, at the instant of the call. -/
theorem helperCallsComplete : Obligations.HelperCallsComplete := fun _ =>
  ⟨fun _ _ _ _ _ => rfl, fun _ _ _ => rfl, fun _ _ _ _ _ => rfl, fun _ _ _ _ _ => rfl, fun _ _ _ => rfl, fun _ _ _ => rfl,
    fun _ _ _ => rfl, fun _ _ _ _ _ _ => rfl, fun _ _ _ _ => rfl, fun _ _ => rfl, fun _ _ _ _ => rfl, fun _ _ => rfl, fun _ _ => rfl, fun _ _ _ _ => rfl,
    fun _ _ _ _ => rfl, fun _ _ _ _ => rfl, fun _ _ _ => rfl, fun _ _ _ => rfl, fun _ _ _ => rfl, fun _ _ _ _ _ => rfl,
    fun _ _ _ _ _ _ => rfl, fun _ _ _ => rfl, fun _ _ _ => rfl, fun _ _ => rfl, fun _ _ => rfl⟩

end Sys2Proof.Machine
end

section
/-! SUPPORT. The folio that wins an arbitration opportunity of a CAN controller (R248), and the time, LIN and CAN commands. -/

namespace Sys2Proof.Machine

/-! ### What the commands act by -/

theorem exec_canArbitration (t : Nat) (ch : CanIx) (s : State) :
    exec (.canArbitration t ch) s = s.onDev fun d => canArbitrate ch (feedFolios ch (d.atTime t)) := rfl

/-! ### The winner among the pending folios -/

/-- The folio is pending, and no boundary holds it back (R396). -/
abbrev Dev.folioWaits (d : Dev) (ch k : Nat) : Prop := (d.folio ch k).st = 1 ∧ (d.folio ch k).ready ≤ d.kept.transit

/-- The arbitration field of the frame in the folio. -/
def Dev.folioField (d : Dev) (ch k : Nat) : Nat := arbField (canOfBytes (d.folio ch k).data)

/-- The best of the folios before `k`, with its field, against folio `k`: one step of `Dev.bestFolio`. -/
def Dev.betterFolio (d : Dev) (ch : Nat) (best : Option (Nat × Nat)) (k : Nat) : Option (Nat × Nat) :=
  if d.folioWaits ch k then
    match best with
    | none => some (d.folioField ch k, k)
    | some (a, _) => if d.folioField ch k < a then some (d.folioField ch k, k) else best
  else best

theorem Dev.betterFolio_idle {d : Dev} {ch k : Nat} (idle : ¬ d.folioWaits ch k) (best : Option (Nat × Nat)) :
    d.betterFolio ch best k = best := if_neg idle

theorem Dev.betterFolio_first {d : Dev} {ch k : Nat} (waits : d.folioWaits ch k) :
    d.betterFolio ch none k = some (d.folioField ch k, k) := if_pos waits

theorem Dev.betterFolio_further {d : Dev} {ch k : Nat} (waits : d.folioWaits ch k) (p : Nat × Nat) :
    d.betterFolio ch (some p) k = if d.folioField ch k < p.1 then some (d.folioField ch k, k) else some p := if_pos waits

/-- Folio `k` waits and beats every waiting folio before `n` on the bus, or equals it and is no higher. -/
structure Dev.FolioWins (d : Dev) (ch n k : Nat) : Prop where
  lt : k < n
  waits : d.folioWaits ch k
  least : ∀ j, j < n → d.folioWaits ch j → d.folioField ch k < d.folioField ch j ∨ (d.folioField ch k = d.folioField ch j ∧ k ≤ j)

/-- The best so far is the winner among the folios before `n` with its field, and nothing where none of them waits. -/
def Dev.BestBefore (d : Dev) (ch n : Nat) : Option (Nat × Nat) → Prop
  | none => ∀ j, j < n → ¬ d.folioWaits ch j
  | some (a, k) => a = d.folioField ch k ∧ d.FolioWins ch n k

/-- The selection looks at the 64 folios one after the other. -/
theorem Dev.bestFolio_eq_foldl (d : Dev) (ch : Nat) :
    d.bestFolio ch = ((List.range 64).foldl (d.betterFolio ch) none).map Prod.snd := rfl

/-- A winner stays the winner beside a further folio that does not wait or whose field is not less. -/
theorem Dev.FolioWins.succ {d : Dev} {ch n k : Nat} (wins : d.FolioWins ch n k)
    (next : d.folioWaits ch n → d.folioField ch k ≤ d.folioField ch n) : d.FolioWins ch (n + 1) k where
  lt := Nat.lt_succ_of_lt wins.lt
  waits := wins.waits
  least j before waits := by
    obtain before | rfl := Nat.lt_succ_iff_lt_or_eq.mp before
    · exact wins.least j before waits
    · have := next waits
      have := wins.lt
      omega

/-- A waiting folio wins where its field is less than that of every waiting folio before it. -/
theorem Dev.folioWins_last {d : Dev} {ch n : Nat} (waits : d.folioWaits ch n)
    (less : ∀ j, j < n → d.folioWaits ch j → d.folioField ch n < d.folioField ch j) : d.FolioWins ch (n + 1) n where
  lt := Nat.lt_succ_self n
  waits := waits
  least j before waitsJ := by
    obtain before | rfl := Nat.lt_succ_iff_lt_or_eq.mp before
    · exact .inl (less j before waitsJ)
    · exact .inr ⟨rfl, Nat.le_refl j⟩

/-- One step of the selection keeps the best. -/
theorem Dev.BestBefore.succ {d : Dev} {ch n : Nat} {best : Option (Nat × Nat)} (is : d.BestBefore ch n best) :
    d.BestBefore ch (n + 1) (d.betterFolio ch best n) := by
  by_cases waits : d.folioWaits ch n
  · cases best with
    | none =>
      rw [Dev.betterFolio_first waits]
      exact ⟨rfl, Dev.folioWins_last waits fun j before waitsJ => absurd waitsJ (is j before)⟩
    | some p =>
      obtain ⟨a, k⟩ := p
      obtain ⟨rfl, wins⟩ := is
      rw [Dev.betterFolio_further waits]
      split
      next less => exact ⟨rfl, Dev.folioWins_last waits fun j before waitsJ => by have := wins.least j before waitsJ; omega⟩
      next notLess => exact ⟨rfl, wins.succ fun _ => Nat.le_of_not_lt notLess⟩
  · rw [Dev.betterFolio_idle waits]
    cases best with
    | none =>
      intro j before
      obtain before | rfl := Nat.lt_succ_iff_lt_or_eq.mp before
      · exact is j before
      · exact waits
    | some p => exact ⟨is.1, is.2.succ fun h => absurd h waits⟩

theorem Dev.bestBefore_foldl (d : Dev) (ch n : Nat) : d.BestBefore ch n ((List.range n).foldl (d.betterFolio ch) none) := by
  induction n with
  | zero => exact fun j before => absurd before (Nat.not_lt_zero j)
  | succ n ih => rw [List.range_succ, List.foldl_append]; exact ih.succ

/-- The folio that the controller selects wins among all 64 (R248). -/
theorem Dev.bestFolio_wins {d : Dev} {ch k : Nat} (best : d.bestFolio ch = some k) : d.FolioWins ch 64 k := by
  rw [Dev.bestFolio_eq_foldl, Option.map_eq_some_iff] at best
  obtain ⟨⟨a, _⟩, found, rfl⟩ := best
  have all := d.bestBefore_foldl ch 64
  rw [found] at all
  exact all.2

/-- Where the channel may send and sends nothing, the transmission of the selected folio begins. -/
theorem canArbitrate_selected {d : Dev} {ch k : Nat} (sends : d.canSends ch = true) (free : d.txFolio ch = none)
    (best : d.bestFolio ch = some k) : canArbitrate ch d = d.modFolio ch k fun f => { f with st := 2 } := by
  simp only [canArbitrate, sends, free, best, and_self, if_true]

/-- Settles O36: the selected folio is the winner (`Dev.bestFolio_wins`), and the arm of the command puts it in transmission. -/
theorem arbitrationSelects : Obligations.ArbitrationSelects := by
  refine ⟨fun d ch k best => ?_, fun s t ch k sends free best => ?_⟩
  · obtain ⟨inRange, waits, least⟩ := Dev.bestFolio_wins best
    exact ⟨inRange, waits, least⟩
  · rw [exec_canArbitration]
    exact onDev_withDev s (canArbitrate_selected sends free best)

/-! ### Commands that complete -/

/-- Settles O53: by definition each command's arm of `exec` is its effect on the device; `FOLIO_LOCK_EXPIRY` alone brings no instant. -/
theorem timeAndFieldBusCommandsComplete : Obligations.TimeAndFieldBusCommandsComplete := fun _ =>
  ⟨fun _ _ => rfl, fun _ _ => rfl, fun _ _ => rfl, fun _ _ _ => rfl, fun _ _ _ => rfl, fun _ _ _ _ _ _ _ => rfl, fun _ _ => rfl,
    fun _ _ _ _ _ _ => rfl, fun _ _ _ => rfl, fun _ _ => rfl, fun _ _ _ => rfl, fun _ _ => rfl, fun _ _ _ _ => rfl,
    fun _ _ _ _ _ _ => rfl, fun _ _ => rfl, fun _ _ _ _ => rfl, fun _ _ => rfl⟩

end Sys2Proof.Machine
end

section
/-! SUPPORT. The commands of the Ethernet ports (R282–R333, R357–R369). -/

namespace Sys2Proof.Machine

/-- Settles O54: by definition each command's arm of `exec` is its effect on the device at the command's instant. Reception and the two
transmit opportunities read the Strongroom's store beside it; `STAMP_REPORT`, `WINDOW_EDGE` and `LAUNCH_TIME` bring no more than the
instant where the device does not run. -/
theorem ethernetCommandsComplete : Obligations.EthernetCommandsComplete := fun _ =>
  ⟨fun _ _ _ _ _ => rfl, fun _ _ => rfl, fun _ _ => rfl, fun _ _ _ => rfl, fun _ _ _ => rfl, fun _ _ _ _ _ => rfl, fun _ _ => rfl,
    fun _ _ => rfl, fun _ _ => rfl⟩

end Sys2Proof.Machine
end

section
/-! SUPPORT. A time domain's time between two changes of its rate (R335). -/

namespace Sys2Proof.Machine

/-- The time of a segment at a local instant, before it is rounded down to whole units: in units of 2⁻¹⁶ ns, times 2³² · 10⁹. -/
def Seg.exactAt (g : Seg) (loc : Nat) : Int :=
  g.t0 * (4294967296 * 1000000000) + ((loc : Int) - g.loc0) * 65536 * (4294967296 * 1000000000 + g.rate)

/-- A segment's time is its exact time rounded down: less than a unit is lost, and nothing is gained. -/
theorem Seg.timeAt_eq_floor (g : Seg) (loc : Nat) : g.timeAt loc = g.exactAt loc / (4294967296 * 1000000000) := by
  have parts : g.exactAt loc = ((loc : Int) - g.loc0) * 65536 * g.rate +
      (g.t0 + ((loc : Int) - g.loc0) * 65536) * (4294967296 * 1000000000) := by
    unfold Seg.exactAt; ring
  rw [parts, Int.add_mul_ediv_right _ _ (by decide), Int.add_comm]
  rfl

/-- Before it is rounded, a segment's time is linear in the local counter. -/
theorem Seg.exactAt_add (g : Seg) (loc n : Nat) :
    g.exactAt (loc + n) = g.exactAt loc + (n : Int) * 65536 * (4294967296 * 1000000000 + g.rate) := by
  unfold Seg.exactAt; push_cast; ring

/-- The growth of a floor is the growth of what is rounded, to within one unit. -/
theorem floor_growth {k : Int} (pos : 0 < k) (x y : Int) :
    ((x + y) / k - x / k - 1) * k < y ∧ y < ((x + y) / k - x / k + 1) * k := by
  have before := Int.mul_ediv_add_emod x k
  have after := Int.mul_ediv_add_emod (x + y) k
  have low := Int.emod_nonneg x pos.ne'
  have low' := Int.emod_nonneg (x + y) pos.ne'
  have high := Int.emod_lt_of_pos x pos
  have high' := Int.emod_lt_of_pos (x + y) pos
  constructor <;> linarith

/-- Settles O40: the exact time is linear (`Seg.exactAt_add`), and rounding it down at the two ends changes the growth by less than a
unit (`floor_growth`). -/
theorem timeIsLinear : Obligations.TimeIsLinear := by
  intro g loc n _
  simp only [Seg.timeAt_eq_floor, Seg.exactAt_add]
  exact floor_growth (by decide) _ _

end Sys2Proof.Machine
end

section
/-! SUPPORT. Doorbells (R387, R388, R420), ports without assigned BARs (R737), and the ring, descriptor, host and table commands. -/

namespace Sys2Proof.Machine

/-! ### What the requests act by -/

theorem exec_doorbell (t : Nat) (port : HostPort) (tenant : Tenant) (ring : RingIx) (index : Fin 65536) (s : State) :
    exec (.doorbell t port tenant ring index) s = .next (s.withDev (doorbell port tenant ring index false (s.dev.atTime t))) := rfl
theorem exec_doorbellArm (t : Nat) (port : HostPort) (tenant : Tenant) (ring : RingIx) (s : State) :
    exec (.doorbellArm t port tenant ring) s = .next (s.withDev (doorbell port tenant ring 0 true (s.dev.atTime t))) := rfl
theorem exec_ringReset (t : Nat) (port : HostPort) (tenant : Tenant) (ring : RingIx) (enable : Bool) (s : State) :
    exec (.ringReset t port tenant ring enable) s = .next (s.withDev (ringReset port tenant ring enable (s.dev.atTime t))) := rfl
theorem exec_registerWrite (t : Nat) (port : HostPort) (addr : Nat) (words : List (Word × Nat)) (image : Option (List Byte)) (s : State) :
    exec (.registerWrite t port addr words image) s = .next (s.withBoth (registerWrite port addr words image (s.dev.atTime t, s.sr))) := rfl
theorem exec_sealSetup (t : Nat) (port : HostPort) (key : Word) (later : List (Word × Nat)) (s : State) :
    exec (.sealSetup t port key later) s =
      .next (s.withBoth (registerWrite port R.SEAL.base ((key, 15) :: later) none (s.dev.atTime t, s.sr))) := rfl
theorem exec_sideEffectRead (t : Nat) (port : HostPort) (addr words : Nat) (s : State) :
    exec (.sideEffectRead t (.host port) addr words) s = .next (s.withDev (busRead port addr words s.sr (s.dev.atTime t))) := rfl

/-! ### A port without assigned BARs (R737) -/

/-- Neither a restart, which keeps a ring's last doorbell write, nor a running device takes one. -/
theorem doorbell_unassigned {d : Dev} {port : Nat} (off : d.barsOn port = false) (t r v : Nat) (arm : Bool) :
    doorbell port t r v arm d = d := by
  simp [doorbell, off]

theorem ringReset_unassigned {d : Dev} {port : Nat} (off : d.barsOn port = false) (t r : Nat) (enable : Bool) :
    ringReset port t r enable d = d := by
  simp [ringReset, off]

/-- A host's inbound write goes no further than `busWrite`, which drops it. -/
theorem registerWrite_unassigned {x : WithSr} {port : HostPort} (off : x.1.barsOn port = false) (addr : Nat) (words : List (Word × Nat))
    (image : Option (List Byte)) : registerWrite port addr words image x = x := by
  simp [registerWrite, busWrite, off, port.isLt]

theorem busRead_unassigned {d : Dev} {port : HostPort} (off : d.barsOn port = false) (addr n : Nat) (sr : Strongroom) :
    busRead port addr n sr d = d := by
  simp [busRead, off, port.isLt]

/-! ### What an event record leaves -/

/-- An event record is posted or lost: of the registers only the tenant's count of lost records can change. -/
theorem Dev.eventAt_rd (d : Dev) (acc t code status source : Nat) (detail : List Byte) (extra cflags : Nat) {f : Fld} {ix : List Nat}
    (other : regKey f.reg ix ≠ regKey R.EVT_LOST [t]) :
    (d.eventAt acc t code status source detail extra cflags).rd f ix = d.rd f ix := by
  have lost : (d.bump F.EVT_LOST_COUNT [t]).rd f ix = d.rd f ix := Dev.rd_bump_ne d F.EVT_LOST_COUNT f [t] ix 1 other
  unfold Dev.eventAt
  split
  · exact lost
  · split
    · rfl
    · exact lost

theorem Dev.modRing_ring_ne (d : Dev) (t : Nat) {r q : Nat} (f : Ring → Ring) (other : q ≠ r) : (d.modRing t r f).ring t q = d.ring t q :=
  sget_sput_ne _ _ (by omega)

/-- Of a tenant's rings only its event ring can change. -/
theorem Dev.eventAt_ring (d : Dev) (acc t code status source : Nat) (detail : List Byte) (extra cflags : Nat) {r : Nat}
    (other : d.eventRing t ≠ some r) : (d.eventAt acc t code status source detail extra cflags).ring t r = d.ring t r := by
  unfold Dev.eventAt
  split
  · rfl
  · next q is =>
    have ne : r ≠ q := fun same => other (same ▸ is)
    split
    · exact Dev.modRing_ring_ne d t _ ne
    · exact Dev.modRing_ring_ne (d.bump F.EVT_LOST_COUNT [t]) t _ ne

theorem Dev.event_rd (d : Dev) (t code status source : Nat) (detail : List Byte) (cflags : Nat) {f : Fld} {ix : List Nat}
    (other : regKey f.reg ix ≠ regKey R.EVT_LOST [t]) : (d.event t code status source detail cflags).rd f ix = d.rd f ix :=
  Dev.eventAt_rd d.number.2 _ _ _ _ _ _ _ _ other

theorem Dev.event_ring (d : Dev) (t code status source : Nat) (detail : List Byte) (cflags : Nat) {r : Nat}
    (other : d.eventRing t ≠ some r) : (d.event t code status source detail cflags).ring t r = d.ring t r :=
  Dev.eventAt_ring d.number.2 _ _ _ _ _ _ _ _ other

/-- A tenant's event ring is of kind 6 (R381, R415), so it is no ring that the host fills. -/
theorem Dev.eventRing_ne_submission {d : Dev} {t r : Nat} (sub : isSubmission (d.ringKind t r) = true) : d.eventRing t ≠ some r := by
  intro is
  have kind : d.ringKind t r = 6 := by
    unfold Dev.eventRing at is
    dsimp only at is
    split at is
    · next event => exact Option.some.inj is ▸ event.1
    · cases is
  rw [kind] at sub
  exact absurd sub (by decide)

/-! ### A stall (R420) -/

theorem Dev.wr_ring (d : Dev) (f : Fld) (ix : List Nat) (v t r : Nat) : (d.wr f ix v).ring t r = d.ring t r := rfl

/-- The register part of a stall: `STALLED` and its cause, in the control register of the ring or of the cipher queue. -/
def Dev.markStalled (d : Dev) (t r cause : Nat) : Dev :=
  if r = cipherRing then (d.wr F.CIPHER_CTL_STALLED [t] 1).wr F.CIPHER_CTL_CAUSE [t] cause
  else (d.wr F.RING_CTL_STALLED [t, r] 1).wr F.RING_CTL_CAUSE [t, r] cause

theorem Dev.stall_eq (d : Dev) (t r cause index : Nat) :
    d.stall t r cause index = (d.markStalled t r cause).event t 0x0001 0 (if r = cipherRing then 0x40 else r)
      (detail16 (leBytes 1 cause ++ [0] ++ leBytes 2 index)) := rfl

theorem Dev.markStalled_ringStalled (d : Dev) (t r cause : Nat) : (d.markStalled t r cause).ringStalled t r = true := by
  unfold Dev.markStalled Dev.ringStalled Dev.on
  split
  · rw [Dev.rd_wr_apart _ F.CIPHER_CTL_CAUSE F.CIPHER_CTL_STALLED [t] cause rfl (by decide) (by decide) (by decide),
      Dev.rd_wr_same _ _ _ _ (by decide)]
    rfl
  · rw [Dev.rd_wr_apart _ F.RING_CTL_CAUSE F.RING_CTL_STALLED [t, r] cause rfl (by decide) (by decide) (by decide),
      Dev.rd_wr_same _ _ _ _ (by decide)]
    rfl

/-- `STALLED` and `CAUSE` stand in control registers, a ring's kind in a configuration register: their addresses differ by 8, modulo 16. -/
theorem Dev.markStalled_ringKind (d : Dev) (t r cause q : Nat) : (d.markStalled t r cause).ringKind t q = d.ringKind t q := by
  have kept {f : Fld} {ix : List Nat} (config : regKey f.reg ix % 16 = 0) : (d.markStalled t r cause).rd f ix = d.rd f ix := by
    have ring : regKey R.RING_CTL [t, r] % 16 = 8 := by simp [regKey, R.RING_CTL]; omega
    have cipher : regKey R.CIPHER_CTL [t] % 16 = 8 := by simp [regKey, R.CIPHER_CTL]; omega
    have aside {g : Fld} {jx : List Nat} (control : regKey g.reg jx % 16 = 8) (e : Dev) (v : Nat) : (e.wr g jx v).rd f ix = e.rd f ix :=
      Dev.rd_wr_ne e g f jx ix v fun same => by omega
    unfold Dev.markStalled
    split
    · rw [aside cipher, aside cipher]
    · rw [aside ring, aside ring]
  unfold Dev.ringKind Dev.on
  rw [kept (by simp [regKey, F.CQ_CFG_VALID, R.CQ_CFG]; omega), kept (by simp [regKey, F.RING_CFG_A_KIND, R.RING_CFG_A]; omega)]

theorem Dev.markStalled_ring (d : Dev) (t r cause q : Nat) : (d.markStalled t r cause).ring t q = d.ring t q := by
  unfold Dev.markStalled
  split <;> rw [Dev.wr_ring, Dev.wr_ring]

/-- The event that tells of a stall leaves `STALLED`: the counts of lost records have lower addresses. -/
theorem Dev.stall_ringStalled (d : Dev) (t r cause index : Nat) : (d.stall t r cause index).ringStalled t r = true := by
  rw [← d.markStalled_ringStalled t r cause, Dev.stall_eq]
  unfold Dev.ringStalled Dev.on
  rw [Dev.event_rd (f := F.CIPHER_CTL_STALLED), Dev.event_rd (f := F.RING_CTL_STALLED)]
  · simp [regKey, F.RING_CTL_STALLED, R.RING_CTL, R.EVT_LOST]; omega
  · simp [regKey, F.CIPHER_CTL_STALLED, R.CIPHER_CTL, R.EVT_LOST]; omega

/-- A stall leaves what a ring that the host fills holds. -/
theorem Dev.stall_ring {d : Dev} {t r : Nat} (cause index : Nat) (sub : isSubmission (d.ringKind t r) = true) :
    (d.stall t r cause index).ring t r = d.ring t r := by
  have noEvents : (d.markStalled t r cause).eventRing t ≠ some r :=
    Dev.eventRing_ne_submission (by rw [Dev.markStalled_ringKind]; exact sub)
  rw [Dev.stall_eq, Dev.event_ring _ _ _ _ _ _ _ noEvents, Dev.markStalled_ring]

/-! ### A doorbell write of a ring that the host fills (R387, R388) -/

/-- It is valid where the index is below the ring's size and at least as many slots are outstanding as before. -/
theorem Dev.bellFault_submission {d : Dev} {t r : Nat} (sub : isSubmission (d.ringKind t r) = true) (v : Nat) :
    d.bellFault t r v = 0 ↔ v < d.ringSize t r ∧ ((d.ring t r).tail + d.ringSize t r - (d.ring t r).head) % d.ringSize t r ≤
      (v + d.ringSize t r - (d.ring t r).head) % d.ringSize t r := by
  unfold Dev.bellFault
  dsimp only
  rw [if_pos sub]
  split
  · omega
  · split <;> omega

theorem Dev.takeBell_valid {d : Dev} {t r v : Nat} (on : d.ringOn t r = true) (going : d.ringStalled t r = false)
    (sub : isSubmission (d.ringKind t r) = true) (valid : d.bellFault t r v = 0) :
    d.takeBell t r v = (d.number.2.setIndex t r v).modRing t r fun g => { g with tail := v, dbs := g.dbs ++ [(v, d.acc)] } := by
  have valid' : d.number.2.bellFault t r v = 0 := valid
  have sub' : isSubmission (d.number.2.ringKind t r) = true := sub
  simp [Dev.takeBell, on, going, valid', sub']

theorem Dev.takeBell_invalid {d : Dev} {t r v : Nat} (on : d.ringOn t r = true) (going : d.ringStalled t r = false)
    (invalid : d.bellFault t r v ≠ 0) : d.takeBell t r v = d.number.2.stall t r (d.bellFault t r v) v := by
  have invalid' : d.number.2.bellFault t r v ≠ 0 := invalid
  simp only [Dev.takeBell, on, going, Bool.not_true, Bool.false_eq_true, or_self, if_false, ne_eq, invalid', not_false_eq_true, if_true]
  rfl

theorem Dev.setIndex_acc (d : Dev) (t r v : Nat) : (d.setIndex t r v).acc = d.acc := by
  unfold Dev.setIndex
  split <;> rfl

theorem Dev.setIndex_ring (d : Dev) (t r v q : Nat) : (d.setIndex t r v).ring t q = d.ring t q := by
  unfold Dev.setIndex
  split <;> rw [Dev.wr_ring]

/-! ### A doorbell write reaches the device (R379) -/

theorem doorbell_foreign {d : Dev} {port t : Nat} (runs : d.runs = true) (bars : d.barsOn port = true) (foreign : d.portOf t ≠ port)
    (r v : Nat) (arm : Bool) : doorbell port t r v arm d = d.bump F.DB_FOREIGN_COUNT [port] := by
  have running : d.mode = .run := eq_of_beq runs
  simp [doorbell, running, runs, bars, foreign]

theorem doorbell_taken {d : Dev} {port t : Nat} (runs : d.runs = true) (bars : d.barsOn port = true) (own : d.portOf t = port)
    (serves : d.serves port = true) (drives : d.quiet = false) (r v : Nat) : doorbell port t r v false d = d.takeBell t r v := by
  have running : d.mode = .run := eq_of_beq runs
  simp [doorbell, running, runs, bars, own, serves, drives]

/-- Settles O41: without assigned BARs each request leaves the device as it is (`doorbell_unassigned` and the lemmas beside it); a foreign
doorbell is `doorbell_foreign`, and one that is taken is `Dev.takeBell_valid` or `Dev.takeBell_invalid`. That no memory request does
anything before all three BARs are assigned is log entries 168 and 170, the model's reading of R737. -/
theorem doorbellWrites : Obligations.DoorbellWrites := by
  intro s t port tenant ring index d n g outstanding same
  refine ⟨fun off => ⟨?_, ?_, fun enable => ?_, fun addr words image => ?_, fun key later => ?_, fun addr words => ?_⟩,
    fun runs bars foreign => ?_, fun runs bars own serves drives on going sub => ?_⟩
  · rw [exec_doorbell, doorbell_unassigned off]
  · rw [exec_doorbellArm, doorbell_unassigned off]
  · rw [exec_ringReset, ringReset_unassigned off]
  · rw [exec_registerWrite, registerWrite_unassigned off]; rfl
  · rw [exec_sealSetup, registerWrite_unassigned off]; rfl
  · rw [exec_sideEffectRead, busRead_unassigned off]
  · rw [exec_doorbell, doorbell_foreign runs bars foreign]
  · rw [exec_doorbell, doorbell_taken runs bars own serves drives]
    refine ⟨fun valid => ?_, fun invalid => ?_⟩
    · rw [Dev.takeBell_valid on going sub ((Dev.bellFault_submission sub index).2 valid)]
      refine ⟨_, rfl, Dev.setIndex_acc _ _ _ _, ?_, ?_, rfl⟩
      · exact congrArg Ring.tail (Dev.modRing_ring _ _ _ _)
      · refine (congrArg Ring.dbs (Dev.modRing_ring _ _ _ _)).trans ?_
        rw [Dev.setIndex_ring]
        rfl
    · rw [Dev.takeBell_invalid on going fun valid => invalid ((Dev.bellFault_submission sub index).1 valid)]
      have held := Dev.stall_ring (d := d.number.2) (d.bellFault tenant ring index) index sub
      exact ⟨_, rfl, Dev.stall_ringStalled _ _ _ _ _, congrArg Ring.tail held, congrArg Ring.dbs held, rfl⟩

/-! ### Commands that complete -/

/-- Settles O55: by definition each command's arm of `exec` is its effect on the device at the command's instant. -/
theorem hostCommandsComplete : Obligations.HostCommandsComplete := fun _ =>
  ⟨fun _ _ _ => rfl, fun _ _ _ _ _ => rfl, fun _ _ _ _ => rfl, fun _ _ _ _ _ => rfl, fun _ _ _ _ => rfl, fun _ _ _ _ => rfl,
    fun _ _ _ => rfl, fun _ _ _ => rfl, fun _ _ _ => rfl, fun _ _ _ _ => rfl, fun _ _ _ => rfl, fun _ _ _ => rfl, fun _ _ _ => rfl,
    fun _ _ _ => rfl, fun _ _ _ => rfl, fun _ _ _ => rfl, fun _ _ _ => rfl, fun _ _ _ => rfl, fun _ _ _ _ => rfl, fun _ _ _ _ => rfl,
    fun _ _ _ => rfl, fun _ _ _ => rfl, fun _ _ _ => rfl, fun _ _ _ => rfl, fun _ _ _ => rfl, fun _ _ _ => rfl, fun _ _ _ _ => rfl,
    fun _ _ _ _ => rfl, fun _ _ _ _ => rfl, fun _ _ _ => rfl, fun _ _ _ => rfl, fun _ _ _ _ _ => rfl, fun _ _ => rfl⟩

end Sys2Proof.Machine
end

section
/-! SUPPORT. The gate of a part as its drain ends (R437, R449). -/

namespace Sys2Proof.Machine

theorem exec_gateClose (t part : Nat) (late : List (Nat × Nat)) (s : State) :
    exec (.gateClose t part late) s = s.onDev fun d => if (d.atTime t).runs then closeGate part late (d.atTime t) else d.atTime t := rfl

/-- A gate that is open, or already closed, takes no notice, whichever requests are named. -/
theorem closeGate_not_draining {d : Dev} {part : Nat} (other : (d.gate part).st ≠ 1) (late : List (Nat × Nat)) :
    closeGate part late d = d :=
  if_pos (Or.inl other)

/-- With no request named the gate answers none in its part's place, waits for no boundary (R448) and enters nothing in the ledger (R449).
The gate of a host port is left out: as it closes, the port's own requests at the other gates go too (R452). -/
theorem closeGate_answered {d : Dev} {part : Nat} (draining : (d.gate part).st = 1) (notPort : part < 0x80 ∨ 0x83 < part) :
    closeGate part [] d = d.modGate part fun g => { g with st := 2, epoch := (g.epoch + 1) % 256 } := by
  have noPort : ¬(0x80 ≤ part ∧ part ≤ 0x83) := by omega
  simp [closeGate, draining, noPort]

/-- Settles O34: `closeGate_answered` and `closeGate_not_draining`, at the command's instant on a running device. -/
theorem gateCloses : Obligations.GateCloses := by
  intro s t part d runs
  refine ⟨fun draining notPort => ?_, fun other => ?_⟩ <;> rw [exec_gateClose]
  · exact onDev_withDev s ((if_pos runs).trans (closeGate_answered draining notPort))
  · exact onDev_withDev s ((if_pos runs).trans (closeGate_not_draining other []))

end Sys2Proof.Machine
end

section
/-! SUPPORT. The latch cut and the mirror delta of a transit (R486, R671, R672), and overcurrent trips of the load channels (R465, R466, R469). -/

namespace Sys2Proof.Machine

/-! ### What the commands act by -/

theorem exec_latchCut (t bytes : Nat) (s : State) : exec (.latchCut t bytes) s = s.onDev fun d => latchCut bytes (d.atTime t) := rfl
theorem exec_overcurrentTrip (t : Nat) (ch : ChanIx) (ma since : Nat) (s : State) :
    exec (.overcurrentTrip t ch ma since) s = s.onDev fun d => (d.atTime t).onDie (overcurrentTrip ch ma since) := rfl

/-- Outside park what happens at a power die acts. -/
theorem Dev.onDie_awake {d : Dev} (awake : d.mode ≠ .park) (f : Dev → Dev) : d.onDie f = f d := if_neg awake

/-! ### The latch cut (R486, R671, R672) -/

/-- A frame that goes onto the link is no kept store. -/
@[simp] theorem Dev.sendLink_kept (d : Dev) (p : LinkPayload) (last : Bool) : (d.sendLink p last).kept = d.kept := by
  unfold Dev.sendLink
  split <;> rfl

/-- Frames of one payload leave the kept stores, however many there are. -/
theorem Dev.foldl_sendLink_kept (p : LinkPayload) (l : List Nat) (d : Dev) : (l.foldl (fun d _ => d.sendLink p) d).kept = d.kept := by
  induction l generalizing d with
  | nil => rfl
  | cons a l ih => rw [List.foldl_cons, ih, Dev.sendLink_kept]

/-- Sending the mirror delta leaves the kept stores that it carries. -/
@[simp] theorem Dev.sendDelta_kept (d : Dev) (bytes : Nat) : (d.sendDelta bytes).kept = d.kept := by
  unfold Dev.sendDelta
  dsimp only
  split
  · rw [Dev.sendLink_kept, Dev.foldl_sendLink_kept]
  · rfl

/-- After its cut, or before its point, a transit has no cut to make. -/
theorem latchCut_not_due {d : Dev} (notDue : d.cutDone = true ∨ d.now < d.point 1000) (bytes : Nat) : latchCut bytes d = d :=
  if_pos (Or.inr notDue)

/-- A cut that is due and whose delta fits: the output commands that the transit has read reach their dies (the model's reading, log entry
166), then the delta goes out and the stores are kept as they stand (R486, R671). -/
theorem latchCut_due {d : Dev} (runs : d.runs = true) (first : d.cutDone = false) (due : d.point 1000 ≤ d.now) {bytes : Nat}
    (fits : bytes ≤ deltaCapacity d.len 1000) :
    latchCut bytes d =
      { (d.finishOuts.sendDelta bytes) with cutDone := true, cut := some d.finishOuts.keptNow, cutBytes := bytes } := by
  have acts : ¬(!d.runs ∨ d.cutDone ∨ d.now < d.point 1000) := by simp [runs, first, due]
  rw [latchCut, if_neg acts, if_neg (Nat.not_lt.mpr fits)]

/-- Settles O37: `latchCut_not_due`, and `latchCut_due` with what sending the delta leaves (`Dev.sendDelta_kept`). The byte count as an
operand is log entry 50's, the output commands taken at the cut log entry 166's, and the capacity at 25 µs log entry 88's. -/
theorem latchCutAtItsPoint : Obligations.LatchCutAtItsPoint := by
  intro s t bytes d runs
  refine ⟨fun notDue => ?_, fun first due fits => ?_⟩ <;> rw [exec_latchCut]
  · exact onDev_withDev s (latchCut_not_due notDue bytes)
  · exact ⟨_, onDev_withDev s (latchCut_due runs first due fits), rfl, rfl, rfl, Dev.sendDelta_kept _ _⟩

/-! ### What leaves the channels as they are -/

theorem Reports.chans {d e : Dev} (h : Reports d e) : e.chans = d.chans := by
  obtain ⟨g, r, o, a, p, rfl⟩ := h; rfl

theorem Dev.chan_congr {d e : Dev} (same : e.chans = d.chans) (ch : Nat) : e.chan ch = d.chan ch := by
  unfold Dev.chan; rw [same]

/-- Registers that are written on a condition are no channels. -/
theorem Dev.ite_wr_chans (p : Prop) [Decidable p] (d : Dev) (f : Fld) (ix : List Nat) (v : Nat) :
    (if p then d.wr f ix v else d).chans = d.chans := by
  split <;> rfl

/-- Records are written into the recorder's ring and registers alone. -/
@[simp] theorem Dev.writeRec_chans (d : Dev) (r : Rec) : (d.writeRec r).chans = d.chans :=
  (Dev.ite_wr_chans _ _ _ _ _).trans (Dev.wr_chans _ _ _ _)

theorem Dev.flushRecs_chans (l : List Rec) (d : Dev) : (Dev.flushRecs l d).chans = d.chans := by
  induction l generalizing d with
  | nil => rfl
  | cons r l ih =>
    unfold Dev.flushRecs
    split
    · rfl
    · rw [ih, Dev.writeRec_chans]

@[simp] theorem Dev.enterRec_chans (d : Dev) (r : Rec) : (d.enterRec r).chans = d.chans := Dev.flushRecs_chans _ _

@[simp] theorem Dev.record_chans (d : Dev) (r : Rec) : (d.record r).chans = d.chans := by
  unfold Dev.record
  split
  · split <;> simp only [Dev.enterRec_chans]
  · rfl

@[simp] theorem Dev.recordItem_chans (d : Dev) (r : Rec) : (d.recordItem r).chans = d.chans := by
  unfold Dev.recordItem
  split
  · rfl
  · exact Dev.record_chans d r

/-- The recorder's record of an output change changes no channel. -/
@[simp] theorem Dev.recOutput_chans (d : Dev) (ch cause loc : Nat) : (d.recOutput ch cause loc).chans = d.chans := by
  unfold Dev.recOutput Dev.recChange
  dsimp only
  split
  · exact Dev.recordItem_chans _ _
  · rfl

@[simp] theorem Dev.logDie_chans (d : Dev) (die : Nat) (e : DieEvent) : (d.logDie die e).chans = d.chans := by
  unfold Dev.logDie
  split <;> rfl

/-- An event of a channel, posted or logged (R506, R508), changes no channel. -/
@[simp] theorem Dev.chanEvent_chans (d : Dev) (ch code : Nat) (detail : List Byte) (off : Bool) :
    (d.chanEvent ch code detail off).chans = d.chans := by
  unfold Dev.chanEvent Dev.dieEvent
  split
  · exact Dev.logDie_chans _ _ _
  · exact (event_reports _ _ _ _ _ _ _).chans

/-! ### A channel's trip (R469) -/

/-- A tripped channel is off, whatever its commanded state (R469). -/
theorem Chan.outState_of_tripped {c : Chan} (tripped : c.tripped = true) : c.outState = 0 := by
  simp [Chan.outState, Chan.down, tripped]

/-- Where a channel's change of drive is noted (R481) and whether its kept copy follows (R507) do not bear on its trip. -/
@[simp] theorem Dev.putChan_tripped (d : Dev) (ch : Nat) (c : Chan) (was : Drive) : ((d.putChan ch c was).chan ch).tripped = c.tripped := by
  unfold Dev.putChan
  dsimp only
  split <;> split <;> simp [Dev.chan]

@[simp] theorem Dev.modChan_tripped (d : Dev) (ch : Nat) (f : Chan → Chan) :
    ((d.modChan ch f).chan ch).tripped = (f (d.chan ch)).tripped := Dev.putChan_tripped _ _ _ _

@[simp] theorem Dev.changeChan_tripped (d : Dev) (ch cause loc : Nat) (f : Chan → Chan) :
    ((d.changeChan ch cause loc f).chan ch).tripped = (f (d.chan ch)).tripped := by
  unfold Dev.changeChan
  dsimp only
  split
  · exact Dev.modChan_tripped d ch f
  · split
    · exact Dev.modChan_tripped d ch f
    · rw [Dev.chan_congr (Dev.recOutput_chans _ _ _ _), Dev.modChan_tripped]

/-- A lockout ends no trip (R469). -/
@[simp] theorem Dev.lockout_tripped (d : Dev) (ch reason : Nat) : ((d.lockout ch reason).chan ch).tripped = (d.chan ch).tripped := by
  unfold Dev.lockout
  split
  · rfl
  · dsimp only
    rw [Dev.chan_congr (Dev.chanEvent_chans _ _ _ _ _), Dev.chan_congr (Dev.bump_chans _ _ _ _), Dev.changeChan_tripped]

/-- Nor does energy charged to a channel's account (R468). -/
@[simp] theorem Dev.chargeEnergy_tripped (d : Dev) (ch uj : Nat) : ((d.chargeEnergy ch uj).chan ch).tripped = (d.chan ch).tripped := by
  unfold Dev.chargeEnergy
  dsimp only
  split
  · rw [Dev.lockout_tripped, Dev.modChan_tripped]
  · rw [Dev.modChan_tripped]

/-- A trip of a channel that is on leaves it tripped, whatever the cause, the energy charged and the retries left. -/
theorem tripChan_tripped {ch : Nat} {d : Dev} (awake : d.mode ≠ .park) (on : (d.chan ch).outState ≠ 0) (cause ma uj : Nat) :
    ((tripChan ch cause ma uj d).chan ch).tripped = true := by
  rw [tripChan, if_neg (not_or.mpr ⟨awake, on⟩)]
  dsimp only
  split <;> split <;>
    simp only [Dev.lockout_tripped, Dev.chargeEnergy_tripped, Dev.chan_congr (Dev.chanEvent_chans _ _ _ _ _),
      Dev.chan_congr (Dev.bump_chans _ _ _ _), Dev.changeChan_tripped]

/-! ### Overcurrent (R465, R466) -/

/-- In the inrush window, up to the limit, or before `OC_TIME` is over, an overcurrent is none. -/
theorem overcurrentTrip_not_due {ch ma since : Nat} {d : Dev} (notDue : d.inInrush ch ∨ d.sensed ch ma ≤ d.ocLimit ch ∨
    d.now < max since (d.ocFrom ch) + d.dieChf F.CH_PROT_OC_TIME ch * 50000) : overcurrentTrip ch ma since d = d :=
  if_pos notDue

/-- Outside the window, above the limit and after `OC_TIME` it is a trip of cause 2. -/
theorem overcurrentTrip_due {ch ma since : Nat} {d : Dev} (window : d.inInrush ch = false) (above : d.ocLimit ch < d.sensed ch ma)
    (lasted : max since (d.ocFrom ch) + d.dieChf F.CH_PROT_OC_TIME ch * 50000 ≤ d.now) :
    overcurrentTrip ch ma since d = tripChan ch 2 ma 0 d :=
  if_neg (not_or.mpr ⟨ne_true_of_eq_false window, not_or.mpr ⟨not_le.mpr above, not_lt.mpr lasted⟩⟩)

/-- Settles O46: outside park the die acts (`Dev.onDie_awake`), by `overcurrentTrip_not_due` or by a trip (`overcurrentTrip_due`), which
leaves the channel tripped (`tripChan_tripped`) and so off. The instant `since` as an operand is log entry 84's, the rounding of the
corrected current log entry 141's, and the count from the end of the inrush window the model's reading (`Dev.ocFrom`). -/
theorem overcurrentTrips : Obligations.OvercurrentTrips := by
  intro s t ma since ch d due awake
  have acts : exec (.overcurrentTrip t ch ma since) s = .next (s.withDev (overcurrentTrip ch ma since d)) :=
    (exec_overcurrentTrip t ch ma since s).trans (onDev_withDev s (Dev.onDie_awake awake _))
  refine ⟨fun window => ?_, fun below => ?_, fun early => ?_, fun window above lasted on => ?_⟩ <;> rw [acts]
  · rw [overcurrentTrip_not_due (.inl window)]
  · rw [overcurrentTrip_not_due (.inr (.inl below))]
  · rw [overcurrentTrip_not_due (.inr (.inr early))]
  · have tripped : ((overcurrentTrip ch ma since d).chan ch).tripped = true := by
      rw [overcurrentTrip_due window above lasted]
      exact tripChan_tripped awake on 2 ma 0
    exact ⟨_, rfl, tripped, Chan.outState_of_tripped tripped, rfl⟩

end Sys2Proof.Machine
end

section
/-! SUPPORT. What the recorder's writing can change (R106–R117), inputs that enter STUCK (R520, R521) and the entry into park (R540). -/

namespace Sys2Proof.Machine

/-! ### What the recorder changes -/

/-- `e` is `d` after records: only registers, reads on their way and the recorder's own state differ. -/
def Records (d e : Dev) : Prop :=
  ∃ (g : Sparse Word) (p : List PendRead) (r w : List Rec) (s : Sparse Span) (m : Option Rec) (n : Nat),
    e = { d with kept := { d.kept with regs := g }, pendReads := p, recs := r, recWait := w, spans := s, recMark := m, recGap := n }

namespace Records

theorem refl (d : Dev) : Records d d := ⟨d.kept.regs, d.pendReads, d.recs, d.recWait, d.spans, d.recMark, d.recGap, rfl⟩

theorem trans {d e f : Dev} (h : Records d e) (h' : Records e f) : Records d f := by
  obtain ⟨g, p, r, w, s, m, n, rfl⟩ := h
  obtain ⟨g', p', r', w', s', m', n', rfl⟩ := h'
  exact ⟨g', p', r', w', s', m', n', rfl⟩

theorem inputs {d e : Dev} (h : Records d e) : e.inputs = d.inputs := by
  obtain ⟨g, p, r, w, s, m, n, rfl⟩ := h; rfl

end Records

theorem wr_records (d : Dev) (f : Fld) (ix : List Nat) (v : Nat) : Records d (d.wr f ix v) :=
  ⟨_, d.pendReads, d.recs, d.recWait, d.spans, d.recMark, d.recGap, rfl⟩

/-- Registers that are written on a condition. -/
theorem ite_wr_records (p : Prop) [Decidable p] (d : Dev) (f : Fld) (ix : List Nat) (v : Nat) : Records d (if p then d.wr f ix v else d) := by
  split
  · exact wr_records d f ix v
  · exact Records.refl d

theorem setRecWait_records (d : Dev) (w : List Rec) : Records d { d with recWait := w } :=
  ⟨d.kept.regs, d.pendReads, d.recs, w, d.spans, d.recMark, d.recGap, rfl⟩

theorem setRing_records (d : Dev) (r : List Rec) (s : Sparse Span) : Records d { d with recs := r, spans := s } :=
  ⟨d.kept.regs, d.pendReads, r, d.recWait, s, d.recMark, d.recGap, rfl⟩

theorem writeRec_records (d : Dev) (r : Rec) : Records d (d.writeRec r) := by
  unfold Dev.writeRec
  exact ((setRing_records d _ _).trans (wr_records _ _ _ _)).trans (ite_wr_records _ _ _ _ _)

theorem flushRecs_records (l : List Rec) (d : Dev) : Records d (Dev.flushRecs l d) := by
  induction l generalizing d with
  | nil => exact setRecWait_records d []
  | cons r l ih =>
    unfold Dev.flushRecs
    split
    · exact setRecWait_records d (r :: l)
    · exact (writeRec_records d r).trans (ih _)

theorem enterRec_records (d : Dev) (r : Rec) : Records d (d.enterRec r) :=
  (setRecWait_records d _).trans (flushRecs_records _ _)

theorem record_records (d : Dev) (r : Rec) : Records d (d.record r) := by
  unfold Dev.record
  split
  · split
    next m _ =>
      have unmarked : Records d { d with recMark := none } := ⟨d.kept.regs, d.pendReads, d.recs, d.recWait, d.spans, none, d.recGap, rfl⟩
      exact (unmarked.trans (enterRec_records _ m)).trans (enterRec_records _ r)
    next => exact enterRec_records d r
  · exact Records.refl d

theorem recordItem_records (d : Dev) (r : Rec) : Records d (d.recordItem r) := by
  unfold Dev.recordItem
  split
  · exact ⟨_, _, d.recs, d.recWait, d.spans, d.recMark, _, rfl⟩
  · exact record_records d r

theorem recChange_records (d : Dev) (acc kind die loc : Nat) (payload : List Byte) : Records d (d.recChange acc kind die loc payload) := by
  unfold Dev.recChange
  split
  · exact recordItem_records d _
  · exact Records.refl d

/-! ### What leaves the inputs as they are -/

theorem Reports.inputs {d e : Dev} (h : Reports d e) : e.inputs = d.inputs := by
  obtain ⟨g, r, o, a, p, rfl⟩ := h; rfl

@[simp] theorem Dev.logDie_inputs (d : Dev) (die : Nat) (e : DieEvent) : (d.logDie die e).inputs = d.inputs := by
  unfold Dev.logDie
  split <;> rfl

/-- The record and the event of STUCK or CHATTER (R521), told or logged by the die (R506, R518), change no input. -/
@[simp] theorem Dev.inputState_inputs (d : Dev) (k what : Nat) : (d.inputState k what).inputs = d.inputs := by
  unfold Dev.inputState
  dsimp only
  split
  · exact Dev.logDie_inputs d _ _
  · exact (eventAt_reports _ _ _ _ _ _ _ _ _).inputs.trans (recChange_records _ _ _ _ _ _).inputs

theorem Dev.input_congr {d e : Dev} (same : e.inputs = d.inputs) (k : Nat) : e.input k = d.input k := by
  unfold Dev.input; rw [same]

@[simp] theorem Dev.modInput_input (d : Dev) (k : Nat) (f : Input → Input) : (d.modInput k f).input k = f (d.input k) :=
  sget_smod_same _ _ _

/-! ### STUCK (R520) -/

theorem exec_stuck (t : Nat) (sw : InputIx) (s : State) : exec (.stuck t sw) s = s.onDev fun d => stuckEnter sw (d.atTime t) := rfl

/-- An input as it stands at the device's instant, its active time counted up to it (R517, R520). -/
def Dev.inputNow (d : Dev) (k : Nat) : Input := (d.input k).upTo (d.cranks (inputDie k)) d.now

/-- With the check disabled, or before the input has been active for `STUCK_T` seconds, nothing happens. -/
theorem stuckEnter_not_due {k : Nat} {d : Dev}
    (notDue : d.swRd F.SW_GUARD_STUCK_T k = 0 ∨ (d.inputNow k).run < d.swRd F.SW_GUARD_STUCK_T k * 1000000000) : stuckEnter k d = d :=
  if_pos (notDue.imp_right fun early => .inr (.inr (.inr (.inl early))))

/-- An input that is STUCK already stays as it is. -/
theorem stuckEnter_stuck {k : Nat} {d : Dev} (stuck : (d.input k).stuck = true) : stuckEnter k d = d :=
  if_pos (.inr (.inl stuck))

section
variable {k : Nat} {d : Dev} (enabled : d.swRd F.SW_GUARD_STUCK_T k ≠ 0)
  (lasted : d.swRd F.SW_GUARD_STUCK_T k * 1000000000 ≤ (d.inputNow k).run) (active : (d.inputNow k).value = true)
  (calm : (d.inputNow k).chatter = false) (awake : d.mode ≠ .park)
include enabled lasted active calm awake

/-- Outside CHATTER and park, an input not yet STUCK that has been active for `STUCK_T` seconds enters it; what counts the entry and tells
of it (R521) leaves the input itself. -/
theorem stuckEnter_due (free : (d.input k).stuck = false) : (stuckEnter k d).input k = { d.inputNow k with stuck := true } := by
  have due : ¬(d.swRd F.SW_GUARD_STUCK_T k = 0 ∨ (d.input k).stuck = true ∨ (!(d.inputNow k).value) = true ∨
      (d.inputNow k).chatter = true ∨ (d.inputNow k).run < d.swRd F.SW_GUARD_STUCK_T k * 1000000000 ∨ d.mode = .park) := by
    simp [enabled, free, active, calm, lasted, awake]
  have entered : stuckEnter k d =
      ((d.modInput k fun _ => { d.inputNow k with stuck := true }).bump F.STUCK_ENTRIES_COUNT [k]).inputState k 1 := if_neg due
  rw [entered, Dev.input_congr (Dev.inputState_inputs _ _ _), Dev.input_congr (Dev.bump_inputs _ _ _ _), Dev.modInput_input]

/-- Whether it was STUCK before or not, such an input is STUCK then, and still active. -/
theorem stuckEnter_stuck_active : ((stuckEnter k d).input k).stuck = true ∧ ((stuckEnter k d).input k).value = true := by
  cases stuck : (d.input k).stuck with
  | true =>
    rw [stuckEnter_stuck stuck]
    exact ⟨stuck, active⟩
  | false =>
    rw [stuckEnter_due enabled lasted active calm awake stuck]
    exact ⟨rfl, active⟩

end

/-- Settles O47: `stuckEnter_not_due`, and `stuckEnter_stuck_active` for an input whose time is over. -/
theorem stuckInputs : Obligations.StuckInputs := by
  intro s t sw d x limit
  refine ⟨fun disabled => ?_, fun early => ?_, fun enabled lasted active calm awake => ?_⟩ <;> rw [exec_stuck]
  · exact onDev_withDev s (stuckEnter_not_due (.inl disabled))
  · exact onDev_withDev s (stuckEnter_not_due (.inr early))
  · obtain ⟨stuck, still⟩ := stuckEnter_stuck_active enabled lasted active calm awake
    exact ⟨_, onDev_withDev s rfl, stuck, still, rfl⟩

/-! ### Park (R540) -/

theorem exec_parkEntry (t : Nat) (s : State) : exec (.parkEntry t) s = s.onDev fun d => parkEntry (d.atTime t) := rfl

/-- Is the entry into park due: does the device run, has its sleep committed, has the transit after the commit's passed, and does a transit
open now (R25, R540)? -/
def Dev.parkDue (d : Dev) : Prop :=
  d.runs = true ∧ d.park.committed = true ∧ d.park.commitTransit + 2 ≤ d.kept.transit ∧ d.now = d.tickStart

/-- Park entry that is due ends in park, with the logic die switched off. -/
theorem parkEntry_due {d : Dev} (due : d.parkDue) : (parkEntry d).mode = .park ∧ (parkEntry d).boot.lsOn = false := by
  unfold Dev.parkDue at due
  rw [parkEntry, if_pos due]
  exact ⟨rfl, rfl⟩

/-- Where it is not due it does nothing. -/
theorem parkEntry_not_due {d : Dev} (notDue : ¬d.parkDue) : parkEntry d = d := if_neg notDue

/-- Settles O48: `parkEntry_due` and `parkEntry_not_due`, at the command's instant. -/
theorem parkNeedsItsCommit : Obligations.ParkNeedsItsCommit := by
  intro s t d due
  refine ⟨fun isDue => ?_, fun notDue => ?_⟩ <;> rw [exec_parkEntry]
  · obtain ⟨parked, off⟩ := parkEntry_due (d := d) isDue
    exact ⟨_, onDev_withDev s rfl, parked, off, rfl⟩
  · exact onDev_withDev s (parkEntry_not_due notDue)

/-! ### Commands that complete -/

/-- Settles O58: by definition each command's arm of `exec` is its effect on the device at the command's instant. What goes through `Dev.onDie`
does nothing in park. -/
theorem powerDieInputAndParkCommandsComplete : Obligations.PowerDieInputAndParkCommandsComplete := fun _ =>
  ⟨fun _ => rfl, fun _ => rfl, fun _ _ => rfl, fun _ _ => rfl, fun _ => rfl, fun _ _ _ _ _ => rfl, fun _ _ _ _ => rfl,
    fun _ _ _ _ _ => rfl, fun _ _ _ _ => rfl, fun _ _ _ => rfl, fun _ _ => rfl, fun _ _ => rfl, fun _ _ _ => rfl, fun _ _ => rfl,
    fun _ _ => rfl, fun _ _ _ => rfl, fun _ _ _ _ => rfl, fun _ _ => rfl, fun _ _ _ => rfl, fun _ _ _ => rfl, fun _ _ _ => rfl,
    fun _ _ => rfl, fun _ _ _ _ => rfl⟩

end Sys2Proof.Machine
end

section
/-! SUPPORT. The Strongroom's persistent store under every command: which commands leave it (R551), and how a step of the others
goes on (R556–R558). -/

namespace Sys2Proof.Machine

/-! ### Commands that leave the store (R551) -/

theorem replayVia_sr (port page : Nat) (pair : Bool) (x : WithSr) : (replayVia port page pair x).2 = x.2 := by
  unfold replayVia
  split
  · exact replayProof_sr page pair x
  · rfl

/-- An effect on both that leaves the store is one on the device. -/
theorem State.withBoth_of_sr {s : State} {x : WithSr} (same : x.2 = s.sr) : s.withBoth x = s.withDev x.1 := by
  unfold State.withBoth State.withDev
  rw [same]

/-- A command that is none of the Strongroom's acts on the device alone. Two of them are written as effects on both: `HELLO`, which only
reads the store, and the replay of a proof, which changes nothing (R576). -/
theorem exec_device_alone {c : Instr} (other : strongroomCommand c = false) (s : State) : ∃ d, exec c s = .next (s.withDev d) := by
  cases c with
  | powerOnReset | wakeBoot | lsPgHigh | restartComplete | sealSetup | registerWrite | submit | unwrap | keyCommitBoundary | linkFrame =>
    cases other
  | hello t h latency => exact ⟨_, congrArg _ (State.withBoth_of_sr (helloReceived_sr h latency (s.dev.atTime t, s.sr)))⟩
  | replayProof t port page pair => exact ⟨_, congrArg _ (State.withBoth_of_sr (replayVia_sr port page pair (_, s.sr)))⟩
  | _ => exact ⟨_, rfl⟩

/-- Settles O4: `exec_device_alone`. -/
theorem onlyTheStrongroomWritesItsStore : Obligations.OnlyTheStrongroomWritesItsStore := by
  intro c s t other next
  obtain ⟨d, alone⟩ := exec_device_alone other s
  cases alone.symm.trans next
  rfl

/-! ### How the store goes on in a step (R556–R558) -/

/-- Every command ends with a store that has gone on: sound where it was sound, and in the same lifecycle state or the next. Only the commit
boundary can take the lifecycle on. -/
theorem exec_goes (c : Instr) (s : State) : ∃ x, exec c s = .next (s.withBoth x) ∧ Goes s.sr x.2 := by
  cases own : strongroomCommand c with
  | false =>
    obtain ⟨d, alone⟩ := exec_device_alone own s
    exact ⟨(d, s.sr), alone, Goes.refl s.sr⟩
  | true =>
    cases c with
    | powerOnReset sideB memOk pg => exact ⟨_, rfl, (powerOn_holds sideB memOk pg (s.dev, s.sr)).goes⟩
    | wakeBoot t pg => exact ⟨_, rfl, (wakeBoot_holds pg (s.dev.atTime t, s.sr)).goes⟩
    | lsPgHigh t => exact ⟨_, rfl, (lsPgHigh_holds (s.dev.atTime t, s.sr)).goes⟩
    | restartComplete t tested => exact ⟨_, rfl, (restartComplete_holds tested (s.dev.atTime t, s.sr)).goes⟩
    | sealSetup t port key later =>
      exact ⟨_, exec_sealSetup t port key later s, (registerWrite_holds _ _ _ _ (s.dev.atTime t, s.sr)).goes⟩
    | registerWrite t port a words image =>
      exact ⟨_, exec_registerWrite t port a words image s, (registerWrite_holds _ _ _ _ (s.dev.atTime t, s.sr)).goes⟩
    | submit t port page len => exact ⟨_, rfl, (submitVia_holds port page len (_, s.sr)).goes⟩
    | unwrap t tenant => exact ⟨_, rfl, (tenantUnwrap_holds tenant (s.dev.atTime t, s.sr)).goes⟩
    | keyCommitBoundary t => exact ⟨_, rfl, keyCommitNow_goes (s.dev.atTime t, s.sr)⟩
    | linkFrame t frame => exact ⟨_, rfl, (linkFrame_holds frame (s.dev.atTime t, s.sr)).goes⟩
    | _ => cases own

/-- So does every step: with no command waiting the state stays. -/
theorem step_goes {s t : State} (next : step s = .next t) : Goes s.sr t.sr := by
  unfold step at next
  split at next
  · cases next
    exact Goes.refl s.sr
  next c rest _ =>
    obtain ⟨x, ends, goes⟩ := exec_goes c { s with pending := rest }
    cases ends.symm.trans next
    exact goes

/-- Settles O5: after reset the lifecycle is MANUFACTURE and the working store lists no slot. -/
theorem resetIsSound : Obligations.ResetIsSound := ⟨Nat.zero_le 4, rfl, fun retired => absurd retired (by decide)⟩

/-- Settles O6: `step_goes`. -/
theorem everyStepKeepsSoundness : Obligations.EveryStepKeepsSoundness := fun _ _ sound next => (step_goes next).1 sound

/-- Settles O7: `step_goes`. -/
theorem lifecycleOnlyAdvances : Obligations.LifecycleOnlyAdvances := fun _ _ next => (step_goes next).2

/-- Settles O8: there is no state after DECOMMISSIONED to go to (`step_goes`), and a sound DECOMMISSIONED store has blown fuses and no key. -/
theorem decommissionedIsFinal : Obligations.DecommissionedIsFinal := by
  intro s t sound retired next
  obtain ⟨keeps, stays | ⟨on, most⟩⟩ := step_goes next
  · have retired' : t.sr.lifecycle = 4 := stays.trans retired
    obtain ⟨_, _, final⟩ := keeps sound
    exact ⟨retired', final retired'⟩
  · omega

end Sys2Proof.Machine
end

section
/-! SUPPORT. The mailbox pages of the Strongroom: what a submission writes into its store (R570, R579), how a command of a page ends (R571, R593),
and the replay of a kept proof (R576). -/

namespace Sys2Proof.Machine

/-! ### What the commands act by -/

theorem exec_submit (t : Nat) (port page : HostPort) (len : Nat) (s : State) :
    exec (.submit t port page len) s =
      .next (s.withBoth (submitVia port page len ((s.dev.atTime t).srFields port page 1 (len % 512) false, s.sr))) := rfl
theorem exec_replayProof (t : Nat) (port page : HostPort) (pair : Bool) (s : State) :
    exec (.replayProof t port page pair) s =
      .next (s.withBoth (replayVia port page pair ((s.dev.atTime t).srFields port page 2 0 pair, s.sr))) := rfl

/-! ### What a submission writes into the store (R570, R579) -/

/-- `r'` is `r` but for slot copies. -/
def OnlyCopies (r r' : Strongroom) : Prop := ∃ p q, r' = { r with copyP := p, copyQ := q }

theorem OnlyCopies.refl (r : Strongroom) : OnlyCopies r r := ⟨r.copyP, r.copyQ, rfl⟩

theorem OnlyCopies.trans {a b c : Strongroom} (h : OnlyCopies a b) (k : OnlyCopies b c) : OnlyCopies a c := by
  obtain ⟨_, _, rfl⟩ := h
  obtain ⟨p, q, rfl⟩ := k
  exact ⟨p, q, rfl⟩

theorem foldl_onlyCopies {β : Type} {f : Strongroom → β → Strongroom} (h : ∀ r b, OnlyCopies r (f r b)) (l : List β) (r : Strongroom) :
    OnlyCopies r (l.foldl f r) := by
  induction l generalizing r with
  | nil => exact OnlyCopies.refl r
  | cons b l ih => exact (h r b).trans (ih _)

theorem writeCopy_onlyCopies (r : Strongroom) (n : Nat) (c : KeyCopy) : OnlyCopies r (r.writeCopy n c) := by
  unfold Strongroom.writeCopy
  split
  · exact ⟨r.copyP, _, rfl⟩
  · exact ⟨_, r.copyQ, rfl⟩

theorem stageOne_onlyCopies (target : Nat) (slots : Sparse KeySlot) (r : Strongroom) (n : Nat) :
    OnlyCopies r (Strongroom.stageOne target slots r n) := by
  unfold Strongroom.stageOne
  split
  · exact OnlyCopies.refl r
  · exact writeCopy_onlyCopies r _ _

theorem stage_onlyCopies (r : Strongroom) (m : List Byte) (slots : Sparse KeySlot) (staged : List (Nat × KeySlot × Bool)) :
    OnlyCopies r (r.stage m slots staged) := by
  unfold Strongroom.stage
  split
  · exact foldl_onlyCopies (stageOne_onlyCopies (msgTarget m) slots) _ r
  · exact foldl_onlyCopies (fun r e => writeCopy_onlyCopies r e.1 _) staged r

/-- A message that is taken for the unit alone has its copies written; one that is refused, or that the pair shares, leaves the store. -/
theorem submitMsg_onlyCopies (page len : Nat) (x : WithSr) : OnlyCopies x.2 (submitMsg page len x).2 := by
  obtain ⟨d, r⟩ := x
  unfold submitMsg
  dsimp only
  iterate 5
    split
    · exact OnlyCopies.refl r
  exact stage_onlyCopies r _ _ _

theorem submitVia_onlyCopies (port page len : Nat) (x : WithSr) : OnlyCopies x.2 (submitVia port page len x).2 := by
  unfold submitVia
  split
  · exact submitMsg_onlyCopies page _ x
  · exact OnlyCopies.refl x.2

/-- Settles O42: `submitVia_onlyCopies`. -/
theorem submissionOnlyStages : Obligations.SubmissionOnlyStages := by
  intro s u t port page len next
  cases (exec_submit t port page len s).symm.trans next
  obtain ⟨p, q, same⟩ := submitVia_onlyCopies port page len ((s.dev.atTime t).srFields port page 1 (len % 512) false, s.sr)
  simp only [State.withBoth, same, and_self]

/-! ### Registers alone -/

/-- `e` is `d` but for registers. -/
def OnlyRegs (d e : Dev) : Prop := ∃ g, e = { d with kept := { d.kept with regs := g } }

theorem OnlyRegs.refl (d : Dev) : OnlyRegs d d := ⟨d.kept.regs, rfl⟩

theorem OnlyRegs.trans {d e f : Dev} (h : OnlyRegs d e) (k : OnlyRegs e f) : OnlyRegs d f := by
  obtain ⟨_, rfl⟩ := h
  obtain ⟨g, rfl⟩ := k
  exact ⟨g, rfl⟩

theorem OnlyRegs.reports {d e : Dev} (h : OnlyRegs d e) : Reports d e := by
  obtain ⟨g, rfl⟩ := h
  exact ⟨g, d.kept.rings, d.out, d.acc, d.pendReads, rfl⟩

theorem OnlyRegs.runs {d e : Dev} (h : OnlyRegs d e) : e.runs = d.runs := by
  obtain ⟨g, rfl⟩ := h; rfl

theorem OnlyRegs.barsOn {d e : Dev} (h : OnlyRegs d e) (port : Nat) : e.barsOn port = d.barsOn port := by
  obtain ⟨g, rfl⟩ := h; rfl

theorem wr_onlyRegs (d : Dev) (f : Fld) (ix : List Nat) (v : Nat) : OnlyRegs d (d.wr f ix v) := ⟨_, rfl⟩

theorem foldl_onlyRegs {β : Type} {f : Dev → β → Dev} (h : ∀ d b, OnlyRegs d (f d b)) (l : List β) (d : Dev) : OnlyRegs d (l.foldl f d) := by
  induction l generalizing d with
  | nil => exact OnlyRegs.refl d
  | cons b l ih => exact (h d b).trans (ih _)

/-! ### Registers of a page -/

theorem regKey_srCmd (page : Nat) : regKey R.SR_CMD [page] = 0x310030 + 0x1000 * page := rfl
theorem regKey_srStatus (page : Nat) : regKey R.SR_STATUS [page] = 0x310034 + 0x1000 * page := rfl
theorem regKey_srReply (page w : Nat) : regKey R.SR_REPLY [page, w] = 0x310400 + (0x1000 * page + 4 * w) := rfl
theorem regKey_srCfg : regKey R.SR_CFG [] = 0x314000 := rfl

/-- The pages lie below the configuration of the Strongroom. -/
theorem srCfg_ne_srCmd (page : HostPort) : regKey R.SR_CFG [] ≠ regKey R.SR_CMD [page] := by
  rw [regKey_srCfg, regKey_srCmd]; omega

theorem srStatus_ne_srReply (page w : Nat) : regKey R.SR_STATUS [page] ≠ regKey R.SR_REPLY [page, w] := by
  rw [regKey_srStatus, regKey_srReply]; omega

theorem srStatus_lt (page : HostPort) : regKey R.SR_STATUS [page] < 0x400000 := by
  rw [regKey_srStatus]; omega

/-! ### `SR_CMD` takes a command's fields (R593) -/

theorem srFields_onlyRegs (d : Dev) (port page op len : Nat) (pair : Bool) : OnlyRegs d (d.srFields port page op len pair) := by
  unfold Dev.srFields
  split
  · exact ((wr_onlyRegs _ _ _ _).trans (wr_onlyRegs _ _ _ _)).trans (wr_onlyRegs _ _ _ _)
  · exact OnlyRegs.refl d

theorem Dev.srFields_rd (d : Dev) (port page op len : Nat) (pair : Bool) {f : Fld} {ix : List Nat}
    (other : regKey f.reg ix ≠ regKey R.SR_CMD [page]) : (d.srFields port page op len pair).rd f ix = d.rd f ix := by
  unfold Dev.srFields
  split
  · rw [Dev.rd_wr_ne _ _ _ _ _ _ other, Dev.rd_wr_ne _ _ _ _ _ _ other, Dev.rd_wr_ne _ _ _ _ _ _ other]
  · rfl

@[simp] theorem Dev.srFields_mailOk (d : Dev) (port page : HostPort) (op len : Nat) (pair : Bool) :
    (d.srFields port page op len pair).mailOk port page = d.mailOk port page := by
  unfold Dev.mailOk
  rw [(srFields_onlyRegs d port page op len pair).barsOn, Dev.srFields_rd d port page op len pair (srCfg_ne_srCmd page)]

section
variable {s : State} {t : Nat} {port page : HostPort} (runs : (s.dev.atTime t).runs = true) (answers : (s.dev.atTime t).mailOk port page = true)
include runs answers

/-- What answers a command before `SR_CMD` takes its fields answers it after. -/
theorem srFields_answers (op len : Nat) (pair : Bool) :
    ((s.dev.atTime t).srFields port page op len pair).runs ∧ ((s.dev.atTime t).srFields port page op len pair).mailOk port page :=
  ⟨(srFields_onlyRegs _ _ _ op len pair).runs.trans runs, (Dev.srFields_mailOk _ port page op len pair).trans answers⟩

/-- A submission through a page that answers the port does what `submitMsg` does with the message of the page. -/
theorem submit_answered {len : Nat} {e : Dev} {r : Strongroom}
    (ends : submitMsg page (len % 512) ((s.dev.atTime t).srFields port page 1 (len % 512) false, s.sr) = (e, r)) :
    ∃ u, exec (.submit t port page len) s = .next u ∧ u.sr = r ∧ u.dev = e := by
  refine ⟨s.withBoth (e, r), ?_, rfl, rfl⟩
  rw [exec_submit, submitVia, if_pos (srFields_answers runs answers 1 (len % 512) false), ends]

/-- A replay through a page that answers the port does what `replayProof` does. -/
theorem replay_answered {pair : Bool} {e : Dev} {r : Strongroom}
    (ends : replayProof page pair ((s.dev.atTime t).srFields port page 2 0 pair, s.sr) = (e, r)) :
    ∃ u, exec (.replayProof t port page pair) s = .next u ∧ u.sr = r ∧ u.dev = e ∧ u.pending = s.pending := by
  refine ⟨s.withBoth (e, r), ?_, rfl, rfl, rfl⟩
  rw [exec_replayProof, replayVia, if_pos (srFields_answers runs answers 2 0 pair), ends]

end

/-! ### A page shows how its command ended (R571, R593) -/

/-- `SR_STATUS` with the code, the `REASON` and the length of the reply, and `DONE`. -/
def Dev.showEnd (d : Dev) (page code reason len : Nat) : Dev :=
  (((d.wr F.SR_STATUS_CODE [page] code).wr F.SR_STATUS_REASON [page] reason).wr F.SR_STATUS_REPLY_LEN [page] len).wr F.SR_STATUS_DONE [page] 1

theorem showEnd_onlyRegs (d : Dev) (page code reason len : Nat) : OnlyRegs d (d.showEnd page code reason len) :=
  (((wr_onlyRegs _ _ _ _).trans (wr_onlyRegs _ _ _ _)).trans (wr_onlyRegs _ _ _ _)).trans (wr_onlyRegs _ _ _ _)

theorem Dev.showEnd_done (d : Dev) (page code reason len : Nat) : (d.showEnd page code reason len).rd F.SR_STATUS_DONE [page] = 1 :=
  Dev.rd_wr_same _ F.SR_STATUS_DONE [page] 1 (by decide)

theorem Dev.showEnd_reason (d : Dev) (page code reason len : Nat) :
    (d.showEnd page code reason len).rd F.SR_STATUS_REASON [page] = reason % 256 := by
  unfold Dev.showEnd
  rw [Dev.rd_wr_apart _ F.SR_STATUS_DONE F.SR_STATUS_REASON _ _ rfl (by decide) (by decide) (by decide),
    Dev.rd_wr_apart _ F.SR_STATUS_REPLY_LEN F.SR_STATUS_REASON _ _ rfl (by decide) (by decide) (by decide)]
  exact Dev.rd_wr_same _ F.SR_STATUS_REASON [page] reason (by decide)

theorem Dev.showEnd_rd (d : Dev) (page code reason len : Nat) {f : Fld} {ix : List Nat} (other : regKey f.reg ix ≠ regKey R.SR_STATUS [page]) :
    (d.showEnd page code reason len).rd f ix = d.rd f ix := by
  unfold Dev.showEnd
  rw [Dev.rd_wr_ne _ _ _ _ _ _ other, Dev.rd_wr_ne _ _ _ _ _ _ other, Dev.rd_wr_ne _ _ _ _ _ _ other, Dev.rd_wr_ne _ _ _ _ _ _ other]

/-! ### A command ends refused (R571, R592) -/

/-- A counter of the side-effect window counts beside the setup registers. -/
theorem Dev.bump_rd_setup (d : Dev) {f g : Fld} {ix jx : List Nat} {n : Nat} (counter : 0x400000 ≤ regKey f.reg ix)
    (setup : regKey g.reg jx < 0x400000) : (d.bump f ix n).rd g jx = d.rd g jx :=
  Dev.rd_bump_ne d f g ix jx n (Nat.ne_of_lt (Nat.lt_of_lt_of_le setup counter))

theorem Dev.setBackoff_rd (d : Dev) (b : Option Nat) (f : Fld) (ix : List Nat) : ({ d with srBackoff := b } : Dev).rd f ix = d.rd f ix := rfl

/-- Below the side-effect window a refusal changes no more than the page's status: what it counts, and the lost record that its event may
become, are counters of that window (R10). -/
theorem Dev.srRefuse_rd (d : Dev) (page reason : Nat) {f : Fld} {ix : List Nat} (setup : regKey f.reg ix < 0x400000) :
    (d.srRefuse page reason).rd f ix = (d.showEnd page (reasonCode reason) reason 0).rd f ix := by
  have lost : ∀ t, regKey f.reg ix ≠ regKey R.EVT_LOST [t] := fun t => by
    have : regKey R.EVT_LOST [t] = 0x441000 + 4 * t := rfl
    omega
  have refused : ∀ e : Dev, (e.bump F.MSG_REFUSED_COUNT).rd f ix = e.rd f ix := fun e => e.bump_rd_setup (by decide) setup
  have failed : ∀ e : Dev, (e.bump F.AUTH_FAILS_COUNT).rd f ix = e.rd f ix := fun e => e.bump_rd_setup (by decide) setup
  have waited : ∀ e : Dev, (e.bump F.BACKOFF_REFUSED_COUNT).rd f ix = e.rd f ix := fun e => e.bump_rd_setup (by decide) setup
  unfold Dev.srRefuse
  dsimp only
  rw [Dev.event_rd _ _ _ _ _ _ _ (lost _)]
  by_cases tagWrong : reason = 5
  · rw [if_pos tagWrong, if_pos tagWrong, Dev.setBackoff_rd, failed, refused]
    rfl
  · rw [if_neg tagWrong, if_neg tagWrong]
    split
    · rw [waited, refused]
      rfl
    · rw [refused]
      rfl

theorem Dev.srRefuse_done (d : Dev) (page : HostPort) (reason : Nat) : (d.srRefuse page reason).rd F.SR_STATUS_DONE [page] = 1 :=
  (d.srRefuse_rd page reason (srStatus_lt page)).trans (d.showEnd_done _ _ _ _)

theorem Dev.srRefuse_reason (d : Dev) (page : HostPort) (reason : Nat) :
    (d.srRefuse page reason).rd F.SR_STATUS_REASON [page] = reason % 256 :=
  (d.srRefuse_rd page reason (srStatus_lt page)).trans (d.showEnd_reason _ _ _ _)

theorem Reports.inHand {d e : Dev} (h : Reports d e) : e.inHand = d.inHand := by
  obtain ⟨g, r, o, a, p, rfl⟩ := h; rfl

/-- A refusal but that of a wrong tag, which starts the backoff (R572), reports and does nothing else. -/
theorem srRefuse_reports (d : Dev) (page : Nat) {reason : Nat} (tagOk : reason ≠ 5) : Reports d (d.srRefuse page reason) := by
  have shown : Reports d ((d.showEnd page (reasonCode reason) reason 0).bump F.MSG_REFUSED_COUNT) :=
    (showEnd_onlyRegs d page (reasonCode reason) reason 0).reports.trans (bump_reports _ _ _ _)
  unfold Dev.srRefuse
  dsimp only
  rw [if_neg tagOk, if_neg tagOk]
  split
  · exact (shown.trans (bump_reports _ F.BACKOFF_REFUSED_COUNT [] 1)).trans (event_reports _ _ _ _ _ _ _)
  · exact shown.trans (event_reports _ _ _ _ _ _ _)

/-! ### A message is refused at once (R558, R573) -/

theorem inHand_of_free {d : Dev} (free : d.srBusy = false) : d.inHand = none := by
  cases hand : d.inHand with
  | none => rfl
  | some h => simp [Dev.srBusy, hand] at free

theorem submitMsg_busy {d : Dev} (busy : d.srBusy = true) (page len : Nat) (r : Strongroom) :
    submitMsg page len (d, r) = (d.srRefuse page 0x0C, r) := if_pos busy

/-- A DECOMMISSIONED store refuses every message whose form is right (R558, R569). -/
theorem check_decommissioned {r : Strongroom} {m : List Byte} (retired : r.lifecycle = 4) (form : msgForm m = true) (peer : List Byte) :
    r.check peer m = (0x0A, []) := by
  unfold Strongroom.check
  rw [form, retired]
  rfl

theorem submitMsg_decommissioned {d : Dev} {r : Strongroom} {page len : Nat} (retired : r.lifecycle = 4) (free : d.srBusy = false)
    (calm : d.srWaits = false) (form : msgForm (d.srMsg page len) = true) : submitMsg page len (d, r) = (d.srRefuse page 0x0A, r) := by
  have checked : (d.storeNext r).check d.peerId (d.srMsg page len) = (0x0A, []) :=
    check_decommissioned (r := d.storeNext r) retired form d.peerId
  unfold submitMsg
  dsimp only
  rw [free, calm, checked]
  rfl

section
variable {d : Dev} {port page : HostPort} {op len : Nat} {pair : Bool}

theorem srFields_srBusy : (d.srFields port page op len pair).srBusy = d.srBusy := by
  obtain ⟨g, same⟩ := srFields_onlyRegs d port page op len pair
  rw [same]
  rfl

theorem srFields_srWaits : (d.srFields port page op len pair).srWaits = d.srWaits := by
  obtain ⟨g, same⟩ := srFields_onlyRegs d port page op len pair
  rw [same]
  rfl

/-- A command refused with a `REASON` other than a wrong tag leaves the message in hand, if any. -/
theorem srFields_srRefuse_inHand {reason : Nat} (tagOk : reason ≠ 5) :
    ((d.srFields port page op len pair).srRefuse page reason).inHand = d.inHand :=
  ((srFields_onlyRegs d port page op len pair).reports.trans (srRefuse_reports _ page tagOk)).inHand

end

/-- Settles O43: `submitMsg_busy`, and what a refusal shows and leaves. -/
theorem oneMessageAtATime : Obligations.OneMessageAtATime := by
  intro s t port page len d runs answers hand
  have busy : d.srBusy = true := by simp [Dev.srBusy, hand]
  obtain ⟨u, next, store, dev⟩ := submit_answered runs answers (submitMsg_busy (srFields_srBusy.trans busy) page (len % 512) s.sr)
  refine ⟨u, next, store, ?_⟩
  rw [dev]
  exact ⟨srFields_srRefuse_inHand (by decide), Dev.srRefuse_reason _ page 0x0C, Dev.srRefuse_done _ page 0x0C⟩

/-- In DECOMMISSIONED no kept proof is replayed (the model's reading, log entry 99). -/
theorem replayProof_decommissioned {r : Strongroom} (retired : r.lifecycle = 4) (page : Nat) (pair : Bool) (d : Dev) :
    replayProof page pair (d, r) = (d.srRefuse page 0x0A, r) := by
  unfold replayProof
  dsimp only
  rw [if_pos retired]

/-- Settles O45: `submitMsg_decommissioned` and `replayProof_decommissioned`, and what a refusal shows. -/
theorem decommissionedRefusesMessages : Obligations.DecommissionedRefusesMessages := by
  intro s t port page len pair d retired runs answers
  refine ⟨fun free calm form => ?_, ?_⟩
  · obtain ⟨u, next, store, dev⟩ :=
      submit_answered runs answers (submitMsg_decommissioned retired (srFields_srBusy.trans free) (srFields_srWaits.trans calm) form)
    refine ⟨u, next, store, ?_⟩
    rw [dev]
    exact ⟨(srFields_srRefuse_inHand (by decide)).trans (inHand_of_free free), Dev.srRefuse_reason _ page 0x0A, Dev.srRefuse_done _ page 0x0A⟩
  · obtain ⟨u, next, store, dev, _⟩ := replay_answered runs answers (replayProof_decommissioned retired page pair _)
    refine ⟨u, next, store, ?_⟩
    rw [dev]
    exact ⟨Dev.srRefuse_reason _ page 0x0A, Dev.srRefuse_done _ page 0x0A⟩

/-! ### The replay of a kept proof (R576) -/

section
variable (f : Fld) (ix : Nat → List Nat) (v : Nat → Nat)

theorem Dev.foldl_wr_rd_ne (l : List Nat) (d : Dev) {g : Fld} {jx : List Nat} (other : ∀ w ∈ l, regKey g.reg jx ≠ regKey f.reg (ix w)) :
    (l.foldl (fun d w => d.wr f (ix w) (v w)) d).rd g jx = d.rd g jx := by
  induction l generalizing d with
  | nil => rfl
  | cons w l ih =>
    rw [List.foldl_cons, ih _ fun u mem => other u (List.mem_cons_of_mem w mem), Dev.rd_wr_ne d f g (ix w) jx (v w) (other w List.mem_cons_self)]

/-- Of a field written at several indices, each place reads what it was given. -/
theorem Dev.foldl_wr_rd_mem (l : List Nat) (d : Dev) {w : Nat} (mem : w ∈ l)
    (apart : ∀ u ∈ l, u ≠ w → regKey f.reg (ix w) ≠ regKey f.reg (ix u))
    (fits : f.lo ≤ f.hi ∧ f.hi < 32) :
    (l.foldl (fun d w => d.wr f (ix w) (v w)) d).rd f (ix w) = v w % 2 ^ (f.hi + 1 - f.lo) := by
  induction l generalizing d with
  | nil => cases mem
  | cons u l ih =>
    rw [List.foldl_cons]
    by_cases later : w ∈ l
    · exact ih _ later fun x hx => apart x (List.mem_cons_of_mem u hx)
    · obtain rfl : w = u := (List.mem_cons.mp mem).resolve_right later
      have others : ∀ x ∈ l, regKey f.reg (ix w) ≠ regKey f.reg (ix x) := fun x hx =>
        apart x (List.mem_cons_of_mem w hx) fun same => later (same ▸ hx)
      rw [Dev.foldl_wr_rd_ne f ix v l _ others, Dev.rd_wr_same _ _ _ _ fits]

end

/-- The words of a reply in `SR_REPLYw` (R574). -/
def Dev.placeWords (d : Dev) (page : Nat) (b : List Byte) : Dev :=
  (List.range 64).foldl (fun d w => d.wr F.SR_REPLY_DATA [page, w] (ofLe (slice b (4 * w) 4))) d

theorem placeWords_onlyRegs (d : Dev) (page : Nat) (b : List Byte) : OnlyRegs d (d.placeWords page b) :=
  foldl_onlyRegs (fun d w => wr_onlyRegs d F.SR_REPLY_DATA [page, w] _) _ d

theorem Dev.placeWords_rd (d : Dev) (page : Nat) (b : List Byte) {f : Fld} {ix : List Nat}
    (other : ∀ w, w < 64 → regKey f.reg ix ≠ regKey R.SR_REPLY [page, w]) : (d.placeWords page b).rd f ix = d.rd f ix :=
  Dev.foldl_wr_rd_ne F.SR_REPLY_DATA (fun w => [page, w]) (fun w => ofLe (slice b (4 * w) 4)) _ d fun w mem => other w (List.mem_range.mp mem)

theorem ofLe_lt (l : List Byte) : ofLe l < 256 ^ l.length := by
  induction l with
  | nil => exact Nat.one_pos
  | cons b l ih =>
    have low : b.toNat < 256 := b.isLt
    rw [ofLe, List.length_cons, pow_succ]
    omega

/-- Each word of the reply stands in its register. -/
theorem Dev.placeWords_reply (d : Dev) (page : Nat) (b : List Byte) {w : Nat} (h : w < 64) :
    (d.placeWords page b).rd F.SR_REPLY_DATA [page, w] = ofLe (slice b (4 * w) 4) := by
  have apart : ∀ u ∈ List.range 64, u ≠ w → regKey R.SR_REPLY [page, w] ≠ regKey R.SR_REPLY [page, u] := fun u _ ne => by
    rw [regKey_srReply, regKey_srReply]; omega
  have word : ofLe (slice b (4 * w) 4) < 2 ^ 32 := by
    have := ofLe_lt (slice b (4 * w) 4)
    simpa [slice] using this
  exact (Dev.foldl_wr_rd_mem F.SR_REPLY_DATA (fun w => [page, w]) (fun w => ofLe (slice b (4 * w) 4)) _ d (List.mem_range.mpr h) apart
    (by decide)).trans (Nat.mod_eq_of_lt word)

/-- A page with a reply replayed: the reply and its status, with `BUSY` as it stood. -/
def Dev.replayed (d : Dev) (page : Nat) (b : List Byte) : Dev :=
  (((d.placeWords page b).showEnd page 0 0 b.length).wr F.SR_STATUS_BUSY [page] 0).wr F.SR_STATUS_BUSY [page] (d.rd F.SR_STATUS_BUSY [page])

theorem replayProof_kept {r : Strongroom} (alive : r.lifecycle ≠ 4) (page : Nat) (pair : Bool) (d : Dev) :
    replayProof page pair (d, r) = (d.replayed page (if pair then r.pairProof else r.proof), r) := by
  unfold replayProof
  dsimp only
  rw [if_neg alive]
  rfl

theorem replayed_onlyRegs (d : Dev) (page : Nat) (b : List Byte) : OnlyRegs d (d.replayed page b) :=
  (((placeWords_onlyRegs d page b).trans (showEnd_onlyRegs _ page 0 0 b.length)).trans (wr_onlyRegs _ _ _ _)).trans (wr_onlyRegs _ _ _ _)

/-- `BUSY` apart, a replayed page reads as its words and its status stand. -/
theorem Dev.replayed_rd_status (d : Dev) (page : Nat) (b : List Byte) {f : Fld} (status : f.reg = R.SR_STATUS) (fits : f.lo ≤ f.hi ∧ f.hi < 31) :
    (d.replayed page b).rd f [page] = ((d.placeWords page b).showEnd page 0 0 b.length).rd f [page] := by
  have field : f.lo ≤ f.hi ∧ f.hi < 32 := ⟨fits.1, by omega⟩
  unfold Dev.replayed
  rw [Dev.rd_wr_apart _ F.SR_STATUS_BUSY f _ _ status (by decide) field (.inl fits.2),
    Dev.rd_wr_apart _ F.SR_STATUS_BUSY f _ _ status (by decide) field (.inl fits.2)]

theorem Dev.replayed_rd (d : Dev) (page : Nat) (b : List Byte) {f : Fld} {ix : List Nat} (other : regKey f.reg ix ≠ regKey R.SR_STATUS [page]) :
    (d.replayed page b).rd f ix = (d.placeWords page b).rd f ix := by
  unfold Dev.replayed
  rw [Dev.rd_wr_ne _ _ _ _ _ _ other, Dev.rd_wr_ne _ _ _ _ _ _ other, Dev.showEnd_rd _ _ _ _ _ other]

/-- Settles O44: `replayProof_kept`, and what the page and the other registers read then. -/
theorem replayPlacesTheKeptProof : Obligations.ReplayPlacesTheKeptProof := by
  intro s t port page pair d kept runs answers alive
  obtain ⟨u, next, store, dev, waits⟩ := replay_answered runs answers (replayProof_kept alive page pair _)
  refine ⟨u, next, store, waits, ?_, fun w h => ?_, ?_, ?_, fun g jx notCmd notStatus notReply => ?_⟩ <;> rw [dev]
  · obtain ⟨g, same⟩ := (srFields_onlyRegs d port page 2 0 pair).trans (replayed_onlyRegs _ page kept)
    rw [same]
  · rw [Dev.replayed_rd _ _ _ (srStatus_ne_srReply page w).symm, Dev.placeWords_reply _ _ _ h]
  · rw [Dev.replayed_rd_status _ _ _ rfl (by decide), Dev.showEnd_done]
  · rw [Dev.replayed_rd_status _ _ _ rfl (by decide), Dev.showEnd_reason]
  · rw [Dev.replayed_rd _ _ _ notStatus, Dev.placeWords_rd _ _ _ notReply, Dev.srFields_rd _ _ _ _ _ _ notCmd]

end Sys2Proof.Machine
end

section
/-! SUPPORT. One step of the whole machine: which command it runs, and that none stops it; and the commands of the boot, of the register
shells, of the cipher engines and the Strongroom, and of the faults and the ledger. -/

namespace Sys2Proof.Machine

/-! ### A step -/

/-- Settles O1: by definition of `step`. -/
theorem frontCommandRuns : Obligations.FrontCommandRuns := fun _ _ _ => rfl

/-- Settles O2: `step` looks at the queue first, and an empty one is the model's choice to idle on (log entry 44). -/
theorem idleWithoutCommands : Obligations.IdleWithoutCommands := by
  intro s empty
  unfold step
  rw [empty]

/-- Settles O3: every command ends in the state with another device and another store (`exec_goes`), which leaves the queue. -/
theorem everyCommandAnswersANextState : Obligations.EveryCommandAnswersANextState := by
  intro c s
  obtain ⟨x, ends, _⟩ := exec_goes c s
  exact ⟨s.withBoth x, ends, rfl⟩

/-! ### Commands that are their own effect -/

/-- Settles O49: by definition each command's arm of `exec` is its effect at the command's instant; `POWER_ON_RESET` alone has none, and
the boots and the end of a restart act on the Strongroom's store too. -/
theorem bootCommandsComplete : Obligations.BootCommandsComplete := fun _ =>
  ⟨fun _ _ _ => rfl, fun _ _ => rfl, fun _ _ _ => rfl, fun _ _ => rfl, fun _ _ => rfl, fun _ => rfl, fun _ => rfl, fun _ => rfl⟩

/-- Settles O50: by definition each command's arm of `exec` is its effect at the command's instant. The two writes act on the Strongroom's
store too, and the reads read it. -/
theorem registerAccessesComplete : Obligations.RegisterAccessesComplete := fun s =>
  ⟨fun t port key later => exec_sealSetup t port key later s, fun t port addr words image => exec_registerWrite t port addr words image s,
    fun _ _ _ _ => rfl, fun _ _ _ => rfl, fun _ _ => rfl, fun _ _ _ => rfl, fun _ _ _ _ => rfl, fun _ _ _ => rfl, fun _ _ => rfl,
    fun _ _ => rfl, fun _ _ => rfl, fun _ _ => rfl, fun _ _ => rfl, fun _ _ _ => rfl, fun _ _ _ => rfl, fun _ _ => rfl, fun _ _ => rfl,
    fun _ _ _ => rfl, fun _ _ _ => rfl, fun _ _ _ _ => rfl⟩

/-- Settles O56: by definition each command's arm of `exec` is its effect at the command's instant. An unwrap, the mailbox commands and the
commit act on the Strongroom's store too. -/
theorem cipherAndKeyCommandsComplete : Obligations.CipherAndKeyCommandsComplete := fun s =>
  ⟨fun _ _ => rfl, fun _ _ => rfl, fun _ _ => rfl, fun _ _ => rfl, fun _ _ => rfl, fun _ _ => rfl,
    fun t port page len => exec_submit t port page len s, fun t port page pair => exec_replayProof t port page pair s,
    fun _ => rfl, fun _ _ => rfl, fun _ _ => rfl⟩

/-- Settles O57: by definition each command's arm of `exec` is its effect on the device at the command's instant. `REPAIR` and the ledger's
commands bring no more than the instant where the device does not run. -/
theorem faultCommandsComplete : Obligations.FaultCommandsComplete := fun _ =>
  ⟨fun _ _ _ _ _ => rfl, fun _ => rfl, fun _ _ _ _ _ _ => rfl, fun _ _ _ _ => rfl, fun _ _ => rfl, fun _ _ => rfl, fun _ _ => rfl⟩

end Sys2Proof.Machine
end

section
/-! SUPPORT. What reset leaves in the registers (R732, R746), and the resets that a host or a pin gives (R643, R731, R747). -/

namespace Sys2Proof.Machine

/-! ### Registers at reset (R732, R746) -/

/-- The fields stand from the top of the word down, none over another, and each reset value fits its field. -/
def fieldsDescend (top : Nat) : List FieldDef → Bool
  | [] => true
  | f :: fs => decide (f.hi < top ∧ f.lo ≤ f.hi ∧ f.reset < 2 ^ (f.hi + 1 - f.lo)) && fieldsDescend f.lo fs

theorem fieldsDescend_cons {top : Nat} {f : FieldDef} {fs : List FieldDef} (h : fieldsDescend top (f :: fs) = true) :
    f.hi < top ∧ f.lo ≤ f.hi ∧ f.reset < 2 ^ (f.hi + 1 - f.lo) ∧ fieldsDescend f.lo fs = true := by
  simpa only [fieldsDescend, Bool.and_eq_true, decide_eq_true_eq, and_assoc] using h

/-- Every register of the map is laid out so; the chapters' tables are looked at one by one. -/
theorem regTable_fieldsDescend : (regTable.all fun r => fieldsDescend 32 r.fields) = true := by
  unfold regTable
  simp only [List.all_append, Bool.and_eq_true, and_assoc]
  refine ⟨?_, ?_, ?_, ?_, ?_, ?_, ?_, ?_, ?_, ?_, ?_, ?_, ?_, ?_, ?_, ?_, ?_, ?_, ?_, ?_, ?_⟩ <;> decide

/-- Below its top a field lies in the list with its own bits. -/
theorem fieldsDescend_mem {top : Nat} {fs : List FieldDef} (h : fieldsDescend top fs = true) {g : FieldDef} (mem : g ∈ fs) :
    g.hi < top ∧ g.lo ≤ g.hi := by
  induction fs generalizing top with
  | nil => cases mem
  | cons f fs ih =>
    obtain ⟨below, order, _, rest⟩ := fieldsDescend_cons h
    obtain rfl | later := List.mem_cons.mp mem
    · exact ⟨below, order⟩
    · obtain ⟨lower, own⟩ := ih rest later
      exact ⟨by omega, own⟩

/-- With nothing at or above it in the word, a field that is set adds its value at its place. -/
theorem insBits_of_lt {w lo hi v : Nat} (order : lo ≤ hi) (free : w < 2 ^ lo) (fits : v < 2 ^ (hi + 1 - lo)) :
    insBits w hi lo v = v * 2 ^ lo + w := by
  have above : w < 2 ^ (hi + 1) := free.trans (Nat.pow_lt_pow_right (by decide) (by omega))
  rw [insBits_split w hi lo v order, Nat.mod_eq_of_lt free, Nat.mod_eq_of_lt fits, Nat.div_eq_of_lt above]
  ring

theorem fieldReset_lt {top : Nat} {fs : List FieldDef} (h : fieldsDescend top fs = true) : fieldReset fs < 2 ^ top := by
  induction fs generalizing top with
  | nil => exact Nat.two_pow_pos top
  | cons f fs ih =>
    obtain ⟨below, order, fits, rest⟩ := fieldsDescend_cons h
    calc fieldReset (f :: fs) = f.reset * 2 ^ f.lo + fieldReset fs := rfl
      _ < (f.reset + 1) * 2 ^ f.lo := by rw [Nat.succ_mul]; exact Nat.add_lt_add_left (ih rest) _
      _ ≤ 2 ^ (f.hi + 1 - f.lo) * 2 ^ f.lo := Nat.mul_le_mul_right _ fits
      _ = 2 ^ (f.hi + 1) := by rw [← pow_add]; congr 1; omega
      _ ≤ 2 ^ top := Nat.pow_le_pow_right (by decide) below

/-- The reset word is that of the lower fields with the top one set. -/
theorem fieldReset_cons {top : Nat} {f : FieldDef} {fs : List FieldDef} (h : fieldsDescend top (f :: fs) = true) :
    fieldReset (f :: fs) = insBits (fieldReset fs) f.hi f.lo f.reset := by
  obtain ⟨_, order, fits, rest⟩ := fieldsDescend_cons h
  exact (insBits_of_lt order (fieldReset_lt rest) fits).symm

/-- In the reset word each field reads its own reset value. -/
theorem bitsOf_fieldReset {top : Nat} {fs : List FieldDef} (h : fieldsDescend top fs = true) {g : FieldDef} (mem : g ∈ fs) :
    bitsOf (fieldReset fs) g.hi g.lo = g.reset := by
  induction fs generalizing top with
  | nil => cases mem
  | cons f fs ih =>
    obtain ⟨_, order, fits, rest⟩ := fieldsDescend_cons h
    rw [fieldReset_cons h]
    obtain rfl | later := List.mem_cons.mp mem
    · rw [bitsOf_insBits_same _ _ _ _ order, Nat.mod_eq_of_lt fits]
    · obtain ⟨lower, own⟩ := fieldsDescend_mem rest later
      rw [bitsOf_insBits_of_lt _ _ _ _ _ _ order lower own, ih rest later]

/-- A register that was never written, and whose reset does not depend on its index, holds its fields' reset values. -/
theorem regGet_nil_of_var_none {r : RegDef} (fixed : r.var = .none) (ix : List Nat) : regGet [] r ix = fieldReset r.fields % 2 ^ 32 := by
  unfold regGet regReset
  rw [fixed, sget_nil]
  exact (congrArg BitVec.toNat BitVec.zero_xor).trans (BitVec.toNat_ofNat _ _)

/-- Settles O29: no register is written yet (`regGet_nil_of_var_none`), and the reset word reads field by field (`bitsOf_fieldReset`). That
the lifecycle is MANUFACTURE is log entry 41's choice. -/
theorem resetRegisters : Obligations.ResetRegisters := by
  refine ⟨fun r mem fixed ix f hf => ?_, rfl, rfl, rfl, fun _ => rfl, rfl⟩
  have descend : fieldsDescend 32 r.fields = true := List.all_eq_true.mp regTable_fieldsDescend r mem
  have word : regGet State.reset.dev.kept.regs r ix = fieldReset r.fields :=
    (regGet_nil_of_var_none fixed ix).trans (Nat.mod_eq_of_lt (fieldReset_lt descend))
  rw [word, bitsOf_fieldReset descend hf]

/-! ### Resets (R643, R731, R747) -/

theorem exec_externalReset (t : Nat) (held : Bool) (s : State) :
    exec (.externalReset t held) s = .next (s.withDev (rstLow held (s.dev.atTime t))) := rfl
theorem exec_devReset (t : Nat) (port : HostPort) (key : Nat) (s : State) :
    exec (.devReset t port key) s = .next (s.withDev (devReset port key (s.dev.atTime t))) := rfl

theorem devReset_keyed {d : Dev} {port key : Nat} (runs : d.mode = .run) (live : d.livePort port = true) (keyed : key % 65536 = 0xD0E5) :
    devReset port key d = d.externalReset 2 false := if_pos ⟨runs, live, keyed⟩

theorem devReset_ignored {d : Dev} {port key : Nat} (lacks : d.mode ≠ .run ∨ d.livePort port = false ∨ key % 65536 ≠ 0xD0E5) :
    devReset port key d = d := by
  refine if_neg fun ⟨runs, live, keyed⟩ => ?_
  obtain stopped | closed | other := lacks
  · exact stopped runs
  · exact Bool.false_ne_true (closed.symm.trans live)
  · exact other keyed

theorem rstLow_halted {d : Dev} (halted : d.mode = .halted) (held : Bool) : rstLow held d = d := by
  have stays : d.resettable = false := by rw [Dev.resettable, halted]; rfl
  rw [rstLow, stays, if_neg Bool.false_ne_true]

/-- Settles O31: `devReset_keyed`, `devReset_ignored` and `rstLow_halted`. -/
theorem resetsNeedTheirKey : Obligations.ResetsNeedTheirKey := by
  intro s t port key held d
  refine ⟨fun runs live keyed => ?_, fun lacks => ?_, fun halted => ?_⟩
  · rw [exec_devReset, devReset_keyed runs live keyed]
  · rw [exec_devReset, devReset_ignored lacks]
  · rw [exec_externalReset, rstLow_halted halted]

end Sys2Proof.Machine
end

section
/-! SUPPORT. The serial order of accession numbers (R627), and the complete mirror delta of a single unit (R630, R671). -/

namespace Sys2Proof.Machine

/-! ### Accession numbers (R627) -/

/-- A number precedes those whose distance after it, modulo 2⁴⁸, is at most 2⁴⁷ − 1 and not 0. -/
theorem accBefore_iff (a b : Nat) :
    accBefore a b = true ↔ 0 < (b + 2 ^ 48 - a % 2 ^ 48) % 2 ^ 48 ∧ (b + 2 ^ 48 - a % 2 ^ 48) % 2 ^ 48 < 2 ^ 47 := by
  simp [accBefore]

/-- Settles O32: the distance to the number `n` further on is `n`, and back from it 2⁴⁸ − `n`, or 0 where it is the same. -/
theorem accessionOrder : Obligations.AccessionOrder := by
  intro a n ha hn
  have ahead : ((a + n) % 2 ^ 48 + 2 ^ 48 - a % 2 ^ 48) % 2 ^ 48 = n := by omega
  have back : (a + 2 ^ 48 - (a + n) % 2 ^ 48 % 2 ^ 48) % 2 ^ 48 = (2 ^ 48 - n) % 2 ^ 48 := by omega
  refine ⟨?_, Bool.eq_false_iff.mpr fun before => ?_⟩
  · rw [accBefore_iff, ahead]
    exact ⟨And.left, fun pos => ⟨pos, hn⟩⟩
  · rw [accBefore_iff, back] at before
    omega

/-! ### The complete delta (R630, R671) -/

theorem exec_deltaComplete (t : Nat) (s : State) : exec (.deltaComplete t) s = .next (s.withDev (deltaComplete (s.dev.atTime t))) := rfl

/-- A reply placed in a page is no more than registers. -/
theorem placeReply_onlyRegs (d : Dev) (page : Nat) (b : List Byte) : OnlyRegs d (d.placeReply page b) :=
  ((placeWords_onlyRegs d page b).trans (showEnd_onlyRegs _ page 0 0 b.length)).trans (wr_onlyRegs _ _ _ _)

/-- A proof that waits goes to its page, and then waits no more: nothing else changes (R573). -/
theorem Dev.placeProof_eq (d : Dev) : ∃ g, d.placeProof = { d with proofDue := none, kept := { d.kept with regs := g } } := by
  unfold Dev.placeProof
  split
  next none_due => exact ⟨d.kept.regs, by rw [← none_due]⟩
  next p _ =>
    obtain ⟨g, placed⟩ := placeReply_onlyRegs { d with proofDue := none } p.page p.bytes
    exact ⟨g, placed⟩

/-- The delta of a single unit that is complete: the stores as the cut kept them become those that a withdrawal returns to (R630). -/
theorem deltaComplete_single {d : Dev} (runs : d.runs = true) (cut : d.cutDone = true) (single : d.mirrors = false)
    (leads : d.follows = false) (first : d.deltaDone = false) :
    (deltaComplete d).mirror = d.cut.getD d.keptNow ∧ (deltaComplete d).deltaDone = true := by
  have due : ¬(!d.runs ∨ !d.cutDone ∨ (d.mirrors ∧ d.deltaUnacked)) := by simp [runs, cut, single]
  rw [deltaComplete, if_neg due, if_neg (ne_true_of_eq_false leads), if_neg (ne_true_of_eq_false first)]
  dsimp only
  obtain ⟨g, placed⟩ := Dev.placeProof_eq _
  rw [placed]
  split <;> exact ⟨rfl, rfl⟩

/-- Settles O38: `deltaComplete_single`. -/
theorem deltaCompleteEmptiesTheJournal : Obligations.DeltaCompleteEmptiesTheJournal := by
  intro s t d runs cut single leads first
  obtain ⟨mirror, done⟩ := deltaComplete_single runs cut single leads first
  exact ⟨_, exec_deltaComplete t s, mirror, done, rfl⟩

end Sys2Proof.Machine
end

section
/-! SUPPORT. The ledger's commands: pins (R647, R654) and the overflow entry (R646). -/

namespace Sys2Proof.Machine

/-! ### What the commands act by -/

theorem exec_pin (t : Nat) (port : HostPort) (s : State) :
    exec (.pin t port) s = s.onDev fun d => if (d.atTime t).runs then (d.atTime t).ledgerCmd port 1 ledgerPin else d.atTime t := rfl
theorem exec_unpin (t : Nat) (port : HostPort) (s : State) :
    exec (.unpin t port) s = s.onDev fun d => if (d.atTime t).runs then (d.atTime t).ledgerCmd port 2 ledgerUnpin else d.atTime t := rfl
theorem exec_clearOverflow (t : Nat) (port : HostPort) (s : State) :
    exec (.clearOverflow t port) s = s.onDev fun d => if (d.atTime t).runs then (d.atTime t).ledgerCmd port 3 ledgerClear else d.atTime t := rfl

/-- The device once a ledger command has ended: `LEDGER_STATUS` shows its code (R654). -/
def ledgerEnd (r : Nat × Dev) : Dev := r.2.wr F.LEDGER_STATUS_CODE [] r.1

@[simp] theorem ledgerEnd_ledger (r : Nat × Dev) : (ledgerEnd r).ledger = r.2.ledger := rfl
@[simp] theorem ledgerEnd_overflow (r : Nat × Dev) : (ledgerEnd r).overflow = r.2.overflow := rfl

theorem ledgerEnd_code (r : Nat × Dev) : (ledgerEnd r).rd F.LEDGER_STATUS_CODE = r.1 % 256 :=
  Dev.rd_wr_same _ F.LEDGER_STATUS_CODE [] r.1 (by decide)

/-- Through a diagnostic port a ledger command acts on the entry that `LEDGER_SEL` names, once `OP` is stored. -/
theorem Dev.ledgerCmd_served {d : Dev} {port : Nat} (diag : d.diagPort port = true) (op : Nat) (f : Dev → Nat → Nat × Dev) :
    d.ledgerCmd port op f = ledgerEnd (f (d.wr F.LEDGER_CMD_OP [] op) (d.rd F.LEDGER_SEL_INDEX)) := by
  have selected : (d.wr F.LEDGER_CMD_OP [] op).rd F.LEDGER_SEL_INDEX = d.rd F.LEDGER_SEL_INDEX := Dev.rd_wr_ne _ _ _ _ _ _ (by decide)
  rw [Dev.ledgerCmd, if_pos diag]
  dsimp only
  rw [selected]
  rfl

theorem onDev_ledgerCmd {s : State} {t : Nat} {port : HostPort} (runs : (s.dev.atTime t).runs = true)
    (diag : (s.dev.atTime t).diagPort port = true) (op : Nat) (f : Dev → Nat → Nat × Dev) :
    (s.onDev fun d => if (d.atTime t).runs then (d.atTime t).ledgerCmd port op f else d.atTime t) =
      .next (s.withDev (ledgerEnd (f ((s.dev.atTime t).wr F.LEDGER_CMD_OP [] op) ((s.dev.atTime t).rd F.LEDGER_SEL_INDEX)))) :=
  onDev_withDev s ((if_pos runs).trans (Dev.ledgerCmd_served diag op f))

/-! ### What they do to an entry -/

/-- The ledger with one entry changed, and the count of the pins that stand then (R654). -/
def Dev.repin (d : Dev) (i : Nat) (f : LedgerEntry → LedgerEntry) : Dev :=
  let d := { d with ledger := smod d.ledger i f }
  d.wr F.LEDGER_INFO_PINNED [] d.pinnedByDriver

@[simp] theorem Dev.repin_ledger (d : Dev) (i : Nat) (f : LedgerEntry → LedgerEntry) : (d.repin i f).ledger = smod d.ledger i f := rfl

theorem ledgerPin_room {d : Dev} {i : Nat} (ring : i ≠ 0) (used : (sget d.ledger i).used = true) (free : (sget d.ledger i).pinned = false)
    (room : d.pinnedByDriver < 1024) : ledgerPin d i = (0, d.repin i fun e => { e with pinned := true }) := by
  rw [ledgerPin, if_neg (by simp [ring, used]), if_neg (ne_true_of_eq_false free), if_neg (Nat.not_le.mpr room)]
  rfl

theorem ledgerPin_full {d : Dev} {i : Nat} (ring : i ≠ 0) (used : (sget d.ledger i).used = true) (free : (sget d.ledger i).pinned = false)
    (full : 1024 ≤ d.pinnedByDriver) : ledgerPin d i = (0x11, d) := by
  rw [ledgerPin, if_neg (by simp [ring, used]), if_neg (ne_true_of_eq_false free), if_pos full]

theorem ledgerUnpin_allowed {d : Dev} {i : Nat} (allowed : ¬((sget d.ledger i).cls = 1 ∧ (sget d.ledger i).handled = false)) :
    ledgerUnpin d i = (0, d.repin i fun e => { e with pinned := false, autoPin := false }) := by
  rw [ledgerUnpin, if_neg (by simpa using allowed)]
  rfl

theorem ledgerUnpin_refused {d : Dev} {i : Nat} (masked : (sget d.ledger i).cls = 1) (waits : (sget d.ledger i).handled = false) :
    ledgerUnpin d i = (0x12, d) := by
  rw [ledgerUnpin, if_pos (by simp [masked, waits])]

/-- A command that changes one entry leaves the others. -/
theorem ledgerEnd_repin (d : Dev) (i : Nat) (f : LedgerEntry → LedgerEntry) :
    sget (ledgerEnd (0, d.repin i f)).ledger i = f (sget d.ledger i) ∧ (ledgerEnd (0, d.repin i f)).rd F.LEDGER_STATUS_CODE = 0 ∧
      ∀ j, j ≠ i → sget (ledgerEnd (0, d.repin i f)).ledger j = sget d.ledger j :=
  ⟨sget_smod_same _ _ _, ledgerEnd_code _, fun _ other => sget_sput_ne _ _ other⟩

/-- Settles O33: each command acts on the selected entry of a device that runs (`Dev.ledgerCmd_served`), as `ledgerPin_room`,
`ledgerPin_full`, `ledgerUnpin_allowed` and `ledgerUnpin_refused` say. -/
theorem ledgerPins : Obligations.LedgerPins := by
  intro s t port d i e runs diag
  -- storing `OP` leaves the ledger and the pins as they were
  have pin := (exec_pin t port s).trans (onDev_ledgerCmd runs diag 1 ledgerPin)
  have unpin := (exec_unpin t port s).trans (onDev_ledgerCmd runs diag 2 ledgerUnpin)
  have clear := (exec_clearOverflow t port s).trans (onDev_ledgerCmd runs diag 3 ledgerClear)
  refine ⟨fun ring used free room => ?_, fun ring used free full => ?_, fun allowed => ?_, fun ⟨masked, waits⟩ => ?_, _, clear, rfl, rfl⟩
  · rw [pin, ledgerPin_room (d := d.wr F.LEDGER_CMD_OP [] 1) ring used free room]
    exact ⟨_, rfl, ledgerEnd_repin _ i _⟩
  · rw [pin, ledgerPin_full (d := d.wr F.LEDGER_CMD_OP [] 1) ring used free full]
    exact ⟨_, rfl, rfl, ledgerEnd_code _⟩
  · rw [unpin, ledgerUnpin_allowed (d := d.wr F.LEDGER_CMD_OP [] 2) allowed]
    exact ⟨_, rfl, ledgerEnd_repin _ i _⟩
  · rw [unpin, ledgerUnpin_refused (d := d.wr F.LEDGER_CMD_OP [] 2) masked waits]
    exact ⟨_, rfl, rfl, ledgerEnd_code _⟩

end Sys2Proof.Machine
end

section
/-! SUPPORT. The seal (R742, R743): the write that seals the device, what is performed after it, and what a sealed device drops. -/

namespace Sys2Proof.Machine

/-! ### An inbound write that its request lets through (R446, R450, R737) -/

theorem requestOk_iff (a n : Nat) : requestOk a n = true ↔ (1 ≤ n ∧ n ≤ 16) ∧ a % 4 = 0 ∧ a / 64 = (a + 4 * n - 1) / 64 := by
  simp [requestOk, and_assoc]

theorem gateOfReq_one {a : Nat} (apart : windowOf a = none) : gateOfReq a 1 = none := by
  simp [gateOfReq, reqAddrs, apart]

/-- Below the receive-folio windows no gate is passed. -/
theorem gateOfReq_low {a n : Nat} (low : a + 4 * n ≤ 0x580000) : gateOfReq a n = none := by
  refine List.findSome?_eq_none_iff.mpr fun x mem => ?_
  obtain ⟨i, hi, rfl⟩ := List.mem_map.mp mem
  have below : a + 4 * i < 0x580000 := by have := List.mem_range.mp hi; omega
  exact if_neg fun window => absurd window.1 (Nat.not_le.mpr below)

/-- A well-placed write to a running device, through a port with its BARs assigned and past no gate, is performed word by word. -/
theorem registerWrite_performed {x : WithSr} {port : HostPort} (runs : x.1.runs = true) (bars : x.1.barsOn port = true) {a : Nat}
    {w : List (Word × Nat)} (placed : requestOk a w.length = true) (noGate : gateOfReq a w.length = none) (image : Option (List Byte)) :
    registerWrite port a w image x = writeWords port image a w x := by
  have mode : x.1.mode = .run := by simpa [Dev.runs] using runs
  simp [registerWrite, Dev.writeWaits, mode, bars, placed, noGate]

/-! ### The word of `SEAL` (R742) -/

theorem seal_base : R.SEAL.base = 32 := rfl

theorem regAt_seal : regAt R.SEAL.base = some (R.SEAL, []) := by decide

/-- `SEAL` lies in no bank. -/
theorem Dev.place_seal (d : Dev) : d.place R.SEAL.base = R.SEAL.base := rfl

/-- Every port with its BARs assigned serves `SEAL`. -/
theorem Dev.served_seal {d : Dev} {port : HostPort} (bars : d.barsOn port = true) : d.served port R.SEAL.base = true := by
  have host : ¬4 ≤ port.val := by omega
  rw [Dev.served, if_neg host, bars]
  rfl

/-- `SEAL` gives no command of another kind. -/
theorem goWord_seal (port v mask : Nat) (image : Option (List Byte)) (x : WithSr) : goWord port R.SEAL.base v mask image x = x := by
  unfold goWord
  dsimp only
  rw [Dev.place_seal, regAt_seal]
  exact ite_self x

/-- The fields of `SEAL` keep nothing of what is written, and no rule of its own follows the write. -/
theorem Dev.writeReg_seal (d : Dev) (v mask : Nat) : d.writeReg R.SEAL [] v mask = d.putWord R.SEAL [] v mask := rfl

/-- What a word of `SEAL` does to a device that runs: the key seals it (R742), and a sealed one counts the word as dropped (R743). -/
def Dev.sealWord (d : Dev) (v mask : Nat) : Dev :=
  if d.sealed then d.bump F.SEAL_DROPS_COUNT
  else if (v &&& mask) % 65536 = 0x5EA1 then (d.putWord R.SEAL [] v mask).wr F.BOOT_STATUS_SEALED [] 1
  else d.putWord R.SEAL [] v mask

theorem Dev.busWord_seal {d : Dev} {port : HostPort} (runs : d.runs = true) (bars : d.barsOn port = true) (v mask : Nat) :
    d.busWord port R.SEAL.base v mask = d.sealWord v mask := by
  have performed : ¬(!d.runs ∨ !d.served port R.SEAL.base) := by simp [runs, Dev.served_seal bars]
  have covered : (d.sealed && sealedOff R.SEAL.base) = d.sealed := Bool.and_true _
  have bar0 : ¬inBar2 R.SEAL.base = true ∧ ¬inBar4 R.SEAL.base = true := by decide
  rw [Dev.busWord, if_neg bar0.1, if_neg bar0.2, if_neg performed, Dev.place_seal, regAt_seal]
  dsimp only
  rw [covered, Dev.writeReg_seal]
  simp [Dev.sealWord]

theorem putWord_reports (d : Dev) (r : RegDef) (ix : List Nat) (v mask : Nat) : Reports d (d.putWord r ix v mask) :=
  ⟨_, d.kept.rings, d.out, d.acc, d.pendReads, rfl⟩

/-- A word put into another register leaves a field. -/
theorem Dev.rd_putWord_ne (d : Dev) (r : RegDef) (ix jx : List Nat) (v mask : Nat) (g : Fld) (other : regKey g.reg jx ≠ regKey r ix) :
    (d.putWord r ix v mask).rd g jx = d.rd g jx :=
  congrArg (bitsOf · g.hi g.lo) (regGet_regPut_ne _ _ _ _ _ _ other)

theorem Dev.sealed_bump_drops (d : Dev) : (d.bump F.SEAL_DROPS_COUNT).sealed = d.sealed :=
  congrArg (· != 0) (Dev.rd_bump_ne d F.SEAL_DROPS_COUNT F.BOOT_STATUS_SEALED [] [] 1 (by decide))

theorem Dev.sealed_putWord_seal (d : Dev) (v mask : Nat) : (d.putWord R.SEAL [] v mask).sealed = d.sealed :=
  congrArg (· != 0) (Dev.rd_putWord_ne d R.SEAL [] [] v mask F.BOOT_STATUS_SEALED (by decide))

theorem Dev.sealed_wr_sealed (d : Dev) : (d.wr F.BOOT_STATUS_SEALED [] 1).sealed = true :=
  congrArg (· != 0) (Dev.rd_wr_same d F.BOOT_STATUS_SEALED [] 1 (by decide))

/-- The word changes registers and counts alone: the device runs on, at the same instant and with the same ports. -/
theorem sealWord_reports (d : Dev) (v mask : Nat) : Reports d (d.sealWord v mask) := by
  unfold Dev.sealWord
  split
  · exact bump_reports _ _ _ _
  · split
    · exact (putWord_reports d R.SEAL [] v mask).trans (wr_reports _ _ _ _)
    · exact putWord_reports d R.SEAL [] v mask

/-- The key seals, another word does not, and a sealed device stays sealed. -/
theorem Dev.sealWord_sealed (d : Dev) (v mask : Nat) :
    (d.sealWord v mask).sealed = (d.sealed || decide ((v &&& mask) % 65536 = 0x5EA1)) := by
  unfold Dev.sealWord
  cases sealed : d.sealed with
  | true => rw [if_pos rfl, Dev.sealed_bump_drops, sealed, Bool.true_or]
  | false =>
    rw [if_neg Bool.false_ne_true, Bool.false_or]
    split
    next keyed => rw [Dev.sealed_wr_sealed, decide_eq_true keyed]
    next other => rw [Dev.sealed_putWord_seal, sealed, decide_eq_false other]

/-- Bits 15:0 of a word written whole are its own. -/
theorem and_enabledBits_mod (key : Word) : (key.toNat &&& enabledBits 15) % 65536 = key.toNat % 65536 := by
  have whole : enabledBits 15 = 2 ^ 32 - 1 := by decide
  rw [whole, Nat.and_two_pow_sub_one_eq_mod, Nat.mod_eq_of_lt key.isLt]

/-! ### The words after it (R447, R742) -/

theorem Reports.runs {d e : Dev} (h : Reports d e) : e.runs = d.runs := by
  obtain ⟨g, r, o, a, p, rfl⟩ := h; rfl
theorem Reports.barsOn {d e : Dev} (h : Reports d e) (port : Nat) : e.barsOn port = d.barsOn port := by
  obtain ⟨g, r, o, a, p, rfl⟩ := h; rfl

/-- What has reported at an instant stands at that instant. -/
theorem Reports.atTime {d e : Dev} {t : Nat} (h : Reports (d.atTime t) e) : e.atTime t = e := by
  obtain ⟨g, r, o, a, p, rfl⟩ := h
  simp [Dev.atTime]

/-- From `SEAL` on a request of at most eight words stays in its block of 64 bytes. -/
theorem requestOk_seal {n : Nat} (least : 1 ≤ n) (few : n ≤ 8) : requestOk R.SEAL.base n = true := by
  rw [requestOk_iff, seal_base]
  omega

/-- So does one of at most seven from the word after it. -/
theorem requestOk_after_seal {n : Nat} (least : 1 ≤ n) (few : n ≤ 7) : requestOk (R.SEAL.base + 4) n = true := by
  rw [requestOk_iff, seal_base]
  omega

section
variable {s : State} {t : Nat} {port : HostPort} (runs : s.dev.runs = true) (bars : s.dev.barsOn port = true)
include runs bars

/-- A request from `SEAL` on: the word of `SEAL` first, then the others on the device as it has left it. -/
theorem exec_sealSetup_words (key : Word) {later : List (Word × Nat)} (few : later.length < 8) :
    exec (.sealSetup t port key later) s =
      .next (s.withBoth (writeWords port none (R.SEAL.base + 4) later
        ((s.dev.atTime t).sealWord key.toNat (enabledBits 15), s.sr))) := by
  have ok : requestOk R.SEAL.base ((key, 15) :: later).length = true := requestOk_seal (Nat.succ_pos _) few
  have noGate : gateOfReq R.SEAL.base ((key, 15) :: later).length = none := gateOfReq_low (by
    rw [seal_base, List.length_cons]; omega)
  have word : (s.dev.atTime t).busWord port R.SEAL.base key.toNat (enabledBits 15) = (s.dev.atTime t).sealWord key.toNat (enabledBits 15) :=
    Dev.busWord_seal (d := s.dev.atTime t) runs bars _ _
  rw [exec_sealSetup, registerWrite_performed (x := (s.dev.atTime t, s.sr)) runs bars ok noGate, writeWords]
  dsimp only
  rw [goWord_seal, word]

/-- The later words do what a request of their own would do then. -/
theorem exec_sealSetup_later (key : Word) (w : Word × Nat) {later : List (Word × Nat)} (few : later.length < 7) :
    exec (.sealSetup t port key (w :: later)) s =
      exec (.registerWrite t port (R.SEAL.base + 4) (w :: later) none)
        (s.withDev ((s.dev.atTime t).sealWord key.toNat (enabledBits 15))) := by
  have reports := sealWord_reports (s.dev.atTime t) key.toNat (enabledBits 15)
  have runsOn : ((s.dev.atTime t).sealWord key.toNat (enabledBits 15)).runs = true := reports.runs.trans runs
  have barsOn : ((s.dev.atTime t).sealWord key.toNat (enabledBits 15)).barsOn port = true := (reports.barsOn port).trans bars
  have ok : requestOk (R.SEAL.base + 4) (w :: later).length = true := requestOk_after_seal (Nat.succ_pos _) few
  have noGate : gateOfReq (R.SEAL.base + 4) (w :: later).length = none := gateOfReq_low (by rw [seal_base, List.length_cons]; omega)
  have alone := registerWrite_performed (x := ((s.dev.atTime t).sealWord key.toNat (enabledBits 15), s.sr)) runsOn barsOn ok noGate none
  rw [exec_sealSetup_words runs bars key (later := w :: later) (Nat.succ_lt_succ few), exec_registerWrite]
  simp only [State.withDev, reports.atTime, alone]
  rfl

end

/-! ### What a sealed device drops (R743) -/

/-- A register that the seal covers lies outside the side-effect window, and so outside the receive folios of the CAN channels. -/
theorem windowOf_of_sealedOff {a : Nat} (covered : sealedOff a = true) : windowOf a = none := by
  have side : sideWindow a = false := by simp_all [sealedOff]
  have outside : ¬(0x400000 ≤ a ∧ a < 0x1000000) := of_decide_eq_false side
  exact if_neg fun window => outside (by omega)

theorem regAt_unmapped : regAt 0xFFFFFFFF = none := by decide

/-- No register of the map lies in BAR4. -/
theorem Dev.not_inBar4_of_regAt {d : Dev} {a : Nat} (mapped : (regAt (d.place a)).isSome = true) : inBar4 a = false := by
  refine decide_eq_false fun bar4 => ?_
  have beyond : d.place a = 0xFFFFFFFF := by
    rw [Dev.place, if_neg (by omega), if_neg (by omega)]
  rw [beyond, regAt_unmapped] at mapped
  cases mapped

/-- A covered word of a sealed device counts as dropped. -/
theorem Dev.busWord_sealed {d : Dev} {port a : Nat} (runs : d.runs = true) (sealed : d.sealed = true) (serves : d.served port a = true)
    (apart : inBar2 a = false) (mapped : (regAt (d.place a)).isSome = true) (covered : sealedOff a = true) (v mask : Nat) :
    d.busWord port a v mask = d.bump F.SEAL_DROPS_COUNT := by
  obtain ⟨x, found⟩ := Option.isSome_iff_exists.mp mapped
  simp [Dev.busWord, apart, Dev.not_inBar4_of_regAt mapped, runs, serves, found, sealed, covered]

/-- Nor does it give a command. -/
theorem goWord_sealed {d : Dev} {a : Nat} (sealed : d.sealed = true) (covered : sealedOff a = true) (port v mask : Nat)
    (image : Option (List Byte)) (r : Strongroom) : goWord port a v mask image (d, r) = (d, r) := by
  simp [goWord, sealed, covered]

/-- A sealed device drops and counts a covered word that is written alone. -/
theorem exec_registerWrite_sealed {s : State} {t : Nat} {port : HostPort} (runs : s.dev.runs = true) (bars : s.dev.barsOn port = true)
    {a : Nat} (sealed : (s.dev.atTime t).sealed = true) (serves : (s.dev.atTime t).served port a = true) (apart : inBar2 a = false)
    (mapped : (regAt ((s.dev.atTime t).place a)).isSome = true) (covered : sealedOff a = true) (aligned : a % 4 = 0) (w : Word) (be : Nat)
    (image : Option (List Byte)) :
    exec (.registerWrite t port a [(w, be)] image) s = .next (s.withDev ((s.dev.atTime t).bump F.SEAL_DROPS_COUNT)) := by
  have ok : requestOk a [(w, be)].length = true := (requestOk_iff a 1).mpr (by omega)
  have noGate : gateOfReq a [(w, be)].length = none := gateOfReq_one (windowOf_of_sealedOff covered)
  have dropped : (s.dev.atTime t).busWord port a w.toNat (enabledBits be) = (s.dev.atTime t).bump F.SEAL_DROPS_COUNT :=
    Dev.busWord_sealed (d := s.dev.atTime t) runs sealed serves apart mapped covered _ _
  have still : ((s.dev.atTime t).bump F.SEAL_DROPS_COUNT).sealed = true := (Dev.sealed_bump_drops _).trans sealed
  rw [exec_registerWrite, registerWrite_performed (x := (s.dev.atTime t, s.sr)) runs bars ok noGate, writeWords, writeWords]
  dsimp only
  rw [dropped, goWord_sealed still covered]
  rfl

/-- Settles O30: the word of `SEAL` alone does what `Dev.sealWord` says, the later words of its request are performed on the device as it has
left it (`exec_sealSetup_later`), and a sealed device counts a covered word and drops it (`exec_registerWrite_sealed`). -/
theorem theSeal : Obligations.TheSeal := by
  intro s t port runs bars
  refine ⟨fun key => ⟨_, exec_sealSetup_words runs bars key (later := []) (by decide), rfl, ?_, ?_, fun w later few => ?_⟩,
    fun a be w image sealed serves apart mapped covered aligned =>
      exec_registerWrite_sealed runs bars sealed serves apart mapped covered aligned w be image⟩
  · exact (sealWord_reports (s.dev.atTime t) key.toNat (enabledBits 15)).runs.trans runs
  · have sealed := (s.dev.atTime t).sealWord_sealed key.toNat (enabledBits 15)
    rw [and_enabledBits_mod] at sealed
    exact sealed
  · exact exec_sealSetup_later runs bars key w few

end Sys2Proof.Machine
end
